-- ==== Sys2Proof/Word.lean ====
section
/-! DEFINITION. The word types of the machine and their plainest names (R5, R63, R81, R85, R87). -/

namespace Sys2Proof

/-- A byte of memory. -/
abbrev Byte := BitVec 8

/-- A scalar register, CSR or doubleword (R87). -/
abbrev Word := BitVec 64

/-- A 32-bit instruction word (R63). -/
abbrev IWord := BitVec 32

/-- The number of a scalar register, x0 to x31 (R87). -/
abbrev Reg := BitVec 5

/-- The value of a 5-bit vector field: 0-29 name v0-v29, 30 vin, 31 vout (R73). -/
abbrev VReg := BitVec 5

/-- The number of a mask register, m0 to m7 (R87). -/
abbrev MReg := BitVec 3

/-- A 512-bit vector register (R87). -/
abbrev VWord := BitVec 512

/-- A 256-bit command word (R81). -/
abbrev CmdWord := BitVec 256

/-- A 64-byte record: shape record, collective record, format record, work-queue record (R85, R350, R163, R296). -/
abbrev Rec := BitVec 512

end Sys2Proof
end

