-- ==== Sys2Proof/Config.lean ====
section
/-! DEFINITION. What an implementation fixes and the values the manual leaves free: constants without a body, so that
nothing can be proved of the values they take. -/

namespace Sys2Proof.Config

/-- The byte that DRAM byte `key` reads as under a key other than the one it was written under: the two keys are numbers
that name identifier and epoch (R225, R380; log entry 10, DESIGN CHOICE). -/
opaque otherKeyByte (key written reader : Nat) : Byte

/-- Which candidate a TLB replaces, or a slice evicts: pseudo-LRU is not described further (R223, R363; log entry 15, DESIGN CHOICE). -/
opaque victim (clock : Nat) : Nat

/-- The way that a pinned line occupies in its set (R375, R376; log entry 15, DESIGN CHOICE). -/
opaque pinWay (line : Nat) : Nat

/-- The position an opportunistic mode serves next where the manual fixes no order (R353, R419; log entry 16, DESIGN CHOICE). -/
opaque order (clock : Nat) : Nat

/-- Whether member m of the domain aborts a collective, with the index of its first faulting participant: another module's command may
differ (R403; log entry 22, DESIGN CHOICE). -/
opaque peerAborts (clock m : Nat) : Option (BitVec 21)

/-- Byte i of the value that member m of the domain brings to a collective: another module computes it (R403; log entry 22, DESIGN CHOICE). -/
opaque peerByte (clock m i : Nat) : Byte

/-- The fixed hash of destination module and source die that chooses a scale-out port (R400; log entry 17, DESIGN CHOICE). -/
opaque portHash (module die : Nat) : Nat

/-- Does a draw in mW lie above 90 % of a limit in mA? The supply voltage at the ZM-PM40 is not given (R431, R432; log
entry 24, DESIGN CHOICE). -/
opaque aboveLimit (drawMw ilimMa : Nat) : Bool

/-- Byte `off` of the retirement log beyond the image and the sequence, whose layout the manual does not give (R439, R444; log entry 25,
DESIGN CHOICE). -/
opaque recordByte (clock off : Nat) : Byte

/-- Byte `off` of the lifetime records, whose layout the manual does not give; with them Bartan flags a module below its code floor and
reports the regions whose DRAM is in service (R2, R14, R440, R444; log entries 25 and 99, DESIGN CHOICE). -/
opaque reportByte (belowFloor : Bool) (dramRegions clock off : Nat) : Byte

/-- Does a staged image of a class pass its signed manifest (R433, R444)? The signature is checked outside the model (log
entry 12, DESIGN CHOICE). -/
opaque manifestOk (cls digest : Nat) : Bool

end Sys2Proof.Config
end

