-- ==== Sys2Proof/Syntax.lean ====
section
/-! DEFINITION. The syntax of every step of the machine: one constructor of `Instr` for each row of
spec/opcode_table.json: the RISC-V base (R106), the Xelvano program instructions (R66-R80), the engine commands that
ISSUE pushes (R83) and the hardware events of the rest of the manual. -/

namespace Sys2Proof

/-- The standard loads (R106). -/
inductive LoadKind where
  | lb | lh | lw | ld | lbu | lhu | lwu
deriving DecidableEq, Repr

/-- The standard stores (R106). -/
inductive StoreKind where
  | sb | sh | sw | sd
deriving DecidableEq, Repr

/-- Register-immediate operations with a 12-bit immediate (R106: RV64I). -/
inductive ImmOp where
  | addi | slti | sltiu | xori | ori | andi | addiw
deriving DecidableEq, Repr

/-- Register-immediate operations with a 6-bit amount (R106: RV64I, Zba, Zbb, Zbs). -/
inductive Shift6Op where
  | slli | srli | srai | rori | bclri | bexti | binvi | bseti | slliUw
deriving DecidableEq, Repr

/-- Register-immediate operations with a 5-bit amount (R106: RV64I, Zbb). -/
inductive Shift5Op where
  | slliw | srliw | sraiw | roriw
deriving DecidableEq, Repr

/-- Unary operations (R106: Zbb). -/
inductive UnOp where
  | clz | ctz | cpop | clzw | ctzw | cpopw | sextB | sextH | zextH | orcB | rev8
deriving DecidableEq, Repr

/-- Register-register operations (R106: RV64I, M, Zba, Zbb, Zbs, Zicond). -/
inductive RegOp where
  | add | sub | sll | slt | sltu | xor | srl | sra | or | and
  | addw | subw | sllw | srlw | sraw
  | mul | mulh | mulhsu | mulhu | div | divu | rem | remu
  | mulw | divw | divuw | remw | remuw
  | addUw | sh1add | sh2add | sh3add | sh1addUw | sh2addUw | sh3addUw
  | andn | orn | xnor | max | maxu | min | minu | rol | ror | rolw | rorw
  | bclr | bext | binv | bset
  | czeroEqz | czeroNez
deriving DecidableEq, Repr

/-- The computational instructions of the scalar base (R106). -/
inductive IntOp where
  | lui (rd : Reg) (imm : BitVec 20)
  | auipc (rd : Reg) (imm : BitVec 20)
  | imm (op : ImmOp) (rd rs1 : Reg) (imm : BitVec 12)
  | shift6 (op : Shift6Op) (rd rs1 : Reg) (sh : BitVec 6)
  | shift5 (op : Shift5Op) (rd rs1 : Reg) (sh : BitVec 5)
  | un (op : UnOp) (rd rs1 : Reg)
  | reg (op : RegOp) (rd rs1 rs2 : Reg)
deriving DecidableEq, Repr

/-- Branch conditions (R106). -/
inductive BrCond where
  | eq | ne | lt | ge | ltu | geu
deriving DecidableEq, Repr

/-- Branches and jumps; the offsets are the encoded bits [12:1], [20:1] and [11:0] (R106, R252). -/
inductive BranchJump where
  | branch (c : BrCond) (rs1 rs2 : Reg) (off : BitVec 12)
  | jal (rd : Reg) (off : BitVec 20)
  | jalr (rd rs1 : Reg) (off : BitVec 12)
deriving DecidableEq, Repr

/-- The operations of the standard AMOs and of AMOQ (R110, R118). -/
inductive AmoOp where
  | add | swap | and | or | xor | min | max | minu | maxu | cas
deriving DecidableEq, Repr

/-- The operations of the standard A extension, without compare-and-swap (R110). -/
inductive StdAmo where
  | add | swap | and | or | xor | min | max | minu | maxu
deriving DecidableEq, Repr

/-- The source of a Zicsr instruction: a register or a 5-bit immediate (R123). -/
inductive CsrSrc where
  | reg (rs1 : Reg)
  | imm (v : BitVec 5)
deriving DecidableEq, Repr

/-- Scope codes (R69, R230). -/
inductive Scope where
  | core | clu | chp | mod | sys
deriving DecidableEq, Repr

/-- Size of a qualified access: 1, 2, 4 or 8 bytes (R68). -/
inductive QSize where
  | b | h | w | d
deriving DecidableEq, Repr

/-- The predicate field msel (R72): none or m1 to m3. -/
inductive MSel where
  | none | m1 | m2 | m3
deriving DecidableEq, Repr

/-- The operand of a scaled mask or a group of a grouped reduction: 2, 4, 8, 16 or 32 elements (R75). -/
inductive GroupSize where
  | g2 | g4 | g8 | g16 | g32
deriving DecidableEq, Repr

/-- The fields of a two-source V-format word: msel, h2, h1, vs2, vs1, vd (R72). -/
structure VOps where
  msel : MSel
  h2 : Bool
  h1 : Bool
  vs2 : VReg
  vs1 : VReg
  vd : VReg
deriving DecidableEq, Repr

/-- The fields of a one-source V-format word (R75: unary class). -/
structure VUn where
  msel : MSel
  h1 : Bool
  vs1 : VReg
  vd : VReg
deriving DecidableEq, Repr

/-- The fields of a V-format word with a 6-bit immediate in {h2, vs2} (R75: slide and broadcast). -/
structure VImm where
  msel : MSel
  imm : BitVec 6
  h1 : Bool
  vs1 : VReg
  vd : VReg
deriving DecidableEq, Repr

/-- The fields of a compare (R75). -/
structure VCmp where
  msel : MSel
  h2 : Bool
  h1 : Bool
  vs2 : VReg
  vs1 : VReg
  md : MReg
deriving DecidableEq, Repr

/-- A command accepted by an engine: the core it was issued on and its sequence number (R172, R191, R354, R409). -/
structure CmdRef where
  core : Nat
  seq : Nat
deriving DecidableEq, Repr

/-- A page index of a query slot (R405). -/
structure QIdx where
  qs : Nat
  idx : Nat
deriving DecidableEq, Repr

/-- A subscription of a core's table: its sweep, slot and page index (R405). -/
structure SubName where
  sweep : Nat
  page : QIdx
deriving DecidableEq, Repr

/-- A part of the module that a defect map or a log entry names (R22, R35): a compute site, a cluster site of a
compute site (12 py + px), or a core slot of a cluster site. -/
inductive Part where
  | site (site : Nat)
  | cluster (site clu : Nat)
  | slot (site clu slot : Nat)
deriving DecidableEq, Repr

/-- Who writes a register (R6, R221, R289, R297). -/
inductive Agent where
  | serviceCore (cluster : Nat)
  | context (core ctx : Nat)
  | host
  | bartan
  | controller
deriving DecidableEq, Repr

/-- What an SPDM requester asks of the trust die's responder (R438). -/
inductive SpdmReq where
  | openSession
  | closeSession
  | challenge
  | measurement (block : Nat)
  | installKey (id : Nat) (key : Nat)
  | other
deriving DecidableEq, Repr

/-- The MCTP control commands (R443). -/
inductive MctpCmd where
  | setEid (eid : BitVec 8)
  | getEid
  | getVersion
  | getMsgTypes
  | getVendor
  | other
deriving DecidableEq, Repr

/-- How an instruction fetch fails (R361, R216-R219). -/
inductive FetchFail where
  | page (perm stripe : Bool)
  | access
  | multihit
  | poison
  | ecc
  | stripeDown
deriving DecidableEq, Repr

/-- The measured draw of one region at a power recomputation: F(r) and the total, in mW (R429, R432). -/
structure Draw where
  region : Nat
  fixedMw : Nat
  drawMw : Nat
deriving DecidableEq, Repr

/-- Every step of the machine. -/
inductive Instr where
  /-- RV_LOAD (R107). -/
  | rvLoad (k : LoadKind) (rd rs1 : Reg) (imm : BitVec 12)
  /-- RV_STORE (R107). -/
  | rvStore (k : StoreKind) (rs2 rs1 : Reg) (imm : BitVec 12)
  /-- RV_INTEGER_OP (R106). -/
  | rvIntegerOp (op : IntOp)
  /-- RV_BRANCH_JUMP (R252). -/
  | rvBranchJump (j : BranchJump)
  /-- FENCE (R108); fm, rs1 and rd are kept though ignored. -/
  | fence (fm pred succ : BitVec 4) (rs1 rd : Reg)
  /-- FENCE_TSO (R108). -/
  | fenceTso (rs1 rd : Reg)
  /-- FENCE_I (R109); imm, rs1 and rd are ignored. -/
  | fenceI (imm : BitVec 12) (rs1 rd : Reg)
  /-- LR (R110). -/
  | lr (dbl aq rl : Bool) (rd rs1 : Reg)
  /-- SC (R110). -/
  | sc (dbl aq rl : Bool) (rd rs1 rs2 : Reg)
  /-- RV_AMO (R110). -/
  | rvAmo (op : StdAmo) (dbl aq rl : Bool) (rd rs1 rs2 : Reg)
  /-- CSRRW (R123). -/
  | csrrw (rd : Reg) (src : CsrSrc) (csr : BitVec 12)
  /-- CSRRS (R123). -/
  | csrrs (rd : Reg) (src : CsrSrc) (csr : BitVec 12)
  /-- CSRRC (R123). -/
  | csrrc (rd : Reg) (src : CsrSrc) (csr : BitVec 12)
  /-- FSL (R115). -/
  | fsl (rd rs1 rs2 rs3 : Reg)
  /-- FSR (R115). -/
  | fsr (rd rs1 rs2 rs3 : Reg)
  /-- BFI (R114). -/
  | bfi (rd rs1 rs2 rs3 : Reg)
  /-- FSLW (R115). -/
  | fslw (rd rs1 rs2 rs3 : Reg)
  /-- FSRW (R115). -/
  | fsrw (rd rs1 rs2 rs3 : Reg)
  /-- BFIW (R114). -/
  | bfiw (rd rs1 rs2 rs3 : Reg)
  /-- BFX (R114). -/
  | bfx (rd rs1 rs2 : Reg)
  /-- BFXU (R114). -/
  | bfxu (rd rs1 rs2 : Reg)
  /-- BFXW (R114). -/
  | bfxw (rd rs1 rs2 : Reg)
  /-- BFXUW (R114). -/
  | bfxuw (rd rs1 rs2 : Reg)
  /-- MSGW (R287). -/
  | msgw (n : BitVec 2) (rs1 : Reg)
  /-- MSGSI (R287). -/
  | msgsi (rd rs1 : Reg) (chan : BitVec 5) (cm1 : BitVec 2)
  /-- MSGS (R287). -/
  | msgs (rd rs1 rs2 : Reg)
  /-- SENDIPI (R121). -/
  | sendipi (rs1 rs2 : Reg)
  /-- LQ (R116): weak, or weak bypassing the L1. -/
  | lq (bypass : Bool) (sz : QSize) (rd rs1 : Reg) (off : BitVec 7)
  /-- LQ_S (R116). -/
  | lqS (sc : Scope) (sz : QSize) (rd rs1 : Reg) (off : BitVec 7)
  /-- LQ_AQ (R116). -/
  | lqAq (sc : Scope) (sz : QSize) (rd rs1 : Reg) (off : BitVec 7)
  /-- SQ (R116). -/
  | sq (sz : QSize) (rs2 rs1 : Reg) (off : BitVec 7)
  /-- SQ_S (R116). -/
  | sqS (sc : Scope) (sz : QSize) (rs2 rs1 : Reg) (off : BitVec 7)
  /-- SQ_RL (R116). -/
  | sqRl (sc : Scope) (sz : QSize) (rs2 rs1 : Reg) (off : BitVec 7)
  /-- AMOQ_ADD (R118). -/
  | amoqAdd (sc : Scope) (dbl : Bool) (rd rs1 rs2 : Reg)
  /-- AMOQ_SWAP (R118). -/
  | amoqSwap (sc : Scope) (dbl : Bool) (rd rs1 rs2 : Reg)
  /-- AMOQ_AND (R118). -/
  | amoqAnd (sc : Scope) (dbl : Bool) (rd rs1 rs2 : Reg)
  /-- AMOQ_OR (R118). -/
  | amoqOr (sc : Scope) (dbl : Bool) (rd rs1 rs2 : Reg)
  /-- AMOQ_XOR (R118). -/
  | amoqXor (sc : Scope) (dbl : Bool) (rd rs1 rs2 : Reg)
  /-- AMOQ_MIN (R118). -/
  | amoqMin (sc : Scope) (dbl : Bool) (rd rs1 rs2 : Reg)
  /-- AMOQ_MAX (R118). -/
  | amoqMax (sc : Scope) (dbl : Bool) (rd rs1 rs2 : Reg)
  /-- AMOQ_MINU (R118). -/
  | amoqMinu (sc : Scope) (dbl : Bool) (rd rs1 rs2 : Reg)
  /-- AMOQ_MAXU (R118). -/
  | amoqMaxu (sc : Scope) (dbl : Bool) (rd rs1 rs2 : Reg)
  /-- AMOQ_CAS (R118). -/
  | amoqCas (sc : Scope) (dbl : Bool) (rd rs1 rs2 : Reg)
  /-- LDFE (R333). -/
  | ldfe (sc : Scope) (rd rs1 : Reg)
  /-- LDFF (R333). -/
  | ldff (sc : Scope) (rd rs1 : Reg)
  /-- STFE (R333). -/
  | stfe (sc : Scope) (rs2 rs1 : Reg)
  /-- STFF (R333). -/
  | stff (sc : Scope) (rs2 rs1 : Reg)
  /-- FEINIT (R333). -/
  | feinit (sc : Scope) (rs2 rs1 : Reg)
  /-- FENCEQ (R120). -/
  | fenceq (sc : Scope)
  /-- MONARM (R339). -/
  | monarm (rs1 : Reg)
  /-- WFE (R341). -/
  | wfe (rd : Reg)
  /-- SEMWAIT (R344). -/
  | semwait (rs1 : Reg)
  /-- SEMTRY (R344). -/
  | semtry (rd rs1 : Reg)
  /-- SEMSIG (R344). -/
  | semsig (rs1 rs2 : Reg)
  /-- MTXACQ (R345). -/
  | mtxacq (rs1 : Reg)
  /-- MTXTRY (R345). -/
  | mtxtry (rd rs1 : Reg)
  /-- MTXREL (R345). -/
  | mtxrel (rs1 : Reg)
  /-- BARINIT (R346). -/
  | barinit (rs1 rs2 : Reg)
  /-- BARARR (R346). -/
  | bararr (rd rs1 : Reg)
  /-- BARWAIT (R346). -/
  | barwait (rs1 rs2 : Reg)
  /-- VADD (R140). -/
  | vadd (o : VOps)
  /-- VSUB (R140). -/
  | vsub (o : VOps)
  /-- VMUL (R140). -/
  | vmul (o : VOps)
  /-- VMULH (R140). -/
  | vmulh (o : VOps)
  /-- VFMA (R141). -/
  | vfma (o : VOps)
  /-- VMIN (R140). -/
  | vmin (o : VOps)
  /-- VMAX (R140). -/
  | vmax (o : VOps)
  /-- VABS (R140). -/
  | vabs (o : VUn)
  /-- VNEG (R140). -/
  | vneg (o : VUn)
  /-- VAND (R142). -/
  | vand (o : VOps)
  /-- VOR (R142). -/
  | vor (o : VOps)
  /-- VXOR (R142). -/
  | vxor (o : VOps)
  /-- VANDN (R142). -/
  | vandn (o : VOps)
  /-- VSEL (R142). -/
  | vsel (o : VOps)
  /-- VCVT (R145). -/
  | vcvt (ty : BitVec 4) (o : VUn)
  /-- VSLL (R143). -/
  | vsll (o : VOps)
  /-- VSRL (R143). -/
  | vsrl (o : VOps)
  /-- VSRA (R143). -/
  | vsra (o : VOps)
  /-- VFSL (R143). -/
  | vfsl (o : VOps)
  /-- VFSR (R143). -/
  | vfsr (o : VOps)
  /-- VBFX (R143). -/
  | vbfx (o : VOps)
  /-- VBFXU (R143). -/
  | vbfxu (o : VOps)
  /-- VBFI (R143). -/
  | vbfi (o : VOps)
  /-- VCLZ (R143). -/
  | vclz (o : VUn)
  /-- VPOPC (R143). -/
  | vpopc (o : VUn)
  /-- VCMPEQ (R144). -/
  | vcmpeq (o : VCmp)
  /-- VCMPLT (R144). -/
  | vcmplt (o : VCmp)
  /-- VCMPLE (R144). -/
  | vcmple (o : VCmp)
  /-- VCMPLTU (R144). -/
  | vcmpltu (o : VCmp)
  /-- VREDSUM (R146). -/
  | vredsum (o : VUn)
  /-- VREDMAX (R146). -/
  | vredmax (o : VUn)
  /-- VREDMIN (R146). -/
  | vredmin (o : VUn)
  /-- VREDMAX_G (R146). -/
  | vredmaxG (g : GroupSize) (o : VUn)
  /-- VREDMIN_G (R146). -/
  | vredminG (g : GroupSize) (o : VUn)
  /-- VSCAN (R147). -/
  | vscan (o : VUn)
  /-- VSLIDE (R148). -/
  | vslide (o : VImm)
  /-- VPERM (R148). -/
  | vperm (o : VOps)
  /-- VBCAST (R148). -/
  | vbcast (o : VImm)
  /-- VIOTA (R148). -/
  | viota (msel : MSel) (vd : VReg)
  /-- VEXP2 (R151). -/
  | vexp2 (o : VUn)
  /-- VRCP (R152). -/
  | vrcp (o : VUn)
  /-- VRSQ (R153). -/
  | vrsq (o : VUn)
  /-- MAND (R159). -/
  | mand (md ms1 ms2 : MReg)
  /-- MOR (R159). -/
  | mor (md ms1 ms2 : MReg)
  /-- MXOR (R159). -/
  | mxor (md ms1 ms2 : MReg)
  /-- MNOT (R159). -/
  | mnot (md ms1 : MReg)
  /-- MSET (R159). -/
  | mset (md : MReg) (rs1 : Reg)
  /-- MCNT (R159). -/
  | mcnt (rd : Reg) (ms1 : MReg)
  /-- MFIRST (R159). -/
  | mfirst (rd : Reg) (ms1 : MReg)
  /-- VLD (R155). -/
  | vld (vd : VReg) (rs1 : Reg) (imm : BitVec 12)
  /-- VST (R155). -/
  | vst (vs : VReg) (rs1 : Reg) (imm : BitVec 12)
  /-- VLDU (R156). -/
  | vldu (vd : VReg) (rs1 : Reg)
  /-- VSTU (R156). -/
  | vstu (vs : VReg) (rs1 : Reg) (mn : MReg)
  /-- VLDX (R157). -/
  | vldx (vd vs2 : VReg) (rs1 : Reg)
  /-- VSTX (R157). -/
  | vstx (vs vs2 : VReg) (rs1 : Reg)
  /-- VACC (R158). -/
  | vacc (vd : VReg) (acc : BitVec 2) (rs1 : Reg)
  /-- VMVXS (R154). -/
  | vmvxs (rd : Reg) (vs : VReg) (rs2 : Reg)
  /-- VMVSX (R154). -/
  | vmvsx (vd : VReg) (rs1 rs2 : Reg)
  /-- VCLAIM (R129). -/
  | vclaim (rd : Reg)
  /-- ISSUE (R189). -/
  | issue (rs1 : Reg) (imm : BitVec 12)
  /-- VSETT_IMM (R80). -/
  | vsettImm (rd : Reg) (imm : BitVec 12)
  /-- VSETT_REG (R80). -/
  | vsettReg (rd rs1 : Reg)
  /-- CSAVE (R268). -/
  | csave (rs1 rs2 : Reg)
  /-- CREST (R269). -/
  | crest (rs1 rs2 : Reg)
  /-- CRESUME (R270). -/
  | cresume (rs1 : Reg)
  /-- CKILL (R271). -/
  | ckill (rs1 : Reg)
  /-- SLEEP (R274). -/
  | sleep (rs1 : Reg)
  /-- LAUNCH (R315). -/
  | launch (rd rs1 rs2 : Reg)
  /-- KSTAT (R316). -/
  | kstat (rd rs1 : Reg)
  /-- KPREEMPT_DRAIN (R317): the word of all four KPREEMPT rows; x[rs2] selects the action. -/
  | kpreemptDrain (rd rs1 rs2 : Reg)
  /-- KSHRINK (R318). -/
  | kshrink (rd rs1 rs2 : Reg)
  /-- WQPOP (R299). -/
  | wqpop (rd rs1 rs2 : Reg)
  /-- WQPOPT (R299). -/
  | wqpopt (rd rs1 rs2 : Reg)
  /-- WQPUSH (R299). -/
  | wqpush (rd rs1 rs2 : Reg)
  /-- TLBW_WRITE (R363): the word of all three TLBW rows; x[rs1] selects the action. -/
  | tlbwWrite (rs1 rs2 : Reg)
  /-- TLBINV_GRANULE (R364): the word of all three TLBINV rows; x[rs2] selects the mode. -/
  | tlbinvGranule (rs1 rs2 : Reg)
  /-- TLBPROBE (R365). -/
  | tlbprobe (rd rs1 rs2 : Reg)
  /-- LPIN (R375). -/
  | lpin (rd rs1 rs2 : Reg)
  /-- LUNPIN (R375). -/
  | lunpin (rd rs1 rs2 : Reg)
  /-- CARVE (R376). -/
  | carve (rd rs1 rs2 : Reg)
  /-- UNCARVE (R376). -/
  | uncarve (rd rs1 : Reg)
  /-- SHOOT_ONLY (R371): the word of all seven SHOOT rows; x[rs2] selects the operation. -/
  | shootOnly (rd rs1 rs2 : Reg)
  /-- FWAKE_RAISE (R378): the word of all three FWAKE rows; x[rs1] selects the op. -/
  | fwakeRaise (rs1 rs2 : Reg)
  /-- QPOP (R279). -/
  | qpop (rd : Reg) (chan : BitVec 5)
  /-- QTRY (R279). -/
  | qtry (rd : Reg) (chan : BitVec 5)
  /-- QPUSH (R279). -/
  | qpush (chan : BitVec 5) (rs1 : Reg)
  /-- QCNT (R279). -/
  | qcnt (rd : Reg) (chan : BitVec 5)
  /-- HBIND (R283). -/
  | hbind (chan : BitVec 5) (rs1 : Reg)
  /-- HMASK (R283). -/
  | hmask (chan : BitVec 5)
  /-- HUNMASK (R283). -/
  | hunmask (chan : BitVec 5)
  /-- CPY (R199): the engine's work on an accepted command. -/
  | cpy (r : CmdRef)
  /-- CPYN (R199). -/
  | cpyn (r : CmdRef)
  /-- GATHER (R200). -/
  | gather (r : CmdRef)
  /-- SCATTER (R200). -/
  | scatter (r : CmdRef)
  /-- MCAST_RECT (R201). -/
  | mcastRect (r : CmdRef)
  /-- MCAST_LIST (R201). -/
  | mcastList (r : CmdRef)
  /-- FILL (R202). -/
  | fill (r : CmdRef)
  /-- RINGPUT (R203). -/
  | ringput (r : CmdRef)
  /-- STREAMIN (R204). -/
  | streamin (r : CmdRef)
  /-- STREAMOUT (R204). -/
  | streamout (r : CmdRef)
  /-- L2PINFILL (R205). -/
  | l2pinfill (r : CmdRef)
  /-- SMAP (R207). -/
  | smap (r : CmdRef)
  /-- SBIN (R207). -/
  | sbin (r : CmdRef)
  /-- SRED (R208). -/
  | sred (r : CmdRef)
  /-- SCVT (R209). -/
  | scvt (r : CmdRef)
  /-- SNORM (R210). -/
  | snorm (r : CmdRef)
  /-- SPERM (R211). -/
  | sperm (r : CmdRef)
  /-- MFMT (R165): the unit's work on an accepted command. -/
  | mfmt (r : CmdRef)
  /-- MZERO (R178). -/
  | mzero (r : CmdRef)
  /-- MLDACC (R179). -/
  | mldacc (r : CmdRef)
  /-- MSTACC (R180). -/
  | mstacc (r : CmdRef)
  /-- MCFGRING (R169). -/
  | mcfgring (r : CmdRef)
  /-- MRINGSTAT (R170). -/
  | mringstat (r : CmdRef)
  /-- MMA_BF16 (R177). -/
  | mmaBf16 (r : CmdRef)
  /-- MMA_E4M3 (R177). -/
  | mmaE4m3 (r : CmdRef)
  /-- MMA_E5M2 (R177). -/
  | mmaE5m2 (r : CmdRef)
  /-- MMA_E4E5 (R177). -/
  | mmaE4e5 (r : CmdRef)
  /-- MMA_E2M1 (R177). -/
  | mmaE2m1 (r : CmdRef)
  /-- MMA_I8 (R177). -/
  | mmaI8 (r : CmdRef)
  /-- MMA_I8W4 (R177). -/
  | mmaI8w4 (r : CmdRef)
  /-- NRED (R351). -/
  | nred (r : CmdRef)
  /-- NALLRED (R351). -/
  | nallred (r : CmdRef)
  /-- NBCAST (R351). -/
  | nbcast (r : CmdRef)
  /-- NBAR (R351). -/
  | nbar (r : CmdRef)
  /-- ASOPEN (R410). -/
  | asopen (r : CmdRef)
  /-- ASUB (R412). -/
  | asub (r : CmdRef)
  /-- ASCLOSE (R410). -/
  | asclose (r : CmdRef)
  /-- APART (R416). -/
  | apart (r : CmdRef)
  /-- AMCFG (R417). -/
  | amcfg (r : CmdRef)
  /-- AMREAD (R421). -/
  | amread (r : CmdRef)
  /-- ILLEGAL_INSTRUCTION (R64): a word with no assigned encoding. -/
  | illegalInstruction (w : IWord)
  /-- INSTRUCTION_FETCH_FAULT (R361): the fetch at addr fails. -/
  | instructionFetchFault (f : FetchFail) (addr : Word)
  /-- MATRIX_COMMAND_RETIRE (R174): the oldest matrix command of a core. -/
  | matrixCommandRetire (core : Nat)
  /-- COPY_COMMAND_RETIRE (R188). -/
  | copyCommandRetire (r : CmdRef)
  /-- COLLECTIVE_CONTRIBUTION (R353): the contribution or abort marker of the command reaches a router. -/
  | collectiveContribution (r : CmdRef) (router : Nat)
  /-- COLLECTIVE_CONTRIB_RESEND (R353). -/
  | collectiveContribResend (r : CmdRef)
  /-- COLLECTIVE_COMPLETE (R354): the result reaches the participant that issued the command. -/
  | collectiveComplete (r : CmdRef)
  /-- SUBSCRIPTION_AT_SLOT (R412): the registration round trip of an ASUB. -/
  | subscriptionAtSlot (r : CmdRef)
  /-- SUBSCRIPTION_AT_PAGE (R413). -/
  | subscriptionAtPage (r : CmdRef)
  /-- PAGE_READ_COMPLETE (R413): the fetch of page pa of sweep s ends at controller ctl. -/
  | pageReadComplete (ctl sweep pa : Nat)
  /-- SWEEP_DELIVERY (R414): the delivery for a subscription of core. -/
  | sweepDelivery (core sweep : Nat) (q : QIdx)
  /-- SWEEP_CLOSED_DONE (R410). -/
  | sweepClosedDone (sweep : Nat)
  /-- PARTIAL_ARRIVAL (R419): the partial of a subscription of core. -/
  | partialArrival (core sweep : Nat) (q : QIdx)
  /-- TRAP_NOTICE_SEND (R256). -/
  | trapNoticeSend (core : Nat)
  /-- HANDLER_FIRE (R285). -/
  | handlerFire (core chan : Nat)
  /-- MESSAGE_DELIVERY (R278): the message uid of the replay window of core. -/
  | messageDelivery (core uid : Nat)
  /-- NACK_RECEIVED (R290). -/
  | nackReceived (core uid : Nat)
  /-- MESSAGE_RESEND (R290). -/
  | messageResend (core uid : Nat)
  /-- MESSAGE_ACK (R290). -/
  | messageAck (core uid : Nat)
  /-- CREDIT_GRANT (R292): at the destination core. -/
  | creditGrant (core chan : Nat)
  /-- GRANT_RECEIVED (R292). -/
  | grantReceived (core uid : Nat)
  /-- REFUSAL_WORD_PUSH (R291). -/
  | refusalWordPush (core : Nat)
  /-- PROXY_RETURN (R27). -/
  | proxyReturn (core uid : Nat)
  /-- MEMORY_REQUEST_AT_HOME (R229): the request id in flight. -/
  | memoryRequestAtHome (id : Nat)
  /-- LOAD_REPLY (R227). -/
  | loadReply (id : Nat)
  /-- STORE_ACK (R238). -/
  | storeAck (id : Nat)
  /-- FULL_EMPTY_REQUEST (R335). -/
  | fullEmptyRequest (id : Nat)
  /-- FAULT_RAISE_AT_ROUTER (R377). -/
  | faultRaiseAtRouter (id : Nat)
  /-- FAULT_WORD_DOWN (R378). -/
  | faultWordDown (id : Nat)
  /-- LAUNCH_RECORD_TAKE (R307): at the head of a queue. -/
  | launchRecordTake (queue : Nat)
  /-- KERNEL_GRANT (R310). -/
  | kernelGrant (kid : Nat)
  /-- RETIREMENT_TOKEN (R323): a token from group pred reaches the entry of group g. -/
  | retirementToken (kid g pred : Nat)
  /-- GROUP_RETIREMENT_REPORT (R328). -/
  | groupRetirementReport (kid g : Nat)
  /-- GROUP_RELEASE (R324): at the dispatcher of a chiplet. -/
  | groupRelease (chip : Nat)
  /-- GROUP_BIND (R326). -/
  | groupBind (kid g : Nat)
  /-- SAVE_COMPLETE (R314). -/
  | saveComplete (kid : Nat)
  /-- WQPOP_RETRY (R300). -/
  | wqpopRetry (core ctx : Nat)
  /-- PARTIAL_RESEND (R416). -/
  | partialResend (core sweep : Nat) (q : QIdx)
  /-- SWEEP_DELIVERY_RESEND (R414). -/
  | sweepDeliveryResend (core sweep : Nat) (q : QIdx)
  /-- E2E_REQUEST_ARRIVAL (R386): request seq of stream (src, dst). -/
  | e2eRequestArrival (src dst seq : Nat)
  /-- E2E_ACK (R387): cumulative. -/
  | e2eAck (src dst seq : Nat)
  /-- GRANT_REQUEST_RETRY (R292). -/
  | grantRequestRetry (core uid : Nat)
  /-- FE_RESEND (R336). -/
  | feResend (id : Nat)
  /-- GYIELD_TIMEOUT (R329). -/
  | gyieldTimeout (core ctx : Nat)
  /-- E2E_BUSY_RESEND (R387). -/
  | e2eBusyResend (src dst : Nat)
  /-- E2E_RESET_REPLY (R386). -/
  | e2eResetReply (src dst : Nat)
  /-- E2E_CLOSE_MARKER (R386). -/
  | e2eCloseMarker (src dst : Nat)
  /-- GAP_NOTICE (R397): names seq of stream (src, dst). -/
  | gapNotice (src dst seq : Nat)
  /-- LINK_PAUSE_COMPLETE (R392). -/
  | linkPauseComplete (die m : Nat)
  /-- OP_POINT_CHANGE_DONE (R427). -/
  | opPointChangeDone (chip : Nat)
  /-- REGION_GATE_STEP (R431). -/
  | regionGateStep (region : Nat)
  /-- DEBUG_HALT (R445). -/
  | debugHalt (core ctx : Nat)
  /-- FIELD_RETIREMENT (R26). -/
  | fieldRetirement (part : Part)
  /-- REINSTATEMENT (R22): sigOk says whether the signature verifies. -/
  | reinstatement (parts : List Part) (sigOk : Bool)
  /-- E2E_TIMEOUT (R387). -/
  | e2eTimeout (src dst : Nat)
  /-- WAKE_DEFER_RELEASE (R431). -/
  | wakeDeferRelease (region : Nat)
  /-- KPREEMPT_SAVE (R314). -/
  | kpreemptSave (rd rs1 rs2 : Reg)
  /-- KPREEMPT_RESUME (R317). -/
  | kpreemptResume (rd rs1 rs2 : Reg)
  /-- KPREEMPT_CANCEL (R317). -/
  | kpreemptCancel (rd rs1 rs2 : Reg)
  /-- TLBW_RESUME (R363). -/
  | tlbwResume (rs1 rs2 : Reg)
  /-- TLBW_FAIL (R363). -/
  | tlbwFail (rs1 rs2 : Reg)
  /-- TLBINV_ALL (R364). -/
  | tlbinvAll (rs1 rs2 : Reg)
  /-- TLBINV_MASK (R364). -/
  | tlbinvMask (rs1 rs2 : Reg)
  /-- SHOOT_MIGRATE (R371). -/
  | shootMigrate (rd rs1 rs2 : Reg)
  /-- SHOOT_FLIP (R370). -/
  | shootFlip (rd rs1 rs2 : Reg)
  /-- SHOOT_EVICT (R370). -/
  | shootEvict (rd rs1 rs2 : Reg)
  /-- SHOOT_UNMAP (R370). -/
  | shootUnmap (rd rs1 rs2 : Reg)
  /-- SHOOT_FORCE (R374). -/
  | shootForce (rd rs1 rs2 : Reg)
  /-- SHOOT_ABORT (R370). -/
  | shootAbort (rd rs1 rs2 : Reg)
  /-- FWAKE_WAKE (R378). -/
  | fwakeWake (rs1 rs2 : Reg)
  /-- FWAKE_FAIL (R378). -/
  | fwakeFail (rs1 rs2 : Reg)
  /-- MB_TIMEOUT_EXPIRY (R416, R421): of a parked partial, or of a waiting AMREAD. -/
  | mbTimeoutExpiry (amread : Bool) (r : CmdRef)
  /-- CORE_QUARANTINE (R27): with the cause that led to it. -/
  | coreQuarantine (core : Nat) (cause : BitVec 6)
  /-- REBIND (R27): selfTest says whether the spare passes its self-test. -/
  | rebind (core : Nat) (selfTest : Bool)
  /-- HEARTBEAT_POST (R261). -/
  | heartbeatPost (core : Nat)
  /-- HEARTBEAT_MISSED (R261). -/
  | heartbeatMissed (core : Nat)
  /-- SERVICE_CORE_LOST (R262). -/
  | serviceCoreLost (cluster : Nat) (selfTest : Bool)
  /-- CORE_LOGIC_ERROR (R259): with the unit code of the lifetime log. -/
  | coreLogicError (core unit : Nat)
  /-- SLEEP_EXPIRY (R274). -/
  | sleepExpiry (core ctx : Nat)
  /-- WFE_TIMEOUT (R341). -/
  | wfeTimeout (core ctx : Nat)
  /-- DRAM_FILL_COMPLETE (R223): of the line, whose ECC check may have failed. -/
  | dramFillComplete (line : Nat) (eccFail : Bool)
  /-- DRAM_REFRESH (R225). -/
  | dramRefresh (die : Nat)
  /-- AGING_INTERVAL (R310). -/
  | agingInterval (kid : Nat)
  /-- WQ_TAIL_WRITE (R297). -/
  | wqTailWrite (queue tail : Nat)
  /-- WQ_ENABLE (R298). -/
  | wqEnable (queue : Nat)
  /-- WQ_SUSPEND (R298). -/
  | wqSuspend (queue : Nat)
  /-- WQ_RESUME (R298). -/
  | wqResume (queue : Nat)
  /-- WQ_CLOSE (R298). -/
  | wqClose (queue : Nat)
  /-- WQ_DISABLE (R298). -/
  | wqDisable (queue : Nat)
  /-- DISP_QMODE_WRITE (R289). -/
  | dispQmodeWrite (by_ : Agent) (chip cluster : Nat) (v : Word)
  /-- DISP_SYNC_SEM_WRITE (R349): of DISP_SYNC_SEMk. -/
  | dispSyncSemWrite (chip cluster k : Nat) (v : Word)
  /-- LNK_NSEL_WRITE (R384): of entry d of a die. -/
  | lnkNselWrite (die d : Nat) (v : Word)
  /-- REGISTER_WRITE (R6): bytes mask says which half is written: 4 bytes at off, or 8 (R221). -/
  | registerWrite (by_ : Agent) (die off : Nat) (wide : Bool) (v : Word)
  /-- FLIT_CRC_ERROR (R397): at the receiver, module m of a die, with the lanes in error. -/
  | flitCrcError (die m : Nat) (lanes : BitVec 64)
  /-- FLIT_REPLAY (R397): at module m of a die; the beats of the flit name (source, destination, sequence). -/
  | flitReplay (die m : Nat) (corrected : Nat) (dataOk metaOk : Bool) (beats : List (Nat × Nat × Nat))
  /-- BEAT_LOST (R398). -/
  | beatLost (chip cluster : Nat)
  /-- LNK_PAUSE (R392). -/
  | lnkPause (die m : Nat)
  /-- LNK_RETRAIN (R392). -/
  | lnkRetrain (die m : Nat)
  /-- LNK_RESUME (R392). -/
  | lnkResume (die m : Nat)
  /-- LNK_FAIL (R392). -/
  | lnkFail (die m : Nat)
  /-- LINK_TRAINING_DONE (R394): with the lanes found bad in this attempt, at this end and at the far end. -/
  | linkTrainingDone (die m : Nat) (bad badFar : BitVec 64)
  /-- LINK_RETRY_EXHAUSTED (R392). -/
  | linkRetryExhausted (die m : Nat)
  /-- LNK_RETRY_THRESHOLD (R395). -/
  | lnkRetryThreshold (die m : Nat)
  /-- LNK_RETRY_WINDOW_END (R395). -/
  | lnkRetryWindowEnd (die m : Nat)
  /-- SCALEOUT_FRAME_RECEIVE (R401): a frame at port p of an edge die, its bytes without the FCS. -/
  | scaleoutFrameReceive (die p : Nat) (fcsOk : Bool) (bytes : List Byte)
  /-- TIME_SYNC_EXCHANGE (R31, R32): the reference time and the bound the exchange measures. -/
  | timeSyncExchange (die : Nat) (ref : Word) (boundPs : Nat)
  /-- HOLDOVER_ENTER (R32). -/
  | holdoverEnter (die : Nat)
  /-- POWER_RECOMPUTE (R429): with the measured draws. -/
  | powerRecompute (draws : List Draw)
  /-- POWER_THROTTLE (R430): of a region, or of a chiplet whose junction is hot. -/
  | powerThrottle (region : Nat) (hot : Option Nat)
  /-- POWER_UNTHROTTLE (R430). -/
  | powerUnthrottle (chip : Nat)
  /-- PWR_OP_WRITE (R427). -/
  | pwrOpWrite (chip : Nat) (v : Word)
  /-- REGION_WAKE_REQUEST (R431). -/
  | regionWakeRequest (region : Nat)
  /-- WAKE_DEFER_EXPIRY (R431). -/
  | wakeDeferExpiry (region : Nat)
  /-- THERMAL_TRIP (R437). -/
  | thermalTrip (chip : Nat)
  /-- CLOCK_LOSS (R437). -/
  | clockLoss (die : Nat)
  /-- BRINGUP_START (R433): the digests of the four images and whether each manifest signature verifies. -/
  | bringupStart (digests : List Nat) (selfOk sigsOk : Bool)
  /-- DIE_SUPPLY_PRESENT (R434). -/
  | dieSupplyPresent (die : Nat)
  /-- DIE_REFERENCE_LOCKED (R434). -/
  | dieReferenceLocked (die : Nat)
  /-- DIE_IMAGE_RECEIVED (R434): with the digest the die reports. -/
  | dieImageReceived (die digest : Nat)
  /-- DIE_CONFIGURED (R434). -/
  | dieConfigured (die : Nat)
  /-- DIE_SELF_TEST_DONE (R434): whether the chiplet passes, and the parts that failed. -/
  | dieSelfTestDone (die : Nat) (pass : Bool) (failed : List Part)
  /-- NUMBERING_PUBLISHED (R434). -/
  | numberingPublished
  /-- STREAM_TIMEOUT (R433). -/
  | streamTimeout (die : Nat)
  /-- MODULE_SELF_TEST_FAIL (R435). -/
  | moduleSelfTestFail
  /-- SPDM_REQUEST (R438). -/
  | spdmRequest (q : SpdmReq)
  /-- MCTP_CONTROL (R443). -/
  | mctpControl (q : MctpCmd)
  /-- BUP_MBOX_GO (R444). -/
  | bupMboxGo
  /-- REG_READ (R444): seq, offset, count. -/
  | regRead (seq off count : Nat)
  /-- REG_WRITE (R444). -/
  | regWrite (seq off count : Nat) (vals : List Word)
  /-- REC_READ (R444). -/
  | recRead (seq cls off len : Nat)
  /-- HALT (R444). -/
  | halt (seq rank ctx : Nat)
  /-- WATCH (R444). -/
  | watch (seq chip cluster core idx : Nat) (v : Word)
  /-- IMAGE_DATA (R444). -/
  | imageData (seq cls off : Nat) (bytes : List Byte)
  /-- IMAGE_COMMIT (R444): sigOk says whether the staged image passes its signed manifest. -/
  | imageCommit (seq cls : Nat) (regions : Word) (sigOk : Bool)
  /-- REGION_UPDATE_REJOIN (R441). -/
  | regionUpdateRejoin (region : Nat)
  /-- PAUSE_WINDOW_EXPIRY (R108). -/
  | pauseWindowExpiry (core ctx : Nat)
  /-- BEAT_LINK_LEVEL_RETRY (R398). -/
  | beatLinkLevelRetry (chip cluster : Nat) (copyOk : Bool)
  /-- ENTDAA (R443): the bus controller assigns the dynamic address. -/
  | entdaa (addr : BitVec 7)
  /-- PAUSE (R108). -/
  | pause
  /-- ECALL (R252). -/
  | ecall
  /-- EBREAK (R252). -/
  | ebreak
  /-- WFI (R111). -/
  | wfi
  /-- POOL_GUARD (R88). -/
  | poolGuard
  /-- VRELEASE (R130). -/
  | vrelease
  /-- YIELD (R273). -/
  | yield
  /-- TRET (R272). -/
  | tret
  /-- RETIRE (R327). -/
  | retire
  /-- GYIELD (R329). -/
  | gyield
  /-- HEXIT (R285). -/
  | hexit
deriving DecidableEq, Repr

end Sys2Proof
end

