-- ==== Sys2Proof/Machine/State.lean ====
section
/-! DEFINITION. The state of the module as plain data, and the state after reset. Every unit the manual describes has its
registers here; tables keyed by number hold only the entries that differ from their value at reset. -/

namespace Sys2Proof.Machine

/-- A table keyed by number, in rising order of its keys; a key that is not listed reads as the table's default. -/
abbrev Tbl (α : Type) := List (Nat × α)

/-- The states of a hardware context (R247). -/
inductive CtxState where
  | free | strand | dormant | firing | trapped | saved | quarantined
deriving DecidableEq, Repr

/-- What a context is blocked on (R248). A reason that carries a register completes the instruction when the wait
ends; every other reason lets the instruction execute again. -/
inductive Wait where
  | none
  /-- A channel, by QPOP into rd (R279). -/
  | pop (chan : Nat) (rd : Reg)
  /-- Room in a channel, by QPUSH (R279). -/
  | push (chan : Nat)
  /-- A work queue: listed there, with the record buffer's address (R300). -/
  | wq (queue : Nat) (rd : Reg) (buf : Word)
  /-- A work queue whose waiting list was full, and elvcycle of the attempt (R300). -/
  | wqRetry (queue : Nat) (since : Word)
  /-- A cluster semaphore, mutex or barrier (R343). -/
  | sem (i : Nat)
  | mutex (i : Nat)
  | barrier (i : Nat)
  /-- A full-empty word: the request's number (R336). -/
  | fe (id : Nat)
  /-- WFE into rd, until the event flag or elvtime passes t0 + limit (R341). -/
  | wfe (rd : Reg) (t0 limit : Word)
  /-- WFI (R111). -/
  | wfi
  /-- A queue entry of an engine (R189). -/
  | engine
  /-- A vector port (R131). -/
  | vport
  /-- A transitional page (R372). -/
  | migrate
  /-- PAUSE until the local cycle given (R108). -/
  | pause (untilCycle : Word)
  /-- SLEEP from t0 for d raw units of elvtime (R274). -/
  | sleep (t0 d : Word)
  /-- Acknowledgements of earlier stores (R238). -/
  | acks
  /-- The reply of a load or AMO in flight (R227). -/
  | reply (id : Nat)
  /-- The matrix state or its queue (R158, R162, R172, R327). -/
  | matrix
  /-- The replay window, a mode change or the messages in it (R122, R327). -/
  | window
  /-- The grant of the message uid (R292). -/
  | grant (uid : Nat)
  /-- The registration round trip of an ASUB (R407 step 13). -/
  | asub (seq : Nat)
  /-- A stop under way, until the context's messages have left the window (R263, R291). -/
  | stop
deriving DecidableEq, Repr

/-- A pending error (R196, R242, R175): its cause, eaddr and einfo, and the order in which it was recorded (R253). -/
structure PendErr where
  cause : Nat
  eaddr : Word
  einfo : Word
  stamp : Nat
deriving DecidableEq, Repr

/-- A byte that a weak load of a context has already read from its home (R228, perform early): the base register of that load,
or none for a read of an engine, and the writes performed since, by line and core (R234). -/
structure Early where
  base : Option Reg
  key : Nat
  byte : Byte
  since : List (Nat × Nat)
deriving DecidableEq, Repr

/-- A hardware context (R245-R247, R264). -/
structure Ctx where
  st : CtxState
  prior : CtxState
  /-- x1-x31 (x0 is not held). -/
  x : Tbl Word
  pc : Word
  /-- m0-m7 (R159). -/
  m : Tbl Word
  vtype : Word
  rndseed : BitVec 32
  ecause : Word
  eaddr : Word
  epc : Word
  einfo : Word
  wake : Bool
  armed : Bool
  event : Bool
  /-- The trap is of kind W and with the fault path, which has not passed it on (R257, R361). -/
  onPath : Bool
  /-- Virtual address of the armed monitor line (R264). -/
  monLine : Word
  /-- Physical line of the registration (R339). -/
  monPa : Nat
  /-- A restored registration that waits for a translation of its line (R342). -/
  monDue : Bool
  tseq : Nat
  super : Bool
  hprio : Nat
  /-- The channel of the firing and the words it consumed (R285). -/
  chan : Nat
  words : List Word
  /-- The production reservation: channel and slots unfilled (R285, R286). -/
  resvChan : Nat
  resv : Nat
  /-- The staging buffer and its mask (R287). -/
  staged : Tbl Word
  stmask : BitVec 4
  copyErr : Option PendErr
  xportErr : Option PendErr
  /-- The LR reservation: the 128-byte line (R110). -/
  lrRes : Option Nat
  wait : Wait
  /-- The stop field of the last stop, and whether the context was TRAPPED when it was saved (R265). -/
  stop : Nat
  wasTrapped : Bool
  /-- gcoord, strand index and strands − 1, replays, restored, kid (R321). -/
  gcoord : Word
  gstrand : Nat
  nstr : Nat
  kid : Nat
  restored : Bool
  replays : Nat
  /-- The core residency slot of the strand's group (R305). -/
  slot : Nat
  /-- Trap route of the strand: true is SERVICE (R254). -/
  routeSvc : Bool
  /-- Stores not yet acknowledged (R238). -/
  unacked : Nat
  /-- The hold buffer: vector registers and the instructions they still stay (R138). -/
  hold : Tbl Nat
  /-- A requested debug halt (R445). -/
  haltReq : Bool
  /-- Cycles the strand has been eligible without issuing (R249). -/
  starved : Nat
  /-- How many bindings and firings the context has seen: tells a message's sender from a later one (R291). -/
  gen : Nat
  /-- Loads performed early (R228). -/
  early : List Early
  /-- The command word that an ISSUE which waits for an entry has read (R189). -/
  cmdRead : Option CmdWord
  /-- The cause of the last trap, which a write of the ecause CSR does not change (R246). -/
  cause : Nat
  /-- A trap that the fault path does not resolve and that the error policy has still to answer (R313, R323). -/
  policyDue : Bool
  /-- Stores in flight of the core that a release of the context covers, and those of others that an acquire of it has
  covered, at .core (R230, R232). -/
  out : List Nat
  seen : List Nat
deriving DecidableEq, Repr

/-- One vector window (R127-R131). -/
structure Win where
  regs : Tbl VWord
  vin : List VWord
  vout : List VWord
  /-- The residency slot of the group that holds it, or that it is reserved for (R128). -/
  holder : Option Nat
  resv : Option Nat
deriving DecidableEq, Repr

/-- A page fault that an engine command is held on: the address, the access and whether an entry refused it (R361). -/
structure Held where
  va : Word
  acc : Nat
  perm : Bool
deriving DecidableEq, Repr

/-- The states of an engine command: waiting or running, held on a page fault (R361), parked on a transitional page
(R372), failed by the fault path, or finished with a completion status. -/
inductive CmdState where
  | waiting
  | held (h : Held)
  | parked
  /-- The fault path has failed the command's access: cause and address (R363). -/
  | failed (cause : Nat) (addr : Word)
  | done (status : Nat)
deriving DecidableEq, Repr

/-- What every accepted command carries: its word, its sequence number (bits 15:0; the higher bits set a restored copy
command apart from later ones of the same number), the issuing context, the residency slot of that
context's group, its level, and the stores of the context that its release waits for (R172, R190, R191). -/
structure CmdHead where
  word : CmdWord
  seq : Nat
  ctx : Nat
  slot : Nat
  super : Bool
  after : List Nat
  /-- The stores in flight at the ISSUE that the command's reads see (R190). -/
  sees : List Nat
deriving DecidableEq, Repr

/-- One operand ring (R168). -/
structure Ring where
  configured : Bool
  carved : Bool
  revoked : Bool
  side : Bool
  lastslot : Nat
  head : Nat
  tail : Nat
  count : Nat
  /-- Physical location of slot 0. -/
  base : Nat
  /-- The stores in flight that the release of its MCFGRING covers (R169). -/
  sees : List Nat
deriving DecidableEq, Repr

/-- An accepted matrix command (R172), with what ISSUE captured for it (the format record of MFMT, the physical base of
MCFGRING, the generator state of MSTACC). -/
structure MatCmd where
  hd : CmdHead
  fmt : Rec
  base : Nat
  carved : Bool
  seed : BitVec 32
  st : CmdState
  row : Nat
  /-- The cause a requeued MFMT ends with, and its eaddr (R186). -/
  bad : Nat
  badAddr : Word
  /-- A requeued MFMT, or MCFGRING of a ring in carved L2, whose record or base has not been read again yet (R186). -/
  unread : Bool
  /-- The payload of MRINGSTAT. -/
  payload : Nat
  /-- Requeued from an image, which does not name the context that issued it (R186). -/
  requeued : Bool
  /-- The carve in which an MCFGRING places its ring has been revoked (R168). -/
  revoked : Bool
  /-- The lines written, which a pop of the completion word acquires (R174). -/
  lines : List Nat
deriving DecidableEq, Repr

/-- The matrix state of a core (R161). -/
structure Matrix where
  /-- The residency slot of the holding group, or none when FREE (R162). -/
  holder : Option Nat
  /-- The format record loaded in the unit, and the one in force in queue order (R165, R172). -/
  fmt : Option Rec
  fmtQ : Option Rec
  /-- Accumulator elements: key 1024 n + 32 i + j, raw 32 bits. -/
  acc : Tbl (BitVec 32)
  poison : BitVec 4
  /-- Accumulators with a parity error in their storage (R175). -/
  accBad : BitVec 4
  rings : Tbl Ring
  /-- The rings as ISSUE sees them in queue order (R172). -/
  ringsQ : Tbl Ring
  queue : List MatCmd
  seq : Nat
  err : Option PendErr
  /-- Completion words not yet delivered (R173). -/
  undelivered : Nat
deriving DecidableEq, Repr

/-- A copy or stream command in the queue of a core (R188, R191). -/
structure CopyCmd where
  hd : CmdHead
  recs : List Rec
  /-- The generator state from which the first element advances (R192, R214). -/
  seed : BitVec 32
  st : CmdState
  /-- The row or element reached (R193). -/
  row : Nat
  /-- Notifies sent and still to be acted on (R188). -/
  notifies : Nat
  /-- The destinations an MCAST serves, or the lines an L2PINFILL has pinned, and the list entry that ends an MCAST
  (R201, R205). -/
  marks : List Nat
  badAt : Option Word
  /-- The window that a stream command feeds or drains has been released (R204). -/
  released : Bool
  /-- The lines written, which a pop of the completion word or of the notify acquires (R194, R195). -/
  lines : List Nat
deriving DecidableEq, Repr

/-- A collective command of a core (R351). -/
structure CollCmd where
  hd : CmdHead
  rcd : Rec
  st : CmdState
  /-- The contribution, or the cause and address of the abort marker sent for it, has left the unit (R352). -/
  sent : Bool
  bytes : List Byte
  cause : Nat
  addr : Word
  /-- The lines written, which a pop of the completion word acquires (R354). -/
  lines : List Nat
  /-- The contribution has been returned by a router with a full table: elvcycle at its return (R353). -/
  back : Option Word
deriving DecidableEq, Repr

/-- A sweep command of a core (R409). -/
structure SweepCmd where
  hd : CmdHead
  /-- It still holds one of the core's two entries. -/
  entry : Bool
  st : CmdState
  result : Nat
  /-- elvtime at which an AMREAD began to wait (R421). -/
  since : Word
  registered : Bool
  /-- The lines written, which a pop of the completion word acquires (R421). -/
  lines : List Nat
deriving DecidableEq, Repr

/-- The states of a subscription (R405, R414, R416). -/
inductive SubState where
  | waiting | delivered | parked
deriving DecidableEq, Repr

/-- An entry of a core's subscription table (R409, R412). -/
structure Sub where
  sweep : Nat
  qs : Nat
  idx : Nat
  loff : Nat
  last : Bool
  ctx : Nat
  slot : Nat
  st : SubState
  /-- The APART that waits on it, its record offset, when it was first NACKed, and elvcycle at the last NACK (R416). -/
  apart : Option Nat
  poff : Nat
  nacked : Bool
  since : Word
  nackAt : Word
deriving DecidableEq, Repr

/-- The name in requests that are for no subscription. -/
def SubName.zero : SubName := { sweep := 0, page := { qs := 0, idx := 0 } }

/-- The name of a subscription. -/
def Sub.name (u : Sub) : SubName := { sweep := u.sweep, page := { qs := u.qs, idx := u.idx } }

/-- The states of a message in a replay window (R287-R292, R28). -/
inductive MsgState where
  /-- Waits for the acknowledgement of the sender's earlier stores, then travels (R288). -/
  | sent
  /-- Waits for its grant (R292). -/
  | waitGrant
  /-- A grant request found the table full and is repeated later. -/
  | retryGrant
  | granted
  /-- A fault word that passes the routers on its path (R377). -/
  | walking
  /-- Dropped at the destination; the NACK, or a DEAD_DESTINATION return, travels back (R290, R28). -/
  | nacked (dead : Bool)
  /-- Waits for its back-off (R290). -/
  | backoff
  | delivered
  /-- In the input of the proxy of a PROXIED index (R27). -/
  | atProxy
  /-- Handed to the end-to-end transport (R385). -/
  | transit
  /-- Refused: a refusal word still to be pushed (R291). -/
  | refused (cause : Nat)
deriving DecidableEq, Repr

/-- What kind of sender a message has: a context, or hardware (R469). -/
inductive MsgFrom where
  | ctx
  | hardware
  /-- A completion word of the matrix, copy, collective or sweep unit, by opcode. -/
  | completion (opcode : Nat)
  /-- A message notify of the copy command seq (R195). -/
  | notify (seq : Nat)
  /-- A trap notice of a context (R256). -/
  | notice
  /-- The fault word with a number (R378). -/
  | fault (id : Nat)
deriving DecidableEq, Repr

/-- An entry of the replay window (R290). -/
structure Msg where
  uid : Nat
  ctx : Nat
  dst : Nat
  chan : Nat
  words : List Word
  frm : MsgFrom
  st : MsgState
  nacks : Nat
  /-- Stores of the sender that must be acknowledged first (R288). -/
  stores : List Nat
  gen : Nat
  /-- The lines whose data a pop of its words acquires (R174, R194, R195). -/
  lines : List Nat
  /-- Slots are reserved for it at its destination (R292), and elvcycle at which its back-off began (R290). -/
  grant : Bool
  since : Word
deriving DecidableEq, Repr

/-- A handler-table entry with its mask bit (R281). -/
structure Handler where
  target : Word
  flags : Word
  masked : Bool
deriving DecidableEq, Repr

/-- A channel (R276, R278): its words, the slots reserved for production, the slots reserved for grants, the contexts
whose pops wait, and the grant requests queued (source core and window entry) (R292). -/
structure Chan where
  words : List Word
  /-- The lines that a pop of each word acquires, for as many words as have an entry (R231). -/
  lines : List (List Nat)
  prodResv : Nat
  grantResv : Nat
  poppers : List Nat
  reqs : List (Nat × Nat × Nat)
deriving DecidableEq, Repr

/-- A TLB entry (R358). -/
structure TlbEntry where
  keyid : Nat
  frame : Nat
  sset : Nat
  vpn : Nat
  size : Nat
  vis : BitVec 3
  r : Bool
  w : Bool
  x : Bool
  u : Bool
  t : Bool
  p : Bool
  /-- The members of the stripe set as TLBW found it (R367). -/
  members : List Nat
deriving DecidableEq, Repr

/-- A line of a read-only L1: physical line address, its 128 bytes, and the contexts whose view holds it (R226, R235). -/
structure L1Line where
  line : Nat
  bytes : List Byte
  views : BitVec 8
deriving DecidableEq, Repr

/-- A full-empty request (R333-R337): the word, the operation (0 ldfe, 1 ldff, 2 stfe, 3 stff, 4 feinit, 5 notify,
6 sweep delivery), the requester and its register or data. -/
structure FeReq where
  id : Nat
  word : Nat
  op : Nat
  core : Nat
  ctx : Nat
  rd : Reg
  data : Word
  scope : Scope
  remote : Bool
  nacks : Nat
  /-- The copy command a notify belongs to, or the address of an instruction. -/
  tag : Nat
  /-- The subscription a delivery is for (R414). -/
  sub : SubName
  st : Nat
  /-- elvcycle at its last NACK (R336), and the lines that a load of the word acquires with it (R195). -/
  since : Word
  lines : List Nat
deriving DecidableEq, Repr

/-- What a residency slot of a core holds (R305). -/
structure ResSlot where
  kid : Nat
  g : Option Nat
  k : Nat
deriving DecidableEq, Repr

/-- A core (compute, service or management), keyed by its logical place. -/
structure Core where
  ctxs : Tbl Ctx
  chans : Tbl Chan
  handlers : Tbl Handler
  lastFired : Nat
  window : List Msg
  /-- Words sent by hardware that wait for room in the window, oldest first (R469). -/
  hwWait : List Msg
  /-- Sources whose later messages the core NACKs until the one it has NACKed arrives again: source core and window entry (R290). -/
  nackFrom : List (Nat × Nat)
  nextUid : Nat
  credit : Bool
  creditNext : Bool
  qbackoff : Word
  qretry : Word
  feretry : Word
  wfetimeout : Word
  hbcount : BitVec 32
  tseq : Nat
  /-- The notice buffer, oldest first: the context (8 for a notice of the monitor), the destination core and the
  notice word (R255, R256). -/
  notices : List (Nat × Nat × Word)
  /-- The TLB, by entry index 0-63 (R357). -/
  tlb : Tbl TlbEntry
  /-- The context picked last in each of the six classes (R249). -/
  picks : Tbl Nat
  wins : Tbl Win
  mat : Matrix
  copyQ : List CopyCmd
  copySeq : Nat
  collQ : List CollCmd
  collSeq : Nat
  sweepQ : List SweepCmd
  sweepSeq : Nat
  subs : List Sub
  slots : Tbl ResSlot
  /-- Stopped by a cause of kind C (R259), and that cause. -/
  stopped : Bool
  stopCause : Nat
  /-- The context that has just yielded (R273). -/
  yielded : Option Nat
  l1d : List L1Line
  l1i : List L1Line
  /-- The groups that have given the core away by GYIELD, by residency slot: the local cycle of the GYIELD, and the contexts of the other
  group that have still to issue (R329). -/
  gives : Tbl (Word × List Nat)
  watch : Tbl Word
  /-- elvcycle at the last heartbeat (R261). -/
  lastBeat : Word
deriving DecidableEq, Repr

/-- The state of the binding of a logical core index (R27). -/
inductive BindState where
  | bound | proxied
deriving DecidableEq, Repr

/-- A mutex (R345). -/
structure Mutex where
  holder : Option (Nat × Nat)
  broken : Bool
  waiters : List (Nat × Nat)
deriving DecidableEq, Repr

/-- A semaphore (R344). -/
structure Sem where
  count : Nat
  waiters : List (Nat × Nat)
deriving DecidableEq, Repr

/-- A cluster barrier register (R346). -/
structure Bar where
  count : Nat
  arrived : Nat
  phase : Bool
  waiters : List (Nat × Nat)
deriving DecidableEq, Repr

/-- The carve of a slice (R376): state 0 NONE, 1 CARVED, 2 REVOKED. -/
structure Carve where
  state : Nat
  ways : Nat
  backing : Nat
deriving DecidableEq, Repr

/-- The states of a query slot (R418). -/
inductive SlotState where
  | bound | complete | error (cause : Nat)
deriving DecidableEq, Repr

/-- A bound query slot of a merge buffer (R417, R418). -/
structure QSlot where
  st : SlotState
  sweep : Nat
  m : BitVec 32
  l : BitVec 32
  o : List (BitVec 32)
  next : Nat
  n : Option Nat
  count : Nat
  ranks : List Nat
  idxs : List Nat
deriving DecidableEq, Repr

/-- A landed partial (R419): which slot, its index, its values, and whether it holds the slot's reserved entry. -/
structure MEntry where
  slot : Nat
  idx : Nat
  m : BitVec 32
  l : BitVec 32
  o : List (BitVec 32)
  reserved : Bool
deriving DecidableEq, Repr

/-- The merge buffer of a cluster (R417, R423). -/
structure Merge where
  off : Nat
  nslots : Nat
  nentries : Nat
  hd : Nat
  slots : Tbl QSlot
  entries : List MEntry
  nacks : Nat
  dropped : Nat
  merges : Nat
deriving DecidableEq, Repr

/-- The states of a page at its sweep controller (R413). -/
inductive KvState where
  | opened | fetching | sending
deriving DecidableEq, Repr

/-- A subscriber in a page's list (R413). -/
structure KvSub where
  core : Nat
  qs : Nat
  idx : Nat
  loff : Nat
  last : Bool
  late : Bool
deriving DecidableEq, Repr

/-- A page of a sweep at its controller (R413). -/
structure KvPage where
  sweep : Nat
  pa : Nat
  st : KvState
  copy : List Byte
  subs : List KvSub
deriving DecidableEq, Repr

/-- A delivery under way to a subscriber (R414). -/
structure KvDelivery where
  sweep : Nat
  pa : Nat
  sub : KvSub
  bytes : List Byte
  catchUp : Bool
  nacked : Bool
deriving DecidableEq, Repr

/-- A cluster: synchronisation unit, slice, controller, merge buffer, router tables, monitors. -/
structure Cluster where
  mutexes : Tbl Mutex
  sems : Tbl Sem
  bars : Tbl Bar
  carve : Carve
  merge : Merge
  pages : List KvPage
  marks : List (Nat × Nat)
  waitingSubs : List (KvSub × Nat × Nat)
  deliveries : List KvDelivery
  /-- Monitor registrations of the slice: line, core, context (R339). -/
  monitors : List (Nat × Nat × Nat)
  /-- The router's combining table: keys of the collectives held (R353). -/
  combining : List Nat
  /-- Bindings that are PROXIED, by core index (R27). -/
  binds : Tbl BindState
  /-- The core index that spare slot 17 serves (R23, R27). -/
  spareFor : Option Nat
  /-- The proxy's input, in arrival order: core index, source core and window entry (R27, R28). -/
  proxyIn : List (Nat × Nat × Nat)
  /-- Senders whose messages the proxy has returned, by core index (R28). -/
  returned : List (Nat × Nat)
  /-- The round-robin position of the matrix unit (R173). -/
  matTurn : Nat
  /-- The service core's log: cause and detail (R257). -/
  log : List (Nat × Nat)
deriving DecidableEq, Repr

/-- One die-to-die link module (R395); the link states are coded as LNK_STATE codes them. -/
structure Link where
  state : Nat
  trains : Nat
  spares : Nat
  half : Bool
  x32 : Bool
  force32 : Bool
  evtEn : Bool
  lanemap : BitVec 64
  retryCnt : BitVec 32
  thr : BitVec 32
  windowUs : Nat
  windowCnt : Nat
  windowSent : Bool
  /-- elvtime at which the window's first retry was counted. -/
  windowAt : Word
  corrected : Nat
  gaps : Nat
  errlane : BitVec 64
  dropped : Nat
  /-- A pause has been requested and waits for acknowledgements (R392). -/
  pausing : Bool
  /-- RETRAINING was entered from PAUSED or FAILED (R392). -/
  fromPaused : Bool
  attempts : Nat
  /-- The lane map and force32 that a retraining has taken from the registers (R392). -/
  taken : Option (BitVec 64 × Bool)
deriving DecidableEq, Repr

/-- A compute or edge chiplet: clock, time, registers of its MMIO block (R30-R32, R310, R325, R367, R368, R383, R388,
R401-R403, R423), dispatcher. -/
structure Chip where
  cycle : Word
  time : Word
  holdover : Bool
  boundPs : Nat
  /-- elvcycle at the entry into service, from which heartbeats are counted (R261). -/
  activeAt : Word
  /-- Raw elvtime of the last successful exchange (R32). -/
  lastSync : Word
  qmode : Tbl Word
  aging : Nat
  share : Nat
  proj : Nat
  powerWait : Bool
  sbFree : Nat
  ftab : Tbl Word
  stripes : Tbl Word
  nsel : Tbl Word
  /-- Entries whose change waits for a drain token, with the old value (R384). -/
  draining : Tbl Word
  e2eTmo : Nat
  e2eLimit : Nat
  e2eBusy : Nat
  giveups : Nat
  resends : Nat
  dom : Tbl Word
  xcol : Tbl Word
  etype : Nat
  macs : Tbl Word
  peers : Tbl Word
  mbTimeout : Nat
  links : Tbl Link
  log : List (Nat × Nat)
  /-- The frames that an edge chiplet's scale-out ports have sent, newest first (R401). -/
  frames : List (List Byte)
deriving DecidableEq, Repr

/-- The states of a die (R434), coded as CHIP_STATE codes them. -/
inductive DieState where
  | dark | powered | clocked | measured | configured | selfTest | joined | active | degraded | gated | quarantined | safe
deriving DecidableEq, Repr

/-- What the trust die holds of one die (R427, R434, R436). -/
structure Die where
  state : DieState
  op : Nat
  fail : Nat
  side : Nat
  attempts : Nat
  /-- Attempts at the present stream that have failed (R434). -/
  tries : Nat
  losses : Nat
  target : Nat
  idle : Nat
  /-- A change between clocked points under way: the faster of the two, and whether it is the new one (R427). -/
  change : Option Nat
  raising : Bool
  /-- The point that a shrink has asked for and that is still to be taken (R318, R430). -/
  want : Option Nat
  /-- Whether every part is in full service (R434). -/
  degraded : Bool
  digest : Nat
  /-- Times of the trust die: when the present stream attempt began, when the die reached CONFIGURED (R433), and when throttling last
  moved its point (R430). -/
  triedAt : Word
  configuredAt : Word
  stepAt : Word
deriving DecidableEq, Repr

/-- The power state of a region (R431, R432). -/
structure Region where
  state : Nat
  weight : Nat
  allow : Nat
  fixedMw : Nat
  drawMw : Nat
  ilim : Nat
  above : Nat
  steps : Nat
  slow : Bool
  /-- The time of the trust die at the last gate step (R431). -/
  stepAt : Word
  /-- A wake request has been made and not been served (R431). -/
  wanted : Bool
deriving DecidableEq, Repr

/-- The ordering codes (R1): the grade at shipment is 512, 448 to 511, or 384 to 447. -/
inductive OrderCode where
  | a512 | a448 | a384
deriving DecidableEq, Repr

/-- The trust die: maps, log, keys, budget, records, images, mailbox, bus addresses (R22, R36, R380, R432-R445). -/
structure Trust where
  fuseSites : List Nat
  fuseClusters : List Nat
  fuseSlots : List Nat
  logSites : List Nat
  logClusters : List Nat
  logSlots : List Nat
  logSeq : BitVec 32
  /-- The ordering code of the module, which does not change (R2). -/
  code : OrderCode
  reinst : List (List Part)
  /-- Compute sites quarantined for measurement or stream failure in this bring-up (R434). -/
  absent : List Nat
  mapSeq : BitVec 32
  renum : Bool
  published : Bool
  safe : Bool
  safeCause : Nat
  dies : Tbl Die
  regions : Tbl Region
  budget : BitVec 32
  refused : Nat
  floor : Bool
  keys : Tbl Nat
  sessions : Bool
  digests : Tbl Nat
  measures : Tbl Nat
  lifetime : Tbl Nat
  /-- The bytes staged for each component class, by offset (R444). -/
  images : Tbl (Tbl Byte)
  updating : List Nat
  /-- Parts that the log retires and that the effective map does not hold yet: a pre-emption of R26 or an update of the
  region has still to end (R36, R439, R446). -/
  deferredRetire : List Part
  hwin : BitVec 64
  mboxReq : Tbl Byte
  mboxRsp : Tbl Byte
  mboxGo : Bool
  mboxDone : Bool
  msix : List Nat
  i3cAddr : Option (BitVec 7)
  eid : BitVec 8
  /-- The MCTP control responses and Bartan responses, newest first. -/
  responses : List (List Nat)
  /-- The deferral of a waking region: raw elvtime at its start (R431). -/
  deferFrom : Tbl Word
  /-- Its time at the last recomputation of the allowances (R429). -/
  powerAt : Word
deriving DecidableEq, Repr

/-- Who pushed a work queue's states: codes of R297. -/
inductive WqState where
  | disabled | opened | suspended | draining | closed | error
deriving DecidableEq, Repr

/-- A hardware work queue (R296-R302). -/
structure Wq where
  st : WqState
  err : Nat
  userPush : Bool
  userPop : Bool
  head : Nat
  tail : Nat
  slots : Tbl Rec
  waiters : List (Nat × Nat)
  launches : Nat
  taken : Nat
deriving DecidableEq, Repr

/-- The states of a kernel (R312). -/
inductive KState where
  | pending | blocked | ready | running | draining | saving | preempted | aborting | completed | faulted | cancelled
deriving DecidableEq, Repr

/-- The states of a group (R323). -/
inductive GState where
  | waiting | ready | released | running | parked | retired | saved
deriving DecidableEq, Repr

/-- A group's entry in the scoreboard (R322, R323). -/
structure Group where
  st : GState
  counter : Nat
  replays : Nat
  k : Nat
  core : Nat
  slot : Nat
  stamp : Nat
  passed : Nat
  draw : Nat
  /-- The save-area slot of a SAVED group (R306). -/
  saveSlot : Nat
  /-- A replay has begun: its strands are being stopped (R330). -/
  again : Bool
  /-- It has failed the power gate at the head of the release queue (R325). -/
  gated : Bool
deriving DecidableEq, Repr

/-- A slot of a save area that holds a group: its number, the cluster where the group was saved, and whether the carve there has been
revoked since (R168, R306). -/
structure SavedSlot where
  j : Nat
  clu : Nat
  lost : Bool
deriving DecidableEq, Repr

/-- A kernel in the table of its launch unit, or its end record (R302, R304, R310, R312). -/
structure Kernel where
  st : KState
  cause : Nat
  rcd : Rec
  desc : Rec
  edgesLeft : List Nat
  since : Word
  stamp : Nat
  /-- How many launch records of its queue had been taken with it. -/
  takeNo : Nat
  rank : Nat
  rank0 : Nat
  ncores : Nat
  ncores0 : Nat
  base : Nat
  hasBase : Bool
  /-- Reservations: core and its residency slots. -/
  cores : List (Nat × Nat × Nat)
  groups : Tbl Group
  retired : List Nat
  reported : Nat
  drained : Bool
  saved : Bool
  cancel : Bool
  /-- Pre-empted for a renumbering (R26): it resumes under the new one. -/
  moved : Bool
  shrink : Option (Nat × Nat)
  tokens : List (Nat × Nat)
  reports : List Nat
  /-- The slots of the save area that hold a group (R306). -/
  slots : List SavedSlot
deriving DecidableEq, Repr

/-- The states of a sweep (R410). -/
inductive SweepState where
  | opened | sweeping | closedDone
deriving DecidableEq, Repr

/-- A sweep at its coordinator (R410, R423). -/
structure Sweep where
  st : SweepState
  pblk : Nat
  hd : Nat
  keyid : Nat
  det : Bool
  bound : Nat
  closer : Option CmdRef
deriving DecidableEq, Repr

/-- A collective under way (R350-R354): the key, what its commands agree on, and the contributions by participant. -/
structure Coll where
  rank0 : Nat
  n : Nat
  cid : Nat
  opcode : Nat
  root : Nat
  ty : Nat
  op : Nat
  lines : Nat
  opportunistic : Bool
  scope : Nat
  /-- The contributions by participant index; the first abort, by index and cause; the participants that are through. -/
  parts : Tbl (List Byte)
  aborted : Option (Nat × Nat)
  done : List Nat
  /-- What selects the tree of an opportunistic result, and the values of other modules, drawn when it is ready (R353). -/
  draw : Nat
deriving DecidableEq, Repr

/-- What a memory request in flight asks of its home (R228, R238, R401). -/
inductive ReqKind where
  | store (bytes : List (Nat × Byte)) (strong : Bool)
  /-- A load into rd; lr says that it sets the context's reservation. -/
  | load (keys : List Nat) (signed : Bool) (rd : Reg) (lr : Bool)
  /-- A store that is conditional on the context's reservation. -/
  | sc (bytes : List (Nat × Byte)) (rd : Reg)
  | amo (op : AmoOp) (addr : Nat) (dbl : Bool) (rd : Reg) (b e : Word)
  | msg (core uid : Nat)
  | drain (d : Nat)
  /-- A token or fault word that is applied at the destination by an act of a unit there (R385). -/
  | token (i : Instr)
deriving DecidableEq, Repr

/-- Where a request stands: waits at the egress, travels, is at its home, or has been performed and its reply or
acknowledgement travels back (R229, R385). -/
inductive ReqPhase where
  | egress | transit | home | done
deriving DecidableEq, Repr

/-- A request in flight. -/
structure Req where
  id : Nat
  core : Nat
  ctx : Nat
  keyid : Nat
  kind : ReqKind
  src : Nat
  dst : Nat
  seq : Nat
  phase : ReqPhase
  /-- The address that a trap or pending error of the access names (R242). -/
  va : Word
  reply : Word
  openBit : Bool
  /-- Dropped on its way, or held by NONE; only a resend brings it on (R383, R393, R397). -/
  lost : Bool
  /-- The scope of the acquire that is made where it is performed (R231). -/
  acq : Option Scope
  /-- The select entry it travels by, and raw elvtime of its last sending (R384, R387). -/
  path : Word
  sentAt : Word
  /-- A weak store that may still be performed again (R228, repeat). -/
  again : Bool
  /-- The command whose access it is: opcode, sequence number and context (R389). -/
  cmd : Option (Nat × Nat × Nat)
  /-- The kernel and group of a store whose strand has ended (R327, R328). -/
  group : Option (Nat × Nat)
deriving DecidableEq, Repr

/-- A stream at its source egress (R385-R389). -/
structure Stream where
  opened : Bool
  next : Nat
  unacked : List Nat
  counted : Nat
  /-- A busy reply, and elvcycle at which it came (R386). -/
  busy : Bool
  busyAt : Word
  down : Bool
deriving DecidableEq, Repr

/-- A stream entry at an ingress (R386). -/
structure Ingress where
  expect : Nat
  /-- Replies kept for duplicates, by sequence number mod 32. -/
  replies : Tbl (List Byte)
deriving DecidableEq, Repr

/-- A fault word in the window of the core that executed FWAKE (R377, R378, R469): the word, its origin's service core, the merged
count, the donated frame, the routers still ahead of it, the arrival port, and that core. -/
structure FaultWord where
  id : Nat
  word : Word
  origin : Nat
  merged : Nat
  donated : Word
  path : List Nat
  port : Nat
  down : Bool
  core : Nat
deriving DecidableEq, Repr

/-- How the memory accesses of the next instruction are carried out: whether its non-local requests travel as requests
of their own (slow), whether a weak load or a fetch fills the L1, and whether weak stores are split into bytes (R226, R228). -/
structure RunMode where
  slow : Bool
  fill : Bool
  split : Bool
deriving DecidableEq, Repr

/-- A failure of storage: a byte of local memory whose parity check fails, an L2 line with an uncorrectable or a corrected
single-bit error, an accumulator with a parity error (R216, R223, R175), logic of a core (R259). -/
inductive Upset where
  | localByte (key : Nat)
  | l2Line (line : Nat)
  | l2Corrected (line : Nat)
  | accumulator (core n : Nat)
  /-- An error in the logic of a core, met by an instruction of a context, with the unit's code (R259). -/
  | coreLogic (core ctx unit : Nat)
deriving DecidableEq, Repr

/-- One turn of the tape that schedules the agents: a context issues, an event happens, a chiplet's clock and time
advance. Program instructions are not events. -/
inductive Turn where
  | run (core ctx : Nat) (mode : RunMode)
  | event (i : Instr)
  | advance (die : Nat) (cycles time : Nat)
  /-- A byte at va is read early for a weak load of a context with a base register, or for an engine (R228). -/
  | peek (core ctx : Nat) (base : Option Reg) (va : Word)
  /-- Storage fails (log entry 95, DESIGN CHOICE). -/
  | upset (u : Upset)
deriving DecidableEq, Repr

/-- The whole module. -/
structure State where
  /-- The core and context that issue. -/
  curCore : Nat
  curCtx : Nat
  mode : RunMode
  turns : List Turn
  pending : List Instr
  parity : Bool
  /-- A counter that numbers requests, orders records and selects free values. -/
  clock : Nat
  cores : Tbl Core
  clusters : Tbl Cluster
  chips : Tbl Chip
  queues : Tbl Wq
  kernels : Tbl Kernel
  ended : Tbl Kernel
  sweeps : Tbl Sweep
  colls : List Coll
  reqs : List Req
  streams : Tbl Stream
  ingress : Tbl Ingress
  faultWords : List FaultWord
  /-- The merge tables of the routers, by die and site: granule and recorded arrival ports (R377). -/
  routers : Tbl (List (Nat × List Nat))
  fes : List FeReq
  mem : List Host.Cell
  full : List Nat
  /-- The payload lines that come with a full-empty word a notify has written (R195). -/
  feLines : Tbl (List Nat)
  badParity : List Nat
  badLines : List Nat
  /-- Poisoned lines, with the bytes not yet written again as a bit mask (R223). -/
  poison : Tbl Nat
  /-- The key identifier and key epoch a DRAM line was last written under (R225, R380). -/
  lineKeys : Tbl (Nat × Nat)
  keyEpochs : Tbl Nat
  pinNests : Tbl Nat
  trust : Trust
deriving DecidableEq, Repr

/-- Why a step stops with a fault. The manual makes every failing access a trap that the machine takes, so no step of
this model faults; the type exists for the interface. -/
inductive Fault where
  /-- Raised by no step. Safe. -/
  | none
deriving DecidableEq, Repr

/-- Why a step is refused. -/
inductive Refusal where
  /-- An instruction of the table that has no meaning yet, raised by the dispatcher. Safe. -/
  | notModelled (mnemonic : String)
deriving DecidableEq, Repr

/-- A context with nothing in it: a free context 0-5 (R245, R124) (DESIGN CHOICE, log entry 4). -/
def Ctx.empty : Ctx :=
  { st := .free, prior := .free, x := [], pc := 0, m := [], vtype := 9, rndseed := 1, ecause := 0, eaddr := 0,
    epc := 0, einfo := 0, wake := true, armed := false, event := false, onPath := false, monLine := 0, monPa := 0, monDue := false, tseq := 0,
    super := false, hprio := 0, chan := 0, words := [], resvChan := 0, resv := 0, staged := [], stmask := 0,
    copyErr := none, xportErr := none, lrRes := none, wait := .none, stop := 0, wasTrapped := false, gcoord := 0, gstrand := 0, nstr := 0,
    kid := 0, restored := false, replays := 0, slot := 0, routeSvc := false, unacked := 0, hold := [],
    haltReq := false, starved := 0, gen := 0, early := [], cmdRead := none, cause := 0, policyDue := false, out := [], seen := [] }

/-- The context number n as it stands at bring-up: FREE for 0-5, HANDLER_DORMANT for 6 and 7 (R247). -/
def Ctx.reset (n : Nat) : Ctx := if n < 6 then Ctx.empty else { Ctx.empty with st := .dormant, prior := .dormant }

/-- An unclaimed window. -/
def Win.empty : Win := { regs := [], vin := [], vout := [], holder := none, resv := none }

/-- An UNCONFIGURED ring. -/
def Ring.empty : Ring :=
  { configured := false, carved := false, revoked := false, side := false, lastslot := 0, head := 0, tail := 0,
    count := 0, base := 0, sees := [] }

/-- A FREE matrix state (R162). -/
def Matrix.free : Matrix :=
  { holder := none, fmt := none, fmtQ := none, acc := [], poison := 0, accBad := 0, rings := [], ringsQ := [], queue := [], seq := 0,
    err := none, undelivered := 0 }

/-- An empty channel. -/
def Chan.empty : Chan := { words := [], lines := [], prodResv := 0, grantResv := 0, poppers := [], reqs := [] }

/-- A core at reset: credit mode (R289), qbackoff exp 4 base 64, qretry 16 (R294), feretry gap 128 limit 32 (R336),
wfetimeout 1,000,000 (R341). -/
def Core.reset : Core :=
  { ctxs := [], chans := [], handlers := [], lastFired := 31, window := [], hwWait := [], nackFrom := [], nextUid := 0, credit := true,
    creditNext := true, qbackoff := 0x40040, qretry := 16, feretry := 0x8020, wfetimeout := 1000000, hbcount := 0,
    tseq := 0, notices := [], tlb := [], picks := [], wins := [], mat := Matrix.free, copyQ := [],
    copySeq := 0, collQ := [], collSeq := 0, sweepQ := [], sweepSeq := 0, subs := [], slots := [], stopped := false,
    stopCause := 0, yielded := none, l1d := [], l1i := [], gives := [], watch := [], lastBeat := 0 }

/-- An unconfigured merge buffer (R423). -/
def Merge.none : Merge :=
  { off := 0, nslots := 0, nentries := 0, hd := 0, slots := [], entries := [], nacks := 0, dropped := 0, merges := 0 }

/-- A cluster at reset. -/
def Cluster.reset : Cluster :=
  { mutexes := [], sems := [], bars := [], carve := { state := 0, ways := 0, backing := 0 }, merge := Merge.none,
    pages := [], marks := [], waitingSubs := [], deliveries := [], monitors := [], combining := [],
    binds := [], spareFor := none, proxyIn := [], returned := [], matTurn := 0, log := [] }

/-- A FREE mutex. -/
def Mutex.free : Mutex := { holder := none, broken := false, waiters := [] }

/-- A semaphore at zero. -/
def Sem.zero : Sem := { count := 0, waiters := [] }

/-- An uninitialised barrier register. -/
def Bar.zero : Bar := { count := 0, arrived := 0, phase := false, waiters := [] }

/-- A link module at reset: TRAINING, evt_en 1, window 100 µs (R395). -/
def Link.reset : Link :=
  { state := 0, trains := 0, spares := 0, half := false, x32 := false, force32 := false, evtEn := true, lanemap := 0,
    retryCnt := 0, thr := 0, windowUs := 100, windowCnt := 0, windowSent := false, windowAt := 0, corrected := 0, gaps := 0,
    errlane := 0, dropped := 0, pausing := false, fromPaused := false, attempts := 0, taken := none }

/-- A chiplet at reset (R31, R32, R310, R325, R388, R401, R423). -/
def Chip.reset : Chip :=
  { cycle := 0, time := 0, holdover := true, boundPs := 0xFFFFFFFF, activeAt := 0, lastSync := 0, qmode := [], aging := 1000, share := 0,
    proj := 0, powerWait := false, sbFree := 2097152, ftab := [], stripes := [], nsel := [], draining := [],
    e2eTmo := 64, e2eLimit := 7, e2eBusy := 256, giveups := 0, resends := 0, dom := [], xcol := [], etype := 0x88B5,
    macs := [], peers := [], mbTimeout := 10000, links := [], log := [], frames := [] }

/-- A die at reset: DARK, op 0b101, target NOMINAL, idle GECKO (R432, R436). -/
def Die.reset : Die :=
  { state := .dark, op := 5, fail := 0, side := 0, attempts := 0, tries := 0, losses := 0, target := 1, idle := 3, change := none,
    raising := false, want := none, degraded := false, digest := 0, triedAt := 0, configuredAt := 0, stepAt := 0 }

/-- A region at reset: GATED, weight 1, ilim 781,000 mA (R432). -/
def Region.reset : Region :=
  { state := 0, weight := 1, allow := 0, fixedMw := 0, drawMw := 0, ilim := 781000, above := 0, steps := 0, slow := false,
    stepAt := 0, wanted := false }

/-- The trust die at reset: a clean fuse map, an empty log, budget 30,000,000 mW (R432) (DESIGN CHOICE, log entry 3). -/
def Trust.reset : Trust :=
  { fuseSites := [], fuseClusters := [], fuseSlots := [], logSites := [], logClusters := [], logSlots := [], logSeq := 0, code := .a512,
    reinst := [], absent := [], mapSeq := 0, renum := false, published := false, safe := false, safeCause := 0, dies := [],
    regions := [], budget := 30000000, refused := 0, floor := false, keys := [], sessions := false, digests := [],
    measures := [], lifetime := [], images := [], updating := [], deferredRetire := [], hwin := 0, mboxReq := [],
    mboxRsp := [], mboxGo := false, mboxDone := false, msix := [], i3cAddr := none, eid := 0, responses := [],
    deferFrom := [], powerAt := 0 }

/-- A DISABLED work queue (R297). -/
def Wq.reset : Wq :=
  { st := .disabled, err := 0, userPush := false, userPop := false, head := 0, tail := 0, slots := [], waiters := [],
    launches := 0, taken := 0 }

/-- A closed stream. -/
def Stream.closed : Stream :=
  { opened := false, next := 0, unacked := [], counted := 0, busy := false, busyAt := 0, down := false }

/-- The module right after reset: every die DARK, every register at its reset value, memory with nothing listed. -/
def State.reset : State :=
  { curCore := 0, curCtx := 0, mode := { slow := false, fill := false, split := false }, turns := [], pending := [], parity := false,
    clock := 0, cores := [], clusters := [], chips := [], queues := [], kernels := [], ended := [], sweeps := [],
    colls := [], reqs := [], streams := [], ingress := [], faultWords := [], routers := [], fes := [], mem := [], full := [], feLines := [],
    badParity := [], badLines := [], poison := [], lineKeys := [], keyEpochs := [], pinNests := [],
    trust := Trust.reset }

end Sys2Proof.Machine
end

