-- ==== Sys2Proof/Machine/Sparse.lean ====
section
/-! DEFINITION. Tables keyed by number and memory in canonical form: reading and writing one entry. -/

namespace Sys2Proof.Machine

/-- The entry of key k, or d when none is listed. -/
def tget {α : Type} (d : α) (k : Nat) : Tbl α → α
  | [] => d
  | (j, v) :: r => if j = k then v else tget d k r

/-- The table with v at key k; keys stay in rising order. -/
def tset {α : Type} (k : Nat) (v : α) : Tbl α → Tbl α
  | [] => [(k, v)]
  | (j, w) :: r => if j = k then (k, v) :: r else if k < j then (k, v) :: (j, w) :: r else (j, w) :: tset k v r

/-- The table without key k. -/
def tdel {α : Type} (k : Nat) (t : Tbl α) : Tbl α := t.filter (fun e => e.1 != k)

/-- The entry of key k, if listed. -/
def tfind {α : Type} (k : Nat) : Tbl α → Option α
  | [] => none
  | (j, v) :: r => if j = k then some v else tfind k r

/-- The byte of an address that memory does not list (log entry 5, DESIGN CHOICE; R333 for local memory). -/
def Memory.unlisted : Byte := 0

/-- The byte at address a. -/
def Memory.byte (a : Nat) (m : List Host.Cell) : Byte := tget Memory.unlisted a m

/-- Memory with v at address a, in canonical form. -/
def Memory.setByte (a : Nat) (v : Byte) (m : List Host.Cell) : List Host.Cell :=
  if v = Memory.unlisted then tdel a m else tset a v m

/-- Addresses strictly rising above a bound, and no entry equal to an unlisted one. -/
def Memory.wfFrom : Option Nat → List Host.Cell → Bool
  | _, [] => true
  | lo, (a, v) :: r => (match lo with | none => true | some b => decide (b < a)) && v != Memory.unlisted && wfFrom (some a) r

/-- The canonical form of memory. -/
def Memory.wf (m : List Host.Cell) : Bool := Memory.wfFrom none m

/-- Memory with the bytes vs from address a up. -/
def Memory.setBytes (a : Nat) : List Byte → List Host.Cell → List Host.Cell
  | [], m => m
  | v :: vs, m => Memory.setBytes (a + 1) vs (Memory.setByte a v m)

/-- n bytes from address a up. -/
def Memory.bytes (m : List Host.Cell) (a : Nat) : Nat → List Byte
  | 0 => []
  | n + 1 => Memory.byte a m :: Memory.bytes m (a + 1) n

/-- The little-endian number of a list of bytes (R107, R43). -/
def leNat : List Byte → Nat
  | [] => 0
  | b :: r => b.toNat + 256 * leNat r

/-- The n low bytes of a number, lowest first. -/
def leBytes : Nat → Nat → List Byte
  | 0, _ => []
  | n + 1, v => BitVec.ofNat 8 v :: leBytes n (v / 256)

/-- A list with element i replaced. -/
def lset {α : Type} (i : Nat) (v : α) : List α → List α
  | [] => []
  | x :: r => match i with
    | 0 => v :: r
    | j + 1 => x :: lset j v r

/-- The first element that satisfies p, with its change applied; the others as they are. -/
def updFirst {α : Type} (p : α → Bool) (f : α → α) : List α → List α
  | [] => []
  | x :: r => if p x then f x :: r else x :: updFirst p f r

/-- The list without its first element that satisfies p. -/
def dropFirst {α : Type} (p : α → Bool) : List α → List α
  | [] => []
  | x :: r => if p x then r else x :: dropFirst p r

/-- The numbers lo, lo + 1, ..., n of them. -/
def natsFrom (lo : Nat) : Nat → List Nat
  | 0 => []
  | n + 1 => lo :: natsFrom (lo + 1) n

/-- Insertion into a list kept in rising order by key. -/
def insertBy {α : Type} (le : α → α → Bool) (x : α) : List α → List α
  | [] => [x]
  | y :: r => if le x y then x :: y :: r else y :: insertBy le x r

/-- Insertion of a number into a rising list without repeats. -/
def insertNat (x : Nat) : List Nat → List Nat
  | [] => [x]
  | y :: r => if x = y then y :: r else if x < y then x :: y :: r else y :: insertNat x r

/-- The numbers of a list in rising order, each once. -/
def sortNats (l : List Nat) : List Nat := l.foldr insertNat []

/-- A list sorted by a total order. -/
def sortBy {α : Type} (le : α → α → Bool) (l : List α) : List α := l.foldr (insertBy le) []

end Sys2Proof.Machine
end

