-- ==== Sys2Proof/Machine/Sha512.lean ====
section
/-! DEFINITION. SHA-512 (FIPS 180-4), used for the map identifier (R35) and the digests of chapter 17. Its constants are
the fractional parts of cube and square roots of the first primes, computed here. -/

namespace Sys2Proof.Machine

/-- The first 80 primes, found by trial division. -/
def smallPrimes : List Nat :=
  (natsFrom 2 408).filter (fun n => (natsFrom 2 19).all (fun d => decide (n ≤ d) || n % d ≠ 0))

/-- The largest r below 2^bits whose power e is at most n, found bit by bit. -/
def rootBits (e n : Nat) : Nat → Nat → Nat
  | 0, r => r
  | b + 1, r => if (r + 2 ^ b) ^ e ≤ n then rootBits e n b (r + 2 ^ b) else rootBits e n b r

/-- The first 64 fractional bits of the square and the cube root of p. -/
def sqrtFrac (p : Nat) : Word := BitVec.ofNat 64 (rootBits 2 (p * 2 ^ 128) 70 0)
def cbrtFrac (p : Nat) : Word := BitVec.ofNat 64 (rootBits 3 (p * 2 ^ 192) 70 0)

def shaK : List Word := smallPrimes.map cbrtFrac
def shaInit : List Word := (smallPrimes.take 8).map sqrtFrac

def rotr (x : Word) (n : Nat) : Word := x.rotateRight n

/-- One step of the message schedule: the window holds the last 16 words, oldest first. -/
def shaNext (w : List Word) : Word :=
  let a := w.getD 1 0
  let b := w.getD 14 0
  let s0 := rotr a 1 ^^^ rotr a 8 ^^^ (a >>> 7)
  let s1 := rotr b 19 ^^^ rotr b 61 ^^^ (b >>> 6)
  w.getD 0 0 + s0 + w.getD 9 0 + s1

/-- The rounds over the remaining constants: the working variables a to h and the schedule window. -/
def shaRounds : List Word → List Word → List Word → List Word
  | [], _, v => v
  | k :: ks, w, v =>
    match v with
    | [a, b, c, d, e, f, g, h] =>
      let t1 := h + (rotr e 14 ^^^ rotr e 18 ^^^ rotr e 41) + ((e &&& f) ^^^ (~~~e &&& g)) + k + w.headD 0
      let t2 := (rotr a 28 ^^^ rotr a 34 ^^^ rotr a 39) + ((a &&& b) ^^^ (a &&& c) ^^^ (b &&& c))
      shaRounds ks (w.tail ++ [shaNext w]) [t1 + t2, a, b, c, d + t1, e, f, g]
    | _ => v

/-- The words of a block, big-endian. -/
def shaWords : Nat → List Nat → List Word
  | 0, _ => []
  | n + 1, bs => BitVec.ofNat 64 ((bs.take 8).foldl (fun v b => 256 * v + b) 0) :: shaWords n (bs.drop 8)

def shaBlocks (ks : List Word) : Nat → List Nat → List Word → List Word
  | 0, _, h => h
  | n + 1, bs, h =>
    shaBlocks ks n (bs.drop 128) (List.zipWith (· + ·) h (shaRounds ks (shaWords 16 (bs.take 128)) h))

/-- The padded message. -/
def shaPad (bs : List Nat) : List Nat :=
  let n := bs.length
  let z := (239 - n % 128) % 128
  bs ++ [0x80] ++ List.replicate z 0 ++ (natsFrom 0 16).map (fun i => n * 8 / 256 ^ (15 - i) % 256)

/-- The 64 bytes of the digest of a list of bytes (PRESUMED, log entry 11). -/
def sha512 (bs : List Nat) : List Nat :=
  let p := shaPad bs
  (shaBlocks shaK (p.length / 128) p shaInit).flatMap (fun w => (natsFrom 0 8).map (fun i => w.toNat / 256 ^ (7 - i) % 256))

end Sys2Proof.Machine
end

