-- ==== Sys2Proof/Machine/Map.lean ====
section
/-! DEFINITION. The wafer's parts and their names (chapter 01): sites, regions, the effective defect map, the logical
numbering of chiplets, clusters and cores, the registers that name a core, and the map identifier. A compute site is
numbered in the row-major order of R12, 32 to a row; a cluster site is 12 py + px; a core is keyed by its logical place
chiplet × 2,244 + cluster × 17 + index, index 16 being the service core, and a management core by its die. -/

namespace Sys2Proof.Machine

/-- The site column of compute site k (R10): columns 4, 13, 22 and 31 hold DRAM. -/
def siteX (k : Nat) : Nat :=
  let c := k % 32
  9 * (c / 8) + (if c % 8 < 4 then c % 8 else c % 8 + 1)

/-- The site row of compute site k. -/
def siteY (k : Nat) : Nat := k / 32

/-- The region of compute site k (R13). -/
def siteRegion (k : Nat) : Nat := (k % 32 / 8) * 16 + siteY k

/-- The eight compute sites of a region, in row-major order (R13). -/
def regionSites (r : Nat) : List Nat := natsFrom ((r % 16) * 32 + (r / 16) * 8) 8

/-- The effective map (R22): a part is defective when the fuse map or the log says so. -/
def Trust.siteBad (t : Trust) (k : Nat) : Bool := t.fuseSites.contains k || t.logSites.contains k

/-- A cluster site marked defective, numbered site × 144 + (12 py + px). -/
def Trust.clusterMarked (t : Trust) (k c : Nat) : Bool :=
  t.fuseClusters.contains (k * 144 + c) || t.logClusters.contains (k * 144 + c)

/-- A core slot marked defective, numbered (site × 144 + cluster site) × 18 + slot. -/
def Trust.slotBad (t : Trust) (k c p : Nat) : Bool :=
  t.fuseSlots.contains ((k * 144 + c) * 18 + p) || t.logSlots.contains ((k * 144 + c) * 18 + p)

/-- The defective slots among 0-16 of a cluster site. -/
def Trust.badSlots (t : Trust) (k c : Nat) : List Nat := (natsFrom 0 17).filter (t.slotBad k c)

/-- A cluster site counted as defective (R23). -/
def Trust.clusterBad (t : Trust) (k c : Nat) : Bool :=
  t.clusterMarked k c ||
    (match t.badSlots k c with
     | [] => false
     | [_] => t.slotBad k c 17
     | _ => true)

/-- The physical slot of a logical core index, 16 being the service role (R23). -/
def Trust.slotOf (t : Trust) (k c i : Nat) : Nat := if t.slotBad k c i then 17 else i

/-- The good physical columns of a row of cluster sites. -/
def Trust.goodCols (t : Trust) (k py : Nat) : List Nat := (natsFrom 0 12).filter (fun px => !t.clusterBad k (12 * py + px))

/-- May row py lend its column 11: it has no defects and has not lent it already (R24). -/
def Trust.lends (t : Trust) (k : Nat) (lent : List Nat) (py : Nat) : Bool :=
  (t.goodCols k py).length = 12 && !lent.contains py

/-- The rows adjacent to py, the lower-numbered first. -/
def adjacentRows (py : Nat) : List Nat :=
  (if 0 < py then [py - 1] else []) ++ (if py < 11 then [py + 1] else [])

/-- The logical columns of rows py, py + 1, ... in order, n rows of them, given the rows that have lent (R24); none when
the chiplet is retired. A place is 12 py + px. -/
def Trust.assignRows (t : Trust) (k : Nat) : Nat → Nat → List Nat → Option (List Nat)
  | 0, _, _ => some []
  | n + 1, py, lent =>
    let good := (t.goodCols k py).map (12 * py + ·)
    if 11 ≤ good.length then
      match t.assignRows k n (py + 1) lent with
      | some r => some (good.take 11 ++ r)
      | none => none
    else if good.length = 10 then
      match (adjacentRows py).find? (t.lends k lent) with
      | some q =>
        match t.assignRows k n (py + 1) (q :: lent) with
        | some r => some (good ++ [12 * q + 11] ++ r)
        | none => none
      | none => none
    else none

/-- The fewest physical hops between two cluster sites (R16). -/
def physHops (a b : Nat) : Nat :=
  let d (x y : Nat) : Nat := if x < y then y - x else x - y
  (d (a % 12) (b % 12) + 1) / 2 + (d (a / 12) (b / 12) + 1) / 2

/-- The logically adjacent clusters with higher number: the next column and the next row (R25). -/
def logicalNeighbours (c : Nat) : List Nat :=
  (if c % 11 < 10 then [c + 1] else []) ++ (if c / 11 < 11 then [c + 11] else [])

/-- The hop check of R25. -/
def hopsOk (layout : List Nat) : Bool :=
  (natsFrom 0 132).all (fun c => (logicalNeighbours c).all (fun d => decide (physHops (layout.getD c 0) (layout.getD d 0) ≤ 2)))

/-- The layout of a chiplet with no defects. -/
def cleanLayout : List Nat := (natsFrom 0 132).map (fun c => 12 * (c / 11) + c % 11)

/-- Does any record name a part inside compute site k? -/
def Trust.touched (t : Trust) (k : Nat) : Bool :=
  (t.fuseClusters ++ t.logClusters).any (fun c => c / 144 = k) || (t.fuseSlots ++ t.logSlots).any (fun p => p / 2592 = k)

/-- The cluster sites of logical clusters 0-131 of compute site k, or none when the chiplet is disabled (R22-R25). -/
def Trust.layout (t : Trust) (k : Nat) : Option (List Nat) :=
  if t.siteBad k || t.absent.contains k then none
  else if !t.touched k then some cleanLayout
  else match t.assignRows k 12 0 [] with
    | some l => if hopsOk l then some l else none
    | none => none

/-- The compute sites that a record names, wholly or in part, or that this bring-up has quarantined, in rising order, each
once. -/
def Trust.namedSites (t : Trust) : List Nat :=
  sortNats (t.fuseSites ++ t.logSites ++ t.absent ++ (t.fuseClusters ++ t.logClusters).map (· / 144) ++
    (t.fuseSlots ++ t.logSlots).map (· / 2592))

/-- The compute sites in which a record names a part. -/
def Trust.partSites (t : Trust) : List Nat :=
  sortNats ((t.fuseClusters ++ t.logClusters).map (· / 144) ++ (t.fuseSlots ++ t.logSlots).map (· / 2592))

/-- The disabled compute sites in rising order: those retired or quarantined whole, and those whose defects leave no layout
(R24, R25). -/
def Trust.disabled (t : Trust) : List Nat :=
  (sortNats (t.fuseSites ++ t.logSites ++ t.absent ++ t.partSites.filter (fun k => (t.layout k).isNone))).filter (fun k => decide (k < 512))

/-- The grade (R2, R21): the count of enabled compute chiplets. -/
def Trust.grade (t : Trust) : Nat := 512 - t.disabled.length

/-- The fewest enabled compute chiplets at shipment under an ordering code (R1). -/
def OrderCode.floor : OrderCode → Nat
  | .a512 => 512
  | .a448 => 448
  | .a384 => 384

/-- Is the module below its code floor (R2)? -/
def Trust.belowFloor (t : Trust) : Bool := decide (t.grade < t.code.floor)

/-- The logical chiplet number of an enabled site (R12). -/
def Trust.chipOfSite (t : Trust) (k : Nat) : Option Nat :=
  if t.disabled.contains k then none else some (k - (t.disabled.filter (· < k)).length)

/-- The site of a logical chiplet number (R12). -/
def Trust.siteOfChip (t : Trust) (n : Nat) : Nat := t.disabled.foldl (fun k d => if d ≤ k then k + 1 else k) n

/-- The cluster site of a logical cluster of a logical chiplet. -/
def Trust.clusterSite (t : Trust) (chip clu : Nat) : Nat :=
  ((t.layout (t.siteOfChip chip)).getD cleanLayout).getD clu 0

/-- The enabled compute chiplets of a region, by ascending logical number (R222). -/
def Trust.regionChips (t : Trust) (r : Nat) : List Nat := (regionSites r).filterMap t.chipOfSite

/-- How many regions have an enabled compute chiplet, and with it their DRAM (R14). -/
def Trust.dramRegions (t : Trust) : Nat := ((natsFrom 0 64).filter (fun r => !(t.regionChips r).isEmpty)).length

/-! Keys of cores and clusters. -/

/-- The key of a core of a compute chiplet. -/
def coreKey (chip clu idx : Nat) : Nat := chip * 2244 + clu * 17 + idx

/-- The key that stands for what is outside the module: a peer module or the host (R230). -/
def outsideCore : Nat := 2 ^ 32

/-- The first key of a management core. -/
def mgmtBase : Nat := 1148928

/-- The key of the management core of an edge chiplet or of the trust die (die 576-608, R217). -/
def mgmtKey (die : Nat) : Nat := mgmtBase + (die - 576)

def isMgmt (k : Nat) : Bool := decide (mgmtBase ≤ k)
def isService (k : Nat) : Bool := decide (k < mgmtBase) && k % 17 = 16
def isCompute (k : Nat) : Bool := decide (k < mgmtBase) && k % 17 < 16
def chipOf (k : Nat) : Nat := k / 2244
def cluOf (k : Nat) : Nat := k % 2244 / 17
def idxOf (k : Nat) : Nat := k % 17

/-- The key of a core's cluster: chiplet × 132 + cluster. -/
def cluKey (k : Nat) : Nat := k / 17

/-- The die of a core (R217). -/
def dieOf (k : Nat) : Nat := if isMgmt k then 576 + (k - mgmtBase) else chipOf k

/-- The service core of a core's cluster. -/
def svcOf (k : Nat) : Nat := k / 17 * 17 + 16

/-- The service core of a cluster key. -/
def svcOfClu (c : Nat) : Nat := c * 17 + 16

/-- The rank of a compute core (R18). -/
def rankOf (k : Nat) : Nat := chipOf k * 2112 + cluOf k * 16 + idxOf k

/-- The core of a rank (R18). -/
def coreOfRank (r : Nat) : Nat := coreKey (r / 2112) (r % 2112 / 16) (r % 16)

/-- The management core of the west edge chiplet in a chiplet's row (R254). -/
def Trust.mgmtOfChip (t : Trust) (chip : Nat) : Nat := mgmtBase + siteY (t.siteOfChip chip)

/-- mhartid (R19); for a management core see log entry 14, DEDUCED. -/
def mhartid (k : Nat) : Nat :=
  if isMgmt k then 0x80000000 + 67584 + (k - mgmtBase)
  else if isService k then 0x80000000 + cluKey k
  else rankOf k

/-- The core that a number in mhartid form names at the grade (R19, R121, R287). -/
def coreOfIdent (grade d : Nat) : Option Nat :=
  if d < 0x80000000 then (if d < grade * 2112 then some (coreOfRank d) else none)
  else if d < 0x80000000 + grade * 132 then some (svcOfClu (d - 0x80000000))
  else if 0x80000000 + 67584 ≤ d && d < 0x80000000 + 67584 + 33 then some (mgmtBase + (d - 0x80000000 - 67584))
  else none

/-- elvcoord (R20). -/
def Trust.elvcoord (t : Trust) (k : Nat) : Nat :=
  if isMgmt k then
    let d := k - mgmtBase
    let x := if d < 16 then 60 else if d < 32 then 61 else 62
    2 * 2 ^ 24 + (d % 16 % 32) * 2 ^ 6 + x
  else
    let site := t.siteOfChip (chipOf k)
    let c := t.clusterSite (chipOf k) (cluOf k)
    let kind := if isService k then 1 else 0
    kind * 2 ^ 24 + t.slotOf site c (idxOf k) * 2 ^ 19 + (c / 12) * 2 ^ 15 + (c % 12) * 2 ^ 11 + siteY site * 2 ^ 6 + siteX site

/-- The home slice of a DRAM line (R222): the key of its cluster. -/
def Trust.homeSlice (t : Trust) (region line : Nat) : Nat :=
  let chips := t.regionChips region
  let x := ((line ^^^ (line / 8192)) * 0x9E3779B1) % 2 ^ 32
  let s := x * (132 * chips.length) / 2 ^ 32
  chips.getD (s / 132) 0 * 132 + s % 132

/-- The bytes of a bit field of n bytes whose bit i is f i (R35). -/
def bitBytes (f : Nat → Bool) (n : Nat) : List Nat :=
  (natsFrom 0 n).map (fun b => (natsFrom 0 8).foldl (fun v i => if f (8 * b + i) then v + 2 ^ i else v) 0)

/-- The record of compute site k in the canonical map image (R35). -/
def Trust.siteRecord (t : Trust) (k : Nat) : List Nat :=
  if t.siteBad k then 1 :: List.replicate 343 0
  else if !t.touched k then List.replicate 344 0
  else 0 :: (bitBytes (fun i => decide (i < 144) && t.clusterMarked k i) 18 ++
    bitBytes (fun i => decide (i < 2592) && t.slotBad k (i / 18) (i % 18)) 324) ++ [0]

/-- The map identifier (R35): the first eight bytes of the digest of the canonical image, little-endian. -/
def Trust.mapId (t : Trust) : Word :=
  let d := sha512 ((natsFrom 0 512).flatMap t.siteRecord)
  BitVec.ofNat 64 ((d.take 8).foldr (fun b v => b + 256 * v) 0)

end Sys2Proof.Machine
end

