-- ==== Sys2Proof/Machine/Ops.lean ====
section
/-! DEFINITION. The named operations over State: cores and contexts, registers, completing and blocking an instruction,
taking a trap (R251-R256) and resuming from one (R270). -/

namespace Sys2Proof.Machine

/-! Cores and contexts. -/

def State.core (s : State) (k : Nat) : Core := tget Core.reset k s.cores
def State.setCore (s : State) (k : Nat) (c : Core) : State := { s with cores := tset k c s.cores }
def State.modCore (s : State) (k : Nat) (f : Core → Core) : State := s.setCore k (f (s.core k))

def Core.ctx (c : Core) (n : Nat) : Ctx := tget (Ctx.reset n) n c.ctxs
def Core.setCtx (c : Core) (n : Nat) (x : Ctx) : Core := { c with ctxs := tset n x c.ctxs }

def State.ctx (s : State) (k n : Nat) : Ctx := (s.core k).ctx n
def State.setCtx (s : State) (k n : Nat) (x : Ctx) : State := s.modCore k (fun c => c.setCtx n x)
def State.modCtx (s : State) (k n : Nat) (f : Ctx → Ctx) : State := s.modCore k (fun c => c.setCtx n (f (c.ctx n)))

/-- The context that issues. -/
def State.cur (s : State) : Ctx := s.ctx s.curCore s.curCtx
def State.modCur (s : State) (f : Ctx → Ctx) : State := s.modCtx s.curCore s.curCtx f

/-- The core that issues. -/
def State.here (s : State) : Core := s.core s.curCore
def State.modHere (s : State) (f : Core → Core) : State := s.modCore s.curCore f

/-- The same change to each of the eight contexts of a core. -/
def Core.mapCtxs (f : Nat → Ctx → Ctx) (c : Core) : Core :=
  { c with ctxs := (natsFrom 0 8).foldl (fun t n => tset n (f n (tget (Ctx.reset n) n t)) t) c.ctxs }

def State.cluster (s : State) (k : Nat) : Cluster := tget Cluster.reset k s.clusters
def State.setCluster (s : State) (k : Nat) (c : Cluster) : State := { s with clusters := tset k c s.clusters }
def State.modCluster (s : State) (k : Nat) (f : Cluster → Cluster) : State := s.setCluster k (f (s.cluster k))

def State.chip (s : State) (k : Nat) : Chip := tget Chip.reset k s.chips
def State.setChip (s : State) (k : Nat) (c : Chip) : State := { s with chips := tset k c s.chips }
def State.modChip (s : State) (k : Nat) (f : Chip → Chip) : State := s.setChip k (f (s.chip k))

/-- The trust die's record of the die numbered as R217 numbers dies. -/
def State.die (s : State) (k : Nat) : Die := tget Die.reset k s.trust.dies
def State.modTrust (s : State) (f : Trust → Trust) : State := { s with trust := f s.trust }
def State.modDie (s : State) (k : Nat) (f : Die → Die) : State :=
  s.modTrust (fun t => { t with dies := tset k (f (tget Die.reset k t.dies)) t.dies })

def State.grade (s : State) : Nat := s.trust.grade

/-- Append an act of a unit to the agenda. -/
def State.plan (s : State) (i : Instr) : State := { s with pending := s.pending ++ [i] }

/-- Append acts to the agenda. -/
def State.plans (s : State) (is : List Instr) : State := { s with pending := s.pending ++ is }

/-- The next value of the counter that numbers requests and selects free values. -/
def State.tick (s : State) : State := { s with clock := s.clock + 1 }

/-! Registers of a context. -/

/-- x[r]; x0 reads as zero (R87, R106). -/
def Ctx.rx (c : Ctx) (r : Reg) : Word := if r = 0 then 0 else tget 0 r.toNat c.x

/-- x[r] := v; a write of x0 is discarded. A load performed early does not depend on the new value (R234 cases 7 and 8). -/
def Ctx.wx (c : Ctx) (r : Reg) (v : Word) : Ctx := 
  if r = 0 then c else { c with x := tset r.toNat v c.x, early := c.early.filter (fun e => e.base != some r) }

/-- The mask register (R159). -/
def Ctx.rm (c : Ctx) (m : MReg) : Word := tget 0 m.toNat c.m
def Ctx.wm (c : Ctx) (m : MReg) (v : Word) : Ctx := { c with m := tset m.toNat v c.m }

def State.rx (s : State) (r : Reg) : Word := s.cur.rx r
def State.wx (s : State) (r : Reg) (v : Word) : State := s.modCur (fun c => c.wx r v)

/-- The instruction completes: the pc moves to the next one. -/
def State.complete (s : State) : State := s.modCur (fun c => { c with pc := c.pc + 4 })

/-- The instruction completes with v in rd. -/
def State.done (s : State) (rd : Reg) (v : Word) : State := s.modCur (fun c => { c.wx rd v with pc := c.pc + 4 })

/-- The context waits (R248); the pc stays. -/
def State.block (s : State) (w : Wait) : State := s.modCur (fun c => { c with wait := w })

/-- Another context of core k completes its instruction with v in rd. -/
def State.finish (s : State) (k n : Nat) (rd : Reg) (v : Word) : State :=
  s.modCtx k n (fun c => { c.wx rd v with pc := c.pc + 4, wait := .none })

/-- Contexts of core k whose wait satisfies p execute their instruction again. -/
def State.wakeWhere (s : State) (k : Nat) (p : Wait → Bool) : State :=
  s.modCore k (Core.mapCtxs (fun _ c => if p c.wait then { c with wait := .none } else c))

/-- Waits for the engines, the vector ports, the matrix state, the window and earlier stores: tried again whenever one
of them has moved. -/
def Wait.isUnit : Wait → Bool
  | .engine | .vport | .matrix | .window | .acks => true
  | _ => false

def State.wakeUnits (s : State) (k : Nat) : State := s.wakeWhere k Wait.isUnit

/-! Causes (R258). -/

def cILLEGAL_INSTR : Nat := 0x01
def cILLEGAL_CMD : Nat := 0x02
def cRESERVED_FIELD : Nat := 0x03
def cPOOL_ENTERED : Nat := 0x04
def cMISALIGNED_FETCH : Nat := 0x05
def cFETCH_PAGE_FAULT : Nat := 0x06
def cFETCH_ACCESS : Nat := 0x07
def cLOAD_PAGE_FAULT : Nat := 0x08
def cSTORE_PAGE_FAULT : Nat := 0x09
def cLOAD_ACCESS : Nat := 0x0A
def cSTORE_ACCESS : Nat := 0x0B
def cMISALIGNED_ATOMIC : Nat := 0x0C
def cPRIVILEGE : Nat := 0x0D
def cBREAKPOINT : Nat := 0x0E
def cENV_CALL : Nat := 0x0F
def cQUEUE_NOT_BOUND : Nat := 0x10
def cNACK_LIMIT : Nat := 0x11
def cHANDLER_BLOCKED : Nat := 0x12
def cFE_RETRY_LIMIT : Nat := 0x13
def cDEAD_DESTINATION : Nat := 0x14
def cMONITOR_INVALID : Nat := 0x15
def cSEMAPHORE_OVERFLOW : Nat := 0x16
def cBARRIER_MISMATCH : Nat := 0x17
def cRING_CONFIG : Nat := 0x18
def cFORMAT_CONTEXT_INVALID : Nat := 0x19
def cSHAPE_RECORD_INVALID : Nat := 0x1A
def cACC_INDEX_INVALID : Nat := 0x1B
def cCOPY_BOUNDS : Nat := 0x1C
def cCARVE_REVOKED : Nat := 0x1D
def cPIN_LIMIT : Nat := 0x1E
def cMIGRATE_WAIT : Nat := 0x1F
def cOUT_OF_FRAMES : Nat := 0x20
def cTLB_MULTIHIT : Nat := 0x21
def cSTRIPE_PEER_DOWN : Nat := 0x22
def cPOISON_CONSUMED : Nat := 0x23
def cLOCAL_PARITY : Nat := 0x24
def cL2_UNCORRECTABLE : Nat := 0x25
def cMATRIX_DATA_ERROR : Nat := 0x26
def cLINK_DATA_LOSS : Nat := 0x27
def cTRANSPORT_TIMEOUT : Nat := 0x28
def cHEARTBEAT_MISSED : Nat := 0x29
def cPREEMPT : Nat := 0x2A
def cSAVE_REQUEST : Nat := 0x2B
def cENERGY_THROTTLE : Nat := 0x2C
def cGRADE_MISMATCH : Nat := 0x2D
def cCYCLIC_DEPENDENCE : Nat := 0x2E
def cLAUNCH_INVALID : Nat := 0x2F
def cWORKQUEUE_ERROR : Nat := 0x30
def cKERNEL_ABORTED : Nat := 0x31
def cATTN_SUBSCRIBE_INVALID : Nat := 0x32
def cMERGE_TIMEOUT : Nat := 0x33
def cATTN_LATE_JOIN_REFUSED : Nat := 0x34
def cREDUCE_TYPE_MISMATCH : Nat := 0x35
def cDEBUG_HALT : Nat := 0x36
def cWATCHPOINT : Nat := 0x37
def cCSR_ACCESS : Nat := 0x38
def cSECURITY_VIOLATION : Nat := 0x39
def cTHERMAL_TRIP : Nat := 0x3A
def cCLOCK_LOSS : Nat := 0x3B
def cSERVICE_CORE_LOST : Nat := 0x3C
def cCONTEXT_SAVE_FAULT : Nat := 0x3D
def cMACHINE_CHECK : Nat := 0x3E
def cDOUBLE_FAULT : Nat := 0x3F

/-- The causes of kind W (R257, R258). -/
def isW (cause : Nat) : Bool := cause = cFETCH_PAGE_FAULT || cause = cLOAD_PAGE_FAULT || cause = cSTORE_PAGE_FAULT

/-- The causes of kind C that an instruction can meet (R258, R259). -/
def isC (cause : Nat) : Bool :=
  cause = cLOCAL_PARITY || cause = cHEARTBEAT_MISSED || cause = cTHERMAL_TRIP || cause = cCLOCK_LOSS || cause = cMACHINE_CHECK

/-! The service core's log (R257). -/

def State.logAt (s : State) (clu cause detail : Nat) : State :=
  s.modCluster clu (fun c => { c with log := c.log ++ [(cause, detail)] })

/-- Count an event in the log of a chiplet. -/
def State.chipLog (s : State) (die cause detail : Nat) : State :=
  s.modChip die (fun c => { c with log := c.log ++ [(cause, detail)] })

/-- Record a cause in the log of the service core of core k; a management core keeps the log of its die. -/
def State.svcLog (s : State) (k cause detail : Nat) : State :=
  if isMgmt k then s.chipLog (dieOf k) cause detail else s.logAt (cluKey k) cause detail

/-- The core whose service channel hears of core k: the service core of its cluster, or a management core itself. -/
def svcFor (k : Nat) : Nat := if isMgmt k then k else svcOf k

/-! Handler entries (R281). -/

def Handler.enable (h : Handler) : Bool := h.flags.getLsbD 0
def Handler.indirect (h : Handler) : Bool := h.flags.getLsbD 1
def Handler.super (h : Handler) : Bool := h.flags.getLsbD 2
def Handler.prio (h : Handler) : Nat := (h.flags.extractLsb' 3 2).toNat
def Handler.consume (h : Handler) : Nat := (h.flags.extractLsb' 5 2).toNat + 1
def Handler.pen (h : Handler) : Bool := h.flags.getLsbD 7
def Handler.pchan (h : Handler) : Nat := (h.flags.extractLsb' 8 5).toNat
def Handler.pcount (h : Handler) : Nat := (h.flags.extractLsb' 13 2).toNat + 1

/-! Traps. -/

/-- The supervisor of a context's traps (R254, R259, R260); a management core serves its own (log entry 14, DEDUCED). -/
def State.supervisor (s : State) (k : Nat) (c : Ctx) (cause : Nat) : Nat :=
  let svc := svcOf k
  let onCore : Nat :=
    match tfind 31 (s.core k).handlers with
    | some h => if h.enable && h.super then k else svc
    | none => svc
  if isMgmt k then k
  else if cause = cTHERMAL_TRIP || cause = cCLOCK_LOSS then s.trust.mgmtOfChip (chipOf k)
  else if isService k then s.trust.mgmtOfChip (chipOf k)
  else if isW cause || isC cause || cause = cDOUBLE_FAULT then svc
  else if c.st = .firing then (if c.super then svc else onCore)
  else if c.routeSvc then svc else onCore

/-- The logical core index a notice and an image name (R255): 16 for a service core, 0 for a management core. -/
def noticeIdx (k : Nat) : Nat := if isMgmt k then 0 else idxOf k

/-- The notice word (R255). -/
def noticeWord (k kind tseq cause n : Nat) : Word :=
  BitVec.ofNat 64 (mhartid k % 2 ^ 32 * 2 ^ 32 + kind * 2 ^ 25 + 2 ^ 24 + tseq * 2 ^ 16 + cause * 2 ^ 10 + noticeIdx k * 8 + n)

/-- The kind field of a context's notice (R255). -/
def Ctx.noticeKind (c : Ctx) : Nat := if c.prior = .firing then (if c.super then 2 else 1) else 0

/-- Append a notice to the buffer of core k and plan its sending (R255, R256). -/
def State.notice (s : State) (k n dst : Nat) (w : Word) : State :=
  (s.modCore k (fun c => { c with notices := c.notices ++ [(n, dst, w)] })).plan (.trapNoticeSend k)

/-- Withdraw the notice of a context if it has not been sent (R256). -/
def State.withdrawNotice (s : State) (k n : Nat) : State :=
  s.modCore k (fun c => { c with notices := c.notices.filter (fun e => e.1 != n) })

/-- The monitor of a core raises a notice of kind 0b11 (R255, R259, R261). -/
def State.monitorNotice (s : State) (k dst cause : Nat) : State := s.notice k 8 dst (noticeWord k 3 0 cause 0)

/-- A blocked or parked request of a context is withdrawn from wherever it waits (R251, R263). -/
def State.withdraw (s : State) (k n : Nat) : State :=
  let s := match (s.ctx k n).wait with
    | .pop ch _ => s.modCore k (fun c =>
        let q := tget Chan.empty ch c.chans
        { c with chans := tset ch { q with poppers := q.poppers.filter (· != n) } c.chans })
    | .wq q _ _ => { s with queues := tset q (let w := tget Wq.reset q s.queues
                                         { w with waiters := w.waiters.filter (· != (k, n)) }) s.queues }
    | .sem i => s.modCluster (cluKey k) (fun c =>
        let m := tget Sem.zero i c.sems
        { c with sems := tset i { m with waiters := m.waiters.filter (· != (k, n)) } c.sems })
    | .mutex i => s.modCluster (cluKey k) (fun c =>
        let m := tget Mutex.free i c.mutexes
        { c with mutexes := tset i { m with waiters := m.waiters.filter (· != (k, n)) } c.mutexes })
    | .barrier i => s.modCluster (cluKey k) (fun c =>
        let m := tget Bar.zero i c.bars
        { c with bars := tset i { m with waiters := m.waiters.filter (· != (k, n)) } c.bars })
    | .fe id => { s with fes := s.fes.filter (fun r => r.id != id) }
    | .asub q => s.modCore k (fun c => { c with sweepQ := c.sweepQ.filter (fun (x : SweepCmd) => x.hd.seq != q) })
    | _ => s
  s.modCtx k n (fun c => { c with wait := .none, cmdRead := none })

/-- The dispatcher of a chiplet looks again at its groups (R323, R324). -/
def State.pokeDispatcher (s : State) (chip : Nat) : State :=
  if s.kernels.isEmpty || s.pending.contains (.groupRelease chip) then s else s.plan (.groupRelease chip)

/-- take_trap (R251), with DOUBLE_FAULT for a context firing on q31 (R260) and the stop of the core for a cause of kind C
(R259): the context records its trap CSRs, becomes TRAPPED and queues a notice. A deferred cause is of kind D, which
neither stops the core nor goes to the fault path (R257, R259) (DEDUCED, log entry 40). -/
def State.takeTrapAs (s : State) (deferred : Bool) (k n cause : Nat) (addr info resume : Word) : State :=
  let s := s.withdraw k n
  let c := s.ctx k n
  let double := c.st = .firing && c.chan = 31
  let code := if double then cDOUBLE_FAULT else cause
  let info' := if double then BitVec.ofNat 64 cause else info
  let dst := s.supervisor k c (if deferred && !double then 0 else code)
  let seq := ((s.core k).tseq + 1) % 256
  let c' := { c with ecause := BitVec.ofNat 64 code, eaddr := addr, einfo := info', epc := resume &&& ~~~3, tseq := seq,
                     prior := c.st, st := .trapped, stmask := 0, lrRes := none, hold := [], early := [],
                     onPath := isW code && !deferred, cause := code,
                     policyDue := c.policyDue || (c.st = .strand && isCompute k && !(isW code && !deferred)) }
  let stops := isC cause && !deferred
  let s := s.modCore k (fun o =>
    { o.setCtx n c' with tseq := seq, stopped := o.stopped || stops,
                         stopCause := if stops && !o.stopped then cause else o.stopCause })
  let s := s.notice k n dst (noticeWord k c'.noticeKind seq code n)
  if c.st = .strand && isCompute k then s.pokeDispatcher (chipOf k) else s

/-- take_trap for a cause that an instruction or an event meets. -/
def State.takeTrap (s : State) (k n cause : Nat) (addr info resume : Word) : State :=
  s.takeTrapAs false k n cause addr info resume

/-- The instruction that issues traps: precise, with epc at it (R105, R251). -/
def State.trapInfo (s : State) (cause : Nat) (addr info : Word) : State :=
  s.takeTrap s.curCore s.curCtx cause addr info s.cur.pc

def State.trap (s : State) (cause : Nat) (addr : Word) : State := s.trapInfo cause addr 0

/-- Resume a context that is TRAPPED or SAVED (R270): it returns to its prior state and next fetches at epc. -/
def State.resume (s : State) (k n : Nat) : State :=
  let c := s.ctx k n
  if c.st = .trapped || c.st = .saved then
    (s.withdrawNotice k n).setCtx k n { c with st := c.prior, pc := c.epc, wait := .none, starved := 0 }
  else s

/-- Only a supervisor context executes act; a user-level one traps PRIVILEGE (R104, R105). -/
def State.supervised (s : State) (act : State → State) : State :=
  if s.cur.super then act s else s.trap cPRIVILEGE 0

/-- A blocking instruction traps HANDLER_BLOCKED in a handler before it has any effect (R260). -/
def State.notInHandler (s : State) (act : State → State) : State :=
  if s.cur.st = .firing then s.trap cHANDLER_BLOCKED 0 else act s

/-- The class of a context in the selector (R249), 0 for class 1. -/
def Ctx.issueClass (c : Ctx) : Nat :=
  if c.st = .firing then (if c.super && 27 ≤ c.chan then 0 else 4 - c.hprio) else 5

/-! Time (R30, R31). -/

def State.cycleOf (s : State) (k : Nat) : Word := (s.chip (dieOf k)).cycle
def State.timeOf (s : State) (k : Nat) : Word := (s.chip (dieOf k)).time

/-- Has a modular time span d passed since t0 (R31)? -/
def passed (now t0 d : Word) : Bool := decide (d ≤ now - t0)

/-- SLEEP's span in raw units of elvtime (R274) (DEDUCED, log entry 32). -/
def sleepSpan (d : Word) : Word := d <<< 16

end Sys2Proof.Machine
end

