-- ==== Sys2Proof/Machine/Path.lean ====
section
/-! DEFINITION. Paths between dies (R382-R384, R391, R393): the network-select table and the links a request crosses. -/

namespace Sys2Proof.Machine

/-- Where a request starts or ends: a die, and the physical column and row of a cluster site on it. -/
structure Ep where
  die : Nat
  px : Nat
  py : Nat
deriving DecidableEq, Repr

/-- The place of a core. -/
def State.epOfCore (s : State) (k : Nat) : Ep :=
  if isMgmt k then { die := dieOf k, px := 0, py := 0 }
  else
    let c := s.trust.clusterSite (chipOf k) (cluOf k)
    { die := chipOf k, px := c % 12, py := c / 12 }

/-- The place of a cluster key. -/
def State.epOfClu (s : State) (c : Nat) : Ep :=
  let p := s.trust.clusterSite (c / 132) (c % 132)
  { die := c / 132, px := p % 12, py := p / 12 }

/-- The column (in compute columns 0-31) and row at which a die joins the grid of chiplets (R10, R11, R382). -/
def State.gridOf (s : State) (die : Nat) : Nat × Nat :=
  if die < 512 then (s.trust.siteOfChip die % 32, s.trust.siteOfChip die / 32)
  else if die < 576 then (0, 0)
  else if die < 592 then (0, die - 576)
  else if die < 608 then (31, die - 592)
  else (0, 0)

/-- The logical chiplet at a place of the grid, if it is enabled. -/
def State.chipAt (s : State) (x y : Nat) : Option Nat := s.trust.chipOfSite (32 * y + x)

/-- Does module m of a compute chiplet face no die (R391)? -/
def State.notcon (s : State) (chip m : Nat) : Bool :=
  let g := s.gridOf chip
  match m / 12 with
  | 0 => if g.2 = 0 then true else (s.chipAt g.1 (g.2 - 1)).isNone
  | 1 => if g.1 = 31 then false else (s.chipAt (g.1 + 1) g.2).isNone
  | 2 => if g.2 = 15 then true else (s.chipAt g.1 (g.2 + 1)).isNone
  | _ => if g.1 = 0 then false else (s.chipAt (g.1 - 1) g.2).isNone

def State.link (s : State) (die m : Nat) : Link := tget Link.reset m (s.chip die).links
def State.modLink (s : State) (die m : Nat) (f : Link → Link) : State :=
  s.modChip die (fun c => { c with links := tset m (f (tget Link.reset m c.links)) c.links })

/-- A link carries new flits: ACTIVE or DEGRADED, and no pause is under way (R392). -/
def State.linkUp (s : State) (chip m : Nat) : Bool :=
  !s.notcon chip m && !(s.link chip m).pausing && ((s.link chip m).state = 1 || (s.link chip m).state = 2)

/-- n hops from (x, y) in direction e (0 north, 1 east, 2 south, 3 west), each crossing module 12 e + i. -/
def walk (e i : Nat) : Nat → Nat → Nat → List (Nat × Nat × Nat)
  | 0, _, _ => []
  | n + 1, x, y =>
    let x' := if e = 1 then x + 1 else if e = 3 then x - 1 else x
    let y' := if e = 2 then y + 1 else if e = 0 then y - 1 else y
    (x, y, 12 * e + i) :: walk e i n x' y'

/-- The hops of one leg on network A (XY) or B (YX) between two places of the grid (R382). -/
def legHops (b : Bool) (x1 y1 x2 y2 : Nat) (src dst : Ep) : List (Nat × Nat × Nat) :=
  let row (i y : Nat) := if x1 < x2 then walk 1 i (x2 - x1) x1 y else walk 3 i (x1 - x2) x1 y
  let col (i x : Nat) := if y1 < y2 then walk 2 i (y2 - y1) x y1 else walk 0 i (y1 - y2) x y1
  if b then col src.px x1 ++ row dst.py y2 else row src.py y1 ++ col dst.px x2

/-- The links, as (chiplet, module), of one leg; none when the leg passes a disabled site. The trust die is reached over the
west edge chiplet of row 0, die 576 (R382). -/
def State.legLinks (s : State) (b : Bool) (src dst : Ep) : Option (List (Nat × Nat)) :=
  let p := s.gridOf src.die
  let q := s.gridOf dst.die
  let crossing (e : Ep) : List (Nat × Nat × Nat) :=
    if e.die < 576 then [] else
      let g := s.gridOf e.die
      [(g.1, g.2, (if e.die < 592 || e.die = 608 then 36 else 12) + e.py)]
  let hops := if (src.die = 576 && dst.die = 608) || (src.die = 608 && dst.die = 576) then []
    else crossing src ++ legHops b p.1 p.2 q.1 q.2 src dst ++ crossing dst
  hops.foldr (fun h r => match s.chipAt h.1 h.2.1, r with
    | some c, some l => some ((c, h.2.2) :: l)
    | _, _ => none) (some [])

/-- The select entry of the source's chiplet for a die (R383). -/
def State.nsel (s : State) (src die : Nat) : Word := tget 0 die (s.chip src).nsel

/-- The links of the path that a select entry names from one place to another; none for NONE, and where a disabled site is
crossed. -/
def State.pathBy (s : State) (w : Word) (src dst : Ep) : Option (List (Nat × Nat)) :=
  if src.die = dst.die then some []
  else
    match (w.extractLsb' 0 2).toNat with
    | 0 => s.legLinks false src dst
    | 1 => s.legLinks true src dst
    | 2 =>
      let way : Ep := { die := (w.extractLsb' 4 10).toNat, px := 0, py := 0 }
      let b := w.getLsbD 2
      match s.legLinks b src way, s.legLinks (!b) way dst with
      | some l, some r => some (l ++ r)
      | _, _ => none
    | _ => none

/-- The links of the path in force. -/
def State.pathLinks (s : State) (src dst : Ep) : Option (List (Nat × Nat)) := s.pathBy (s.nsel src.die dst.die) src dst

/-! Routers (R377, R382). A router is numbered by its die and the cluster site on it; an edge chiplet has one. -/

def routerKey (die x y : Nat) : Nat := 144 * die + 12 * y + x

/-- The numbers from a to b, both with them. -/
def span (a b : Nat) : List Nat := if a ≤ b then natsFrom a (b + 1 - a) else (natsFrom b (a + 1 - b)).reverse

/-- The routers of a die from one cluster site to another, on mesh A or B. -/
def siteRoute (b : Bool) (die x1 y1 x2 y2 : Nat) : List Nat :=
  let row (y : Nat) := (span x1 x2).map (fun x => routerKey die x y)
  let col (x : Nat) := (span y1 y2).map (fun y => routerKey die x y)
  if b then col x1 ++ (row y2).tail else row y1 ++ (col x2).tail

/-- The site at which module m of a chiplet stands, and the site at which what leaves by it enters the next chiplet. -/
def exitSite (m : Nat) : Nat × Nat :=
  match m / 12 with
  | 0 => (m % 12, 0) | 1 => (11, m % 12) | 2 => (m % 12, 11) | _ => (0, m % 12)
def entrySite (m : Nat) : Nat × Nat :=
  match m / 12 with
  | 0 => (m % 12, 11) | 1 => (0, m % 12) | 2 => (m % 12, 0) | _ => (11, m % 12)

/-- The routers along a list of links from a site of the first chiplet to the destination. -/
def routersAlong (b : Bool) (dst : Ep) : Nat × Nat → List (Nat × Nat) → List Nat
  | _, [] => if dst.die < 512 then [] else [routerKey dst.die 0 0]
  | at_, [(c, m)] =>
    let e := exitSite m
    let n := entrySite m
    siteRoute b c at_.1 at_.2 e.1 e.2 ++
      (if dst.die < 512 then siteRoute b dst.die n.1 n.2 dst.px dst.py else [routerKey dst.die 0 0])
  | at_, (c, m) :: r =>
    let e := exitSite m
    siteRoute b c at_.1 at_.2 e.1 e.2 ++ routersAlong b dst (entrySite m) r

/-- The routers on the path that the select entry in force names from a cluster to a die (R377) (DEDUCED, log entry 21). -/
def State.routerPath (s : State) (clu : Nat) (dst : Ep) : List Nat :=
  let src := s.epOfClu clu
  let w := s.nsel src.die dst.die
  let leg (b : Bool) (p q : Ep) : List Nat := match s.legLinks b p q with
    | some l => routersAlong b q (p.px, p.py) l
    | none => []
  match (w.extractLsb' 0 2).toNat with
  | 0 => leg false src dst
  | 1 => leg true src dst
  | 2 =>
    let way : Ep := { die := (w.extractLsb' 4 10).toNat, px := 0, py := 0 }
    leg (w.getLsbD 2) src way ++ (leg (!w.getLsbD 2) way dst).tail
  | _ => []

/-- Can a new request go through at once: the entry is no NONE, no change of it is draining (R384), every link carries
flits (R393). -/
def State.pathOpen (s : State) (src dst : Ep) : Bool :=
  (tfind dst.die (s.chip src.die).draining).isNone &&
    (decide (src.die = dst.die) ||
      (match s.pathLinks src dst with
       | some l => l.all (fun h => s.linkUp h.1 h.2)
       | none => false))

end Sys2Proof.Machine
end

