-- ==== Sys2Proof/Machine/Operands.lean ====
section
/-! DEFINITION. Operand forms: immediates and offsets, effective addresses, designators, and the translation of an
address to the place it names (R216-R222, R357-R367). -/

namespace Sys2Proof.Machine

/-- A sign-extended immediate (R106). -/
def sx {n : Nat} (v : BitVec n) : Word := v.signExtend 64

/-- The size in bytes of a qualified access (R68). -/
def QSize.bytes : QSize → Nat
  | .b => 1 | .h => 2 | .w => 4 | .d => 8

/-- The effective address of LQ and SQ: the signed offset scaled by the size (R70). -/
def qAddr (base : Word) (off : BitVec 7) (sz : QSize) : Word := base + sx off * BitVec.ofNat 64 (QSize.bytes sz)

/-- Bits [hi:lo] of a word as a number. -/
def bits {n : Nat} (w : BitVec n) (hi lo : Nat) : Nat := w.toNat / 2 ^ lo % 2 ^ (hi + 1 - lo)

/-- A canonical virtual address (R216). -/
def canonical (va : Word) : Bool := bits va 63 56 = 0 || bits va 63 56 = 255

/-- An address in the local window (R216). -/
def inWindow (va : Word) : Bool := bits va 63 16 = 0

/-! Accesses and the faults they meet. -/

/-- The kinds of access of R360: lr and ldfe need r and w like rmw and differ in the causes they raise. -/
inductive Acc where
  | load | store | fetch | rmw | lr | ldfe
deriving DecidableEq, Repr

/-- einfo.access (R361). -/
def Acc.code : Acc → Nat
  | .load => 0 | .store => 1 | .fetch => 2 | .rmw => 3 | .lr => 3 | .ldfe => 3

/-- The cause of a missing or refused translation (R360, R361). -/
def Acc.pageCause : Acc → Nat
  | .load => cLOAD_PAGE_FAULT | .store => cSTORE_PAGE_FAULT | .fetch => cFETCH_PAGE_FAULT
  | .rmw => cSTORE_PAGE_FAULT | .lr => cLOAD_PAGE_FAULT | .ldfe => cSTORE_PAGE_FAULT

/-- The cause of an address that cannot be accessed (R216-R221, R334). -/
def Acc.accessCause : Acc → Nat
  | .load => cLOAD_ACCESS | .store => cSTORE_ACCESS | .fetch => cFETCH_ACCESS
  | .rmw => cSTORE_ACCESS | .lr => cLOAD_ACCESS | .ldfe => cLOAD_ACCESS

/-- The writes that park at a transitional page (R372): stores, AMOs, AMOQs and SC. -/
def Acc.writes : Acc → Bool
  | .store | .rmw => true
  | _ => false

/-- A fault met by an access: its cause, the address and the detail. -/
structure Flt where
  cause : Nat
  addr : Word
  info : Word
deriving DecidableEq, Repr

/-- Is this a page-class fault, which R105 puts before the access faults? -/
def Flt.pageClass (f : Flt) : Bool := isW f.cause || f.cause = cTLB_MULTIHIT || f.cause = cMIGRATE_WAIT

/-- A write through a transitional entry parks instead of trapping (R372). -/
def Flt.parks (f : Flt) : Bool := f.cause = cMIGRATE_WAIT

/-! Places. -/

/-- What a place is (R215). -/
inductive LocKind where
  | own
  | lmem (core : Nat)
  | carved
  | dram
  | peer (m : Nat)
  | mmio (off : Nat)
deriving DecidableEq, Repr

/-- The place of one byte: its key in memory (the physical address; above 2^56 a module's number plus one), its home die
and cluster, and the key identifier it is accessed under (R225). -/
structure Loc where
  kind : LocKind
  key : Nat
  die : Nat
  clu : Nat
  keyid : Nat
deriving DecidableEq, Repr

/-- The key of byte off of a core's local memory: its physical address (R218). -/
def lmemKey (k off : Nat) : Nat :=
  if isMgmt k then dieOf k * 2 ^ 46 + off else chipOf k * 2 ^ 46 + cluOf k * 2 ^ 21 + idxOf k * 2 ^ 16 + off

/-- The line of a key (R222). -/
def lineOf (key : Nat) : Nat := key / 128

/-- Is region r's DRAM chiplet kept alive by an enabled compute chiplet (R14)? -/
def State.regionAlive (s : State) (r : Nat) : Bool := (s.trust.regionChips r).length ≠ 0

/-- Why a physical address cannot be accessed. -/
inductive PaErr where
  | invalid | revoked
deriving DecidableEq, Repr

/-- The place of a physical address of this module, under a key identifier (R217-R219, R224). -/
def State.paLoc (s : State) (pa keyid : Nat) : Except PaErr Loc :=
  let die := pa / 2 ^ 46
  let low := pa % 2 ^ 40
  let space := pa / 2 ^ 40 % 64
  if die < 512 then
    if s.grade ≤ die then .error .invalid
    else if space = 0 then
      let clu := low / 2 ^ 21 % 256
      let i := low / 2 ^ 16 % 32
      if low / 2 ^ 29 = 0 && clu < 132 && i < 17 then
        .ok { kind := .lmem (coreKey die clu i), key := pa, die := die, clu := die * 132 + clu, keyid := 0 }
      else .error .invalid
    else if space = 1 then
      let clu := low / 2 ^ 20 % 256
      let c := (s.cluster (die * 132 + clu)).carve
      if low / 2 ^ 28 = 0 && clu < 132 && low % 2 ^ 20 < c.ways * 131072 then
        if c.state = 2 then .error .revoked
        else .ok { kind := .carved, key := pa, die := die, clu := die * 132 + clu, keyid := 0 }
      else .error .invalid
    else if space = 2 then .ok { kind := .mmio low, key := pa, die := die, clu := die * 132, keyid := 0 }
    else .error .invalid
  else if die < 576 then
    if pa / 2 ^ 36 % 2 ^ 10 = 0 && s.regionAlive (die - 512) then
      let h := s.trust.homeSlice (die - 512) (pa % 2 ^ 36 / 128)
      .ok { kind := .dram, key := pa, die := h / 132, clu := h, keyid := keyid }
    else .error .invalid
  else if die < 609 then
    if space = 2 then .ok { kind := .mmio low, key := pa, die := die, clu := 0, keyid := 0 } else .error .invalid
  else .error .invalid

/-- The bytes of its carve that a configured merge buffer occupies (R417): first offset and the one past it. -/
def Merge.extent (m : Merge) : Nat × Nat :=
  (128 * m.off, 128 * m.off + m.nslots * (576 + 4 * m.hd) + m.nentries * (64 + 4 * m.hd))

/-- Does a place lie in a merge buffer, which a program's access may not reach (R417)? -/
def State.inMerge (s : State) (l : Loc) : Bool :=
  let m := (s.cluster l.clu).merge
  l.kind = .carved && m.nslots ≠ 0 && decide (m.extent.1 ≤ l.key % 2 ^ 20) && decide (l.key % 2 ^ 20 < m.extent.2)

/-! Stripe sets and the load-store domain (R366, R367, R402). -/

/-- Member k of a 192-bit field held in words 1-3 of a table at index base. -/
def memberOf (t : Tbl Word) (base k : Nat) : Nat :=
  (tget 0 (base + 1) t).toNat + (tget 0 (base + 2) t).toNat * 2 ^ 64 + (tget 0 (base + 3) t).toNat * 2 ^ 128
    |> (· / 2 ^ (12 * k) % 4096)

/-- The size of stripe set n of a chiplet (R367). -/
def Chip.stripeSize (c : Chip) (n : Nat) : Nat := bits (tget 0 (4 * n) c.stripes) 3 0 + 1
def Chip.stripeValid (c : Chip) (n : Nat) : Bool := (tget 0 (4 * n) c.stripes).getLsbD 4
def Chip.stripeMember (c : Chip) (n k : Nat) : Nat := memberOf c.stripes (4 * n) k

/-- This module's number, from LNK_DOM (R402). -/
def Chip.selfModule (c : Chip) : Nat := bits (tget 0 0 c.dom) 11 0

/-- The modules of the domain; this module alone when none is declared. -/
def Chip.domain (c : Chip) : List Nat :=
  if (tget 0 0 c.dom).getLsbD 20 then (natsFrom 0 (bits (tget 0 0 c.dom) 19 16 + 1)).map (memberOf c.dom 0)
  else [c.selfModule]

/-- The stream keys: between dies of this module, and from a die to a die of module m (R385, R401). -/
def streamKey (src dst : Nat) : Nat := src * 1024 + dst
def peerDst (m die : Nat) : Nat := (m + 1) * 2 ^ 20 + die

/-- A peer is unreachable once its port stream has given up (R402). -/
def State.peerDown (s : State) (m : Nat) : Bool :=
  s.streams.any (fun e => e.2.down && e.1 / 2 ^ 20 = m + 1)

/-! The TLB (R357-R361). -/

/-- The visibility bit of a context (R357). -/
def State.visBit (s : State) (k n : Nat) : Nat :=
  if 6 ≤ n then 2 else if isCompute k then (s.ctx k n).slot % 2 else 0

/-- The number of low address bits an entry maps (R358): a STRIPE entry maps 2 MiB. -/
def TlbEntry.shift (e : TlbEntry) : Nat := if e.size = 0 then 16 else if e.size = 2 then 30 else 21

/-- Does the entry cover a virtual address? -/
def TlbEntry.covers (e : TlbEntry) (va : Word) : Bool :=
  va.toNat % 2 ^ 57 / 2 ^ e.shift = e.vpn * 2 ^ 16 / 2 ^ e.shift

/-- The physical address an entry gives, for an entry that is no stripe. -/
def TlbEntry.pa (e : TlbEntry) (va : Word) : Nat := e.frame * 4096 + va.toNat % 2 ^ e.shift

/-- Does the entry grant the access at the level (R360)? A write through t = 1 is judged by R372 (DEDUCED, log entry 30). -/
def TlbEntry.grants (e : TlbEntry) (super : Bool) (acc : Acc) : Bool :=
  (super || e.u) && (match acc with
    | .load => e.r
    | .store => e.w || e.t
    | .fetch => e.x
    | .rmw => e.r && (e.w || e.t)
    | .lr | .ldfe => e.r && e.w)

/-- The place in a stripe (R366): the member's module and the physical address in it. The members are those of the set when the entry
was written (R367). -/
def TlbEntry.stripePlace (e : TlbEntry) (va : Word) : Nat × Nat :=
  let m := e.members.length
  let i := bits va 20 12
  (e.members.getD (i % m) 0, e.frame * 4096 + (i / m) * 4096 + bits va 11 0)

/-- einfo of a page fault (R361). -/
def pageInfo (acc : Acc) (perm stripe : Bool) : Word :=
  BitVec.ofNat 64 ((if perm then 1 else 0) + acc.code * 2 + (if stripe then 32 else 0))

/-- Who translates: a core, its visibility bit, its level, and whether it is an engine (R357, R402). -/
structure Who where
  core : Nat
  bit : Nat
  super : Bool
  engine : Bool
deriving DecidableEq, Repr

/-- The context n of core k as a translator. -/
def State.who (s : State) (k n : Nat) : Who :=
  { core := k, bit := s.visBit k n, super := (s.ctx k n).super, engine := false }

def State.whoCur (s : State) : Who := s.who s.curCore s.curCtx

/-- The place of a byte of a stripe, or its fault (R220, R366, R402) (DESIGN CHOICE, log entry 19). -/
def State.stripeLoc (s : State) (w : Who) (acc : Acc) (e : TlbEntry) (va : Word) : Except Flt Loc :=
  let c := s.chip (dieOf w.core)
  let p := e.stripePlace va
  let acf : Flt := { cause := acc.accessCause, addr := va, info := 0 }
  let dieOk := decide (512 ≤ p.2 / 2 ^ 46) && decide (p.2 / 2 ^ 46 < 576) && p.2 / 2 ^ 36 % 2 ^ 10 = 0
  if !dieOk then .error acf
  else if p.1 = c.selfModule then
    match s.paLoc p.2 e.keyid with
    | .ok l => .ok l
    | .error _ => .error acf
  else if !w.engine && !c.domain.contains p.1 then .error acf
  else if s.peerDown p.1 then .error (if w.engine then acf else { acf with cause := cSTRIPE_PEER_DOWN })
  else .ok { kind := .peer p.1, key := (p.1 + 1) * 2 ^ 56 + p.2, die := peerDst p.1 (p.2 / 2 ^ 46), clu := 0, keyid := e.keyid }

/-- The entries of the core's TLB that match an address for a translator (R357), by index. -/
def State.tlbMatch (s : State) (w : Who) (va : Word) : List TlbEntry :=
  ((s.core w.core).tlb.map (·.2)).filter (fun e => e.vis.getLsbD w.bit && e.covers va)

/-- Does an entry map a space that cannot be fetched from (R359): a stripe, local memory, or MMIO registers? A fetch through it meets
an access fault, not its missing x (R373). -/
def State.unfetchable (s : State) (e : TlbEntry) (va : Word) : Bool :=
  e.size = 3 || (match s.paLoc (e.pa va) e.keyid with
    | .ok l => (match l.kind with
      | .lmem _ | .mmio _ => true
      | _ => false)
    | .error _ => false)

/-- The place of the byte at a virtual address, or the fault of the access (R105, R216, R357-R361). -/
def State.xlate (s : State) (w : Who) (acc : Acc) (va : Word) : Except Flt Loc :=
  let acf : Flt := { cause := acc.accessCause, addr := va, info := 0 }
  if !canonical va then .error acf
  else if inWindow va then
    match acc with
    | .fetch => .error acf
    | _ => .ok { kind := .own, key := lmemKey w.core va.toNat, die := dieOf w.core, clu := cluKey w.core, keyid := 0 }
  else
    match s.tlbMatch w va with
    | [] => .error { cause := acc.pageCause, addr := va, info := pageInfo acc false false }
    | [e] =>
      if !e.grants w.super acc && !(acc = .fetch && (w.super || e.u) && s.unfetchable e va) then
        .error { cause := acc.pageCause, addr := va, info := pageInfo acc true (e.size = 3) }
      else if e.t && acc.writes then .error { cause := cMIGRATE_WAIT, addr := va, info := 0 }
      else if e.size = 3 then
        (match acc with
         | .fetch => .error acf
         | _ => s.stripeLoc w acc e va)
      else
        match s.paLoc (e.pa va) e.keyid with
        | .error .revoked => .error { cause := cCARVE_REVOKED, addr := va, info := 0 }
        | .error .invalid => .error acf
        | .ok l =>
          if s.inMerge l then .error acf
          else match acc, l.kind with
          | .fetch, .lmem _ => .error acf
          | .fetch, .mmio _ => .error acf
          | _, _ => .ok l
    | _ => .error { cause := cTLB_MULTIHIT, addr := va, info := 0 }

/-- The first fault of a list of translations: page-class faults first, then the others, lowest byte first (R105). -/
def firstFlt (l : List (Except Flt Loc)) : Option Flt :=
  let fs := l.filterMap (fun r => match r with
    | .error f => some f
    | .ok _ => none)
  match fs.find? Flt.pageClass with
  | some f => some f
  | none => fs.head?

/-- The places of len bytes from a virtual address, or the first fault. -/
def State.xlateRange (s : State) (w : Who) (acc : Acc) (va : Word) (len : Nat) : Except Flt (List Loc) :=
  let rs := (natsFrom 0 len).map (fun i => s.xlate w acc (va + BitVec.ofNat 64 i))
  match firstFlt rs with
  | some f => .error f
  | none => .ok (rs.filterMap (fun r => match r with
    | .ok l => some l
    | .error _ => none))

/-! Designators (R266, R267). -/

/-- The target of a designator on the executing core k. -/
structure Target where
  core : Nat
  ctx : Nat
deriving DecidableEq, Repr

/-- The core a designator names: itself, or an index of its cluster. -/
def desigCore (k : Nat) (d : Word) : Nat := if d.getLsbD 8 then k else k / 17 * 17 + bits d 7 3

/-- Is the core out of service for a designator: quarantined, or its index PROXIED (R267 step 4)? -/
def State.coreGone (s : State) (k : Nat) : Bool :=
  (tget .bound (idxOf k) (s.cluster (cluKey k)).binds = .proxied && !isMgmt k) || (s.ctx k 0).st = .quarantined

/-- Steps 1-4 of R267: the target, or the cause and eaddr of the trap. A management core names itself by index 0 (DESIGN CHOICE, log
entry 93); eaddr of step 4 is the designator, as in step 2 (DESIGN CHOICE, log entry 94). -/
def State.designate (s : State) (d : Word) : Except (Nat × Word) Target :=
  let k := s.curCore
  let self := d.getLsbD 8
  if !s.cur.super then .error (cPRIVILEGE, 0)
  else if !self && 16 < bits d 7 3 then .error (cDEAD_DESTINATION, d)
  else if !self && isCompute k && bits d 7 3 ≠ idxOf k then .error (cPRIVILEGE, 0)
  else if !self && isMgmt k && bits d 7 3 ≠ 0 then .error (cDEAD_DESTINATION, d)
  else
    let t := if isMgmt k then k else desigCore k d
    if s.coreGone t then .error (cDEAD_DESTINATION, d)
    else .ok { core := t, ctx := bits d 2 0 }

/-- Step 6 of R267 as far as tseq goes. -/
def State.chkOk (s : State) (d : Word) (t : Target) : Bool :=
  !d.getLsbD 24 || (s.ctx t.core t.ctx).tseq = bits d 23 16

/-! Eligibility (R248). -/

/-- The state of a die lets its cores execute (R426, R434): compute cores while it is ACTIVE or DEGRADED at a clocked
point, service and management cores from the release of reset on. -/
def State.dieRuns (s : State) (k : Nat) : Bool :=
  let d := s.die (dieOf k)
  if isCompute k then (d.state = .active || d.state = .degraded) && decide (d.op < 4)
  else match d.state with
    | .measured | .configured | .selfTest | .joined | .active | .degraded | .gated => true
    | _ => false

/-- The core executes: its die runs, it is bound, and no cause of kind C has stopped it (R27, R259). -/
def State.coreRuns (s : State) (k : Nat) : Bool := s.dieRuns k && !(s.core k).stopped && !s.coreGone k

/-- Has a strand of the slot given the core away by GYIELD (R329)? -/
def State.groupYields (s : State) (k slot : Nat) : Bool :=
  (tfind slot (s.core k).gives).isSome

/-- Is the context eligible for issue (R248, R329)? -/
def State.eligible (s : State) (k n : Nat) : Bool :=
  let c := s.ctx k n
  s.coreRuns k && (c.st = .strand || c.st = .firing) && c.wait = .none && !(c.st = .strand && s.groupYields k c.slot)

end Sys2Proof.Machine
end

