-- ==== Sys2Proof/Machine/Pending.lean ====
section
/-! DEFINITION. Pending errors of copy, matrix and transport (R175, R196, R242, R253): where they are due and how the
first recorded one is delivered. -/

namespace Sys2Proof.Machine

/-- The kinds of pending error an instruction delivers (R253). -/
inductive PendKind where
  | copy | matrix | store
deriving DecidableEq, Repr

/-- The executing strand's group holds the matrix state (R162). -/
def State.holdsMatrix (s : State) : Bool :=
  isCompute s.curCore && s.cur.st = .strand && s.here.mat.holder = some s.cur.slot

/-- The pending error of one kind: that of the context, or of its group's matrix state. -/
def State.pend (s : State) : PendKind → Option PendErr
  | .copy => s.cur.copyErr
  | .matrix => if s.holdsMatrix then s.here.mat.err else none
  | .store => s.cur.xportErr

/-- Delivery clears the error. -/
def State.clearPend (s : State) : PendKind → State
  | .copy => s.modCur (fun c => { c with copyErr := none })
  | .matrix => s.modHere (fun c => { c with mat := { c.mat with err := none } })
  | .store => s.modCur (fun c => { c with xportErr := none })

/-- The due error recorded first (R253). -/
def State.firstPend (s : State) (ks : List PendKind) : Option (PendKind × PendErr) :=
  (ks.filterMap (fun k => (s.pend k).map (fun e => (k, e)))).foldl (fun b e => match b with
    | none => some e
    | some a => if e.2.stamp < a.2.stamp then some e else some a) none

/-- Deliver the first pending error that is due, or go on (R253). -/
def State.orPending (s : State) (ks : List PendKind) (act : State → State) : State :=
  match s.firstPend ks with
  | some (k, e) => (s.clearPend k).takeTrapAs true s.curCore s.curCtx e.cause e.eaddr e.einfo s.cur.pc
  | none => act s

/-- A pending transport error that is due at the context's next instruction: that of a refused message, whose einfo is
never zero (R253, R291). -/
def Ctx.dueNow (c : Ctx) : Option PendErr :=
  match c.xportErr with
  | some e => if e.einfo = 0 then none else some e
  | none => none

/-- A unit's step for pending errors at an ISSUE: its own kinds, and a transport error due at any instruction (R253). -/
def State.orUnitPending (s : State) (ks : List PendKind) (act : State → State) : State :=
  s.orPending (if s.cur.dueNow.isSome then ks ++ [.store] else ks) act

/-- Record a pending copy error of a context; while one is pending a further one is counted in the service core's log
(R196). -/
def State.recordCopyErr (s : State) (k n : Nat) (cause : Nat) (addr info : Word) : State :=
  match (s.ctx k n).copyErr with
  | some _ => s.svcLog k cause 0
  | none =>
    (s.modCtx k n (fun c => { c with copyErr := some { cause := cause, eaddr := addr, einfo := info, stamp := s.clock } })).tick

/-- Record a pending matrix error in the matrix state of core k (R175). -/
def State.recordMatErr (s : State) (k : Nat) (cause : Nat) (addr info : Word) : State :=
  match (s.core k).mat.err with
  | some _ => s.svcLog k cause 0
  | none =>
    (s.modCore k (fun c => { c with mat := { c.mat with
      err := some { cause := cause, eaddr := addr, einfo := info, stamp := s.clock } } })).tick

/-- The holder of a matrix state whose group has ended by CKILL and whose commands have still to retire (R162). -/
def endedHolder : Nat := 2

/-- A matrix state that waits only for its commands is freed once they have retired and are delivered (R162). -/
def State.settleMatrix (s : State) (k : Nat) : State :=
  let m := (s.core k).mat
  if m.holder = some endedHolder && m.queue.isEmpty && m.undelivered = 0 then
    (s.modCore k (fun c => { c with mat := Matrix.free })).wakeUnits k
  else s

/-- einfo of a pending error of a command: opcode, sequence number, accumulator (R175, R196). -/
def cmdInfo (opcode seq acc : Nat) : Word := BitVec.ofNat 64 (opcode + seq % 65536 * 2 ^ 8 + acc * 2 ^ 24)

end Sys2Proof.Machine
end

