-- ==== Sys2Proof/Machine/Memory.lean ====
section
/-! DEFINITION. Memory (chapter 08): performing reads and writes at their homes, what a write does to monitors,
reservations and the storing core's L1, requests that travel on their own (R228-R229, R385), acquires and releases. -/

namespace Sys2Proof.Machine

/-! Contents. -/

/-- A key identifier with its epoch, as one number (R225, R380). -/
def State.keyNow (s : State) (keyid : Nat) : Nat := keyid + 64 * tget 0 keyid s.keyEpochs

/-- The identifier and epoch a line was last written under. -/
def State.keyOf (s : State) (line : Nat) : Nat :=
  let p := tget (0, 0) line s.lineKeys
  p.1 + 64 * p.2

/-- Is the place stored encrypted (R225)? -/
def Loc.encrypted (l : Loc) : Bool :=
  match l.kind with
  | .dram => true
  | .peer _ => true
  | _ => false

/-- The byte read at a place: under another key than it was written under, its value is free (R225, log entry 10, DESIGN CHOICE). -/
def State.byteAt (s : State) (l : Loc) : Byte :=
  if l.encrypted && s.keyOf (lineOf l.key) ≠ s.keyNow l.keyid then
    Config.otherKeyByte l.key (s.keyOf (lineOf l.key)) (s.keyNow l.keyid)
  else Memory.byte l.key s.mem

/-- Does the L1 hold lines of the home (R226)? -/
def Loc.cacheable (l : Loc) : Bool :=
  match l.kind with
  | .carved | .dram | .peer _ => true
  | _ => false

/-- The data error that reading a byte meets (R105): parity of local memory, an uncorrectable L2 line, poison. -/
def State.dataError (s : State) (l : Loc) : Option Nat :=
  match l.kind with
  | .own => if s.badParity.contains l.key then some cLOCAL_PARITY else none
  | .lmem _ => if s.badParity.contains l.key then some cLOCAL_PARITY else none
  | .mmio _ => none
  | _ =>
    if s.badLines.contains (lineOf l.key) then some cL2_UNCORRECTABLE
    else if (tfind (lineOf l.key) s.poison).isSome then some cPOISON_CONSUMED
    else none

/-- The first data error of a range whose first byte lies at va. -/
def State.firstDataError (s : State) (va : Word) : List Loc → Option Flt
  | [] => none
  | l :: r =>
    match s.dataError l with
    | some c => some { cause := c, addr := va, info := 0 }
    | none => s.firstDataError (va + 1) r

/-- A line is taken under a new key: bytes not written are left with what the old contents read as under it (R225). -/
def State.rekey (s : State) (l : Loc) : State :=
  let line := lineOf l.key
  let now := s.keyNow l.keyid
  if !l.encrypted || s.keyOf line = now then s
  else
    let bytes := (natsFrom (128 * line) 128).map (fun a => Config.otherKeyByte a (s.keyOf line) now)
    { s with mem := Memory.setBytes (128 * line) bytes s.mem,
             lineKeys := tset line (l.keyid, tget 0 l.keyid s.keyEpochs) s.lineKeys }

/-- Store one byte at its home: parity is renewed (R216), poison shrinks by the byte (R223) (DEDUCED, log entry 31). -/
def State.putByte (s : State) (l : Loc) (v : Byte) : State :=
  let s := s.rekey l
  let line := lineOf l.key
  let s := { s with mem := Memory.setByte l.key v s.mem }
  match l.kind with
  | .own | .lmem _ => if s.badParity.contains l.key then { s with badParity := s.badParity.filter (· != l.key) } else s
  | _ =>
    match tfind line s.poison with
    | none => s
    | some m =>
      let b := 2 ^ (l.key % 128)
      let m' := if m / b % 2 = 1 then m - b else m
      { s with poison := if m' = 0 then tdel line s.poison else tset line m' s.poison }

/-- A write has reached a line's home (R110, R340): other contexts lose their reservations on the line, and monitors on
it set their event flags. The writer is context n of core k; n = 8 is an engine. -/
def State.touchLine (s : State) (k n clu line : Nat) : State :=
  let s := { s with cores := s.cores.map (fun (e : Nat × Core) => (e.1, if e.2.ctxs.any (fun x => x.2.lrRes = some line)
      then { e.2 with ctxs := e.2.ctxs.map (fun (x : Nat × Ctx) =>
        (x.1, if x.2.lrRes = some line && !(e.1 = k && x.1 = n) then { x.2 with lrRes := none } else x.2)) }
      else e.2)) }
  let regs := (s.cluster clu).monitors.filter (fun m => m.1 = line)
  if regs.isEmpty then s
  else
    let s := s.modCluster clu (fun c => { c with monitors := c.monitors.filter (fun m => m.1 != line) })
    regs.foldl (fun s m => s.modCtx m.2.1 m.2.2 (fun c => { c with event := true })) s

/-- The storing core's L1 loses the line (R107). -/
def State.dropL1 (s : State) (k line : Nat) : State :=
  if (s.core k).l1d.any (fun e => e.line = line) then
    s.modCore k (fun c => { c with l1d := c.l1d.filter (fun e => e.line != line) })
  else s

/-- The loads that a context has performed early on bytes at some keys are over (R234 cases 5 and 9). -/
def State.dropEarly (s : State) (k n : Nat) (keys : List Nat) : State :=
  if (s.ctx k n).early.isEmpty then s
  else s.modCtx k n (fun c => { c with early := c.early.filter (fun e => !keys.contains e.key) })

/-- Loads performed early remember the writes performed since: the lines, and the core that wrote (R234). -/
def State.noteWrite (s : State) (k : Nat) (lines : List Nat) : State :=
  if s.cores.any (fun e => e.2.ctxs.any (fun x => !x.2.early.isEmpty)) then
    { s with cores := s.cores.map (fun (e : Nat × Core) => (e.1, { e.2 with ctxs := e.2.ctxs.map (fun (x : Nat × Ctx) =>
        (x.1, { x.2 with early := x.2.early.map (fun y => { y with since := y.since ++ lines.map (fun l => (l, k)) }) })) })) }
  else s

/-- Waiting WFEs of a core whose flag has been set complete (R341): rd := 0, flags cleared. -/
def State.serveEvents (s : State) (k n : Nat) : State :=
  let c := s.ctx k n
  match c.wait with
  | .wfe rd _ _ =>
    if c.event then s.setCtx k n { c.wx rd 0 with pc := c.pc + 4, wait := .none, event := false, armed := false } else s
  | _ => s

/-- Contexts that wait in WFE with their event flag set. -/
def State.serveAllEvents (s : State) : State :=
  s.cores.foldl (fun s e => (e.2.ctxs.filter (fun x => x.2.event && (match x.2.wait with
    | .wfe _ _ _ => true
    | _ => false))).foldl (fun s x => s.serveEvents e.1 x.1) s) s

/-- Registrations on some lines end and set the event flag: the page goes away, or its home moves (R340). -/
def State.endMonitors (s : State) (lines : Nat → Bool) : State :=
  let hit := s.clusters.flatMap (fun e => e.2.monitors.filter (fun m => lines m.1))
  if hit.isEmpty then s
  else
    let s := { s with clusters := s.clusters.map (fun (e : Nat × Cluster) =>
      (e.1, { e.2 with monitors := e.2.monitors.filter (fun m => !lines m.1) })) }
    (hit.foldl (fun s m => s.modCtx m.2.1 m.2.2 (fun c => { c with event := true })) s).serveAllEvents

/-- Perform a store at its home: all bytes, then what the write of each line brings about. The L1 of the core loses the
lines of its own stores, not those that an engine writes for it (R107, R197). -/
def State.perform (s : State) (k n : Nat) (bs : List (Loc × Byte)) : State :=
  let s := bs.foldl (fun s b => s.putByte b.1 b.2) s
  let lines := sortNats (bs.map (fun b => lineOf b.1.key))
  let s := lines.foldl (fun s line =>
    let clu := ((bs.find? (fun b => lineOf b.1.key = line)).map (fun b => b.1.clu)).getD 0
    let s := s.touchLine k n clu line
    if n ≠ 8 then s.dropL1 k line else s) s
  ((s.noteWrite k lines).dropEarly k n (bs.map (fun b => b.1.key))).serveAllEvents

/-! Requests that travel (R228, R229, R385). -/

/-- Where the home of a place lies. -/
def State.epOf (s : State) (l : Loc) : Ep :=
  match l.kind with
  | .peer _ => { die := l.die, px := 0, py := 0 }
  | _ => s.epOfClu l.clu

/-- The port a request for a peer module leaves through (R400, log entry 17, DESIGN CHOICE): edge chiplet and port. -/
def portFor (m srcDie : Nat) : Nat := Config.portHash m srcDie % 64

/-- The edge die of a port. -/
def portDie (p : Nat) : Nat := 576 + p / 2

/-- Is the way to a place open at once for core k (R383, R393, R401)? -/
def State.wayOpen (s : State) (k : Nat) (l : Loc) : Bool :=
  let src := s.epOfCore k
  match l.kind with
  | .own => true
  | .peer m =>
    let edge := portDie (portFor m src.die)
    s.pathOpen src { die := edge, px := 0, py := 0 } && (tget 0 m (s.chip edge).peers).getLsbD 48
  | _ => s.pathOpen src (s.epOf l)

/-- Requests of the core to the die, or of its die's stream to it, that have not been performed. -/
def State.ahead (s : State) (k die : Nat) : Bool :=
  s.reqs.any (fun r => r.dst = die && (r.core = k || r.src = dieOf k) && r.phase ≠ .done)

/-- May an access to a place be performed at once? -/
def State.atOnce (s : State) (k : Nat) (l : Loc) : Bool :=
  match l.kind with
  | .own => true
  | _ => !s.mode.slow && s.wayOpen k l && !s.ahead k l.die

def State.stream (s : State) (src dst : Nat) : Stream := tget Stream.closed (streamKey src dst) s.streams
def State.setStream (s : State) (src dst : Nat) (t : Stream) : State :=
  { s with streams := tset (streamKey src dst) t s.streams }

def State.modReq (s : State) (id : Nat) (f : Req → Req) : State :=
  { s with reqs := updFirst (fun r => r.id = id) f s.reqs }

def State.req? (s : State) (id : Nat) : Option Req := s.reqs.find? (fun r => r.id = id)

/-- The keys a request names, the first of them at its home. -/
def ReqKind.keys : ReqKind → List Nat
  | .store bs _ => bs.map (·.1)
  | .load keys _ _ _ => keys
  | .sc bs _ => bs.map (·.1)
  | .amo _ a dbl _ _ _ => natsFrom a (if dbl then 8 else 4)
  | .msg _ _ | .drain _ | .token _ => []

/-- Does the request write at its home? -/
def ReqKind.writes : ReqKind → Bool
  | .store _ _ | .sc _ _ | .amo _ _ _ _ _ _ => true
  | .load _ _ _ _ | .msg _ _ | .drain _ | .token _ => false

/-- Accesses of context n of core k to some bytes, or a release of it, are later than its stores to them, which are not repeated any
more (R228). -/
def State.noRepeat (s : State) (k n : Nat) (keys : Option (List Nat)) : State :=
  let hit (r : Req) : Bool := r.again && r.core = k && r.ctx = n && (match keys with
    | some ks => r.kind.keys.any (fun a => ks.contains a)
    | none => true)
  if s.reqs.any hit then { s with reqs := s.reqs.map (fun (r : Req) => if hit r then { r with again := false } else r) } else s

/-- A context accesses bytes at their home: loads of them performed early and repeats of stores to them are over. -/
def State.ownAccess (s : State) (k n : Nat) (keys : List Nat) : State := (s.dropEarly k n keys).noRepeat k n (some keys)

/-- A store that has not been performed. -/
def Req.live (r : Req) : Bool :=
  r.phase ≠ .done && (match r.kind with
    | .store _ _ => true
    | _ => false)

/-- The stores in flight that context n of core k has made or has acquired at .core (R232). -/
def State.liveOf (s : State) (k n : Nat) : List Nat :=
  let seen := (s.ctx k n).seen
  (s.reqs.filter (fun r => r.live && r.core = k && (r.ctx = n || seen.contains r.id))).map (·.id)

/-- Is a store in flight that the context has acquired at .core, so that a wider release of it must wait (R232)? -/
def State.owesSeen (s : State) (k n : Nat) : Bool :=
  let seen := (s.ctx k n).seen
  s.reqs.any (fun r => r.live && seen.contains r.id)

/-- A release of context n of core k, for the observers of its core: what it covers is kept for their acquires (R230, R232). -/
def State.letOut (s : State) (k n : Nat) : State :=
  let ids := s.liveOf k n
  let s := s.noRepeat k n none
  if ids.isEmpty then s
  else s.modCtx k n (fun c => { c with out := ids ++ c.out.filter (fun i => !ids.contains i && s.reqs.any (fun r => r.id = i && r.live)) })

/-- The windows of R385: 32 unacknowledged requests in a stream, 1,024 from a die. -/
def State.windowRoom (s : State) (src dst : Nat) : Bool :=
  (s.stream src dst).unacked.length < 32 &&
    (s.streams.foldl (fun n e => if e.1 / 1024 % 1024 = src then n + e.2.unacked.length else n) 0) < 1024

/-- May a request leave for a die: no change of the path drains (R384)? -/
def State.maySend (s : State) (src dst : Nat) : Bool :=
  if dst < 1024 then (tfind dst (s.chip src).draining).isNone else true

/-- The select entry in force from a die to a die; a request for a peer module goes to the edge die of its port (R400). -/
def State.nselTo (s : State) (src dst : Nat) : Word :=
  s.nsel src (if dst < 1024 then dst else portDie (portFor (dst / 2 ^ 20 - 1) src))

/-- The entry is NONE, or the peer module has no valid LNK_PEER: a new request is held in its window and does not travel (R383, R401). -/
def State.heldAt (s : State) (src dst : Nat) : Bool :=
  src ≠ dst && (bits (s.nselTo src dst) 1 0 = 3 ||
    (decide (2 ^ 20 ≤ dst) && !(tget 0 (dst / 2 ^ 20 - 1) (s.chip (portDie (portFor (dst / 2 ^ 20 - 1) src))).peers).getLsbD 48))

/-- A request at the egress leaves when the windows and the path allow (R385): it takes the next sequence number of its
stream, the first of a closed stream with the open bit set (DEDUCED, log entry 71). -/
def State.depart (s : State) (id : Nat) : State :=
  match s.req? id with
  | none => s
  | some r =>
    if r.phase ≠ .egress then s
    else if r.src = r.dst then
      if s.maySend r.src r.dst then (s.modReq id (fun r => { r with phase := .home })).plan (.memoryRequestAtHome id) else s
    else if s.windowRoom r.src r.dst && s.maySend r.src r.dst &&
        !(s.reqs.any (fun q => q.src = r.src && q.dst = r.dst && q.phase = .egress && q.id < id)) then
      let t := s.stream r.src r.dst
      let held := s.heldAt r.src r.dst
      let s := s.setStream r.src r.dst { t with opened := true, next := (t.next + 1) % 65536, unacked := t.unacked ++ [t.next] }
      let s := s.modReq id (fun q => { q with
        phase := .transit, seq := t.next, openBit := !t.opened, lost := held, path := s.nselTo r.src r.dst,
        sentAt := (s.chip r.src).time })
      if held then s else s.plan (.e2eRequestArrival r.src r.dst t.next)
    else s

/-- Is a request under way inside a chiplet (R384)? -/
def State.inDie (s : State) (die : Nat) : Bool :=
  s.reqs.any (fun r => r.src = die && r.dst = die && r.phase ≠ .done && r.phase ≠ .egress)

/-- The requests of a core that wait at their homes are looked at again. -/
def State.nudge (s : State) (k : Nat) : State :=
  s.plans ((s.reqs.filter (fun r => r.core = k && r.phase = .home && !s.pending.contains (.memoryRequestAtHome r.id))).map
    (fun r => .memoryRequestAtHome r.id))

/-- Every request still at an egress tries to leave, oldest first. -/
def State.departAll (s : State) : State := (s.reqs.map (·.id)).foldl (fun s id => s.depart id) s

/-- A request as it is made. -/
def Req.fresh (id k n keyid src dst : Nat) (va : Word) (kind : ReqKind) : Req :=
  { id := id, core := k, ctx := n, keyid := keyid, kind := kind, src := src, dst := dst, seq := 0,
    phase := .egress, va := va, reply := 0, openBit := false, lost := false, acq := none, path := 0, sentAt := 0,
    again := false, cmd := none, group := none }

/-- A new request takes its place behind the others and leaves its die when it may. -/
def State.sendReq (s : State) (r : Req) : State := ({ s with reqs := s.reqs ++ [r] }.tick).depart r.id

/-- A new request of context n of core k for an access at va. -/
def State.launchReq (s : State) (k n keyid dst : Nat) (va : Word) (kind : ReqKind) : State :=
  s.sendReq (Req.fresh s.clock k n keyid (dieOf k) dst va kind)

/-! Reading and writing ranges. -/

/-- The byte at a place under the stores in flight that an observer sees (R228, R229, R190). -/
def State.seenBy (s : State) (sees : Req → Bool) (l : Loc) : Byte :=
  let mine := s.reqs.filterMap (fun r =>
    if r.phase ≠ .done && sees r then
      (match r.kind with
       | .store bs _ => (bs.find? (fun b => b.1 = l.key)).map (·.2)
       | _ => none)
    else none)
  match mine.reverse.head? with
  | some v => v
  | none => s.byteAt l

/-- The byte a context sees: its own stores in flight, and those it has acquired at .core, lie over the contents of memory
(R229, R232). -/
def State.seenByte (s : State) (k n : Nat) (l : Loc) : Byte :=
  s.seenBy (fun r => r.core = k && (r.ctx = n || (s.ctx k n).seen.contains r.id)) l

/-- A load performed early: the byte that an entry of the context holds (R228). -/
def State.earlyByte (s : State) (k n : Nat) (base : Option Reg) (key : Nat) : Option Byte :=
  ((s.ctx k n).early.find? (fun e => e.base = base && e.key = key)).map (·.byte)

/-- The fault of a range that holds a byte of an MMIO register, which only scalar accesses reach (R221). -/
def mmioFlt (acc : Acc) (va : Word) (ls : List Loc) : Option Flt :=
  match ls.findIdx? (fun l => match l.kind with
    | .mmio _ => true
    | _ => false) with
  | some i => some { cause := acc.accessCause, addr := va + BitVec.ofNat 64 i, info := 0 }
  | none => none

/-- The places of a range that is no MMIO register. -/
def State.spots (s : State) (w : Who) (acc : Acc) (va : Word) (len : Nat) : Except Flt (List Loc) :=
  match s.xlateRange w acc va len with
  | .error f => .error f
  | .ok ls =>
    match mmioFlt acc va ls with
    | some f => .error f
    | none => .ok ls

/-- The places of a range, data errors checked when it is read. -/
def State.places (s : State) (w : Who) (acc : Acc) (va : Word) (len : Nat) : Except Flt (List Loc) :=
  match s.spots w acc va len with
  | .error f => .error f
  | .ok ls =>
    match acc with
    | .store => .ok ls
    | _ =>
      match s.firstDataError va ls with
      | some f => .error f
      | none => .ok ls

/-- len bytes read at their homes by context n, or the fault of the read. -/
def State.readRange (s : State) (w : Who) (n : Nat) (va : Word) (len : Nat) : Except Flt (List Byte) :=
  match s.places w .load va len with
  | .error f => .error f
  | .ok ls => .ok (ls.map (s.seenByte w.core n))

/-- Bytes grouped by the home they are performed at, in order. -/
def groupHomes : List (Loc × Byte) → List (List (Loc × Byte))
  | [] => []
  | b :: r =>
    match groupHomes r with
    | [] => [[b]]
    | g :: gs =>
      match g with
      | c :: _ => if c.1.die = b.1.die && c.1.clu = b.1.clu then (b :: g) :: gs else [b] :: g :: gs
      | [] => [b] :: gs

/-- Store bytes at their places for context n of core k, or for a command of its core: at once where the way is open, otherwise
as requests that the context has still to see acknowledged (R238), one for each home, or for each byte when they are split (R228). -/
def State.storeFrom (s : State) (k n : Nat) (cmd : Option (Nat × Nat × Nat)) (va : Word) (bs : List (Loc × Byte)) : State :=
  (if s.mode.split then bs.map (fun b => [b]) else groupHomes bs).foldl (fun s g =>
    match g with
    | [] => s
    | b :: _ =>
      let s := if n < 8 then s.ownAccess k n (g.map (fun b => b.1.key)) else s
      if s.atOnce k b.1 then s.perform k n g
      else
        let s := if n < 8 then g.foldl (fun s b => s.dropL1 k (lineOf b.1.key)) s else s
        let s := s.sendReq { Req.fresh s.clock k n b.1.keyid (dieOf k) b.1.die va (.store (g.map (fun b => (b.1.key, b.2))) false)
          with again := decide (n < 8), cmd := cmd }
        if n < 8 then s.modCtx k n (fun c => { c with unacked := c.unacked + 1 }) else s) s

/-- Store bytes of a context. -/
def State.storeLocs (s : State) (k n : Nat) (va : Word) (bs : List (Loc × Byte)) : State := s.storeFrom k n none va bs

/-- Store bytes at a virtual address, or the fault. -/
def State.writeRange (s : State) (w : Who) (n : Nat) (va : Word) (bs : List Byte) : Except Flt State :=
  match s.places w .store va bs.length with
  | .error f => .error f
  | .ok ls => .ok (s.storeLocs w.core n va (ls.zip bs))

/-- The place of a key as its home sees it: used when a travelling request arrives. -/
def State.locOfKey (s : State) (key keyid : Nat) : Loc :=
  if 2 ^ 56 ≤ key then { kind := .peer (key / 2 ^ 56 - 1), key := key, die := 0, clu := 0, keyid := keyid }
  else
    match s.paLoc key keyid with
    | .ok l => l
    | .error _ => { kind := .own, key := key, die := key / 2 ^ 46, clu := 0, keyid := keyid }

/-! Ordering (R230-R235). -/

/-- A scope at which an acquire invalidates the L1 view and a release waits for acknowledgements (R235, R238). -/
def scopeWide : Scope → Bool
  | .core => false
  | _ => true

/-- The scope's instance that contains core k holds core j as well (R230); a core here stands for its contexts and units, and the
modules of the domain and their hosts lie outside every scope but .sys. -/
def inScope : Scope → Nat → Nat → Bool
  | .core, k, j => k = j
  | .clu, k, j => k = j || (!isMgmt k && !isMgmt j && cluKey k = cluKey j)
  | .chp, k, j => k = j || (!isMgmt k && !isMgmt j && chipOf k = chipOf j)
  | .mod, _, j => j < outsideCore
  | .sys, _, _ => true

/-- An acquire at a scope leaves a load performed early as it is when no core of the scope has since written what the acquire
reads, or for a fence anything (R232, R234 cases 1 and 3). -/
def Early.outlives (k : Nat) (sc : Scope) (lines : Option (List Nat)) (e : Early) : Bool :=
  e.since.all (fun w => !(inScope sc k w.2 && (match lines with
    | some ls => ls.contains w.1
    | none => true)))

/-- An acquire by a read of some lines, or by a fence: the context's L1 view is dropped at .clu and wider (R235), the stores in flight
that releases of the core's contexts cover are seen (R232), and loads performed early that it orders are over (R234). -/
def State.acquireFrom (s : State) (k n : Nat) (sc : Scope) (lines : Option (List Nat)) : State :=
  let s := if scopeWide sc && !(s.core k).l1d.isEmpty then
      s.modCore k (fun c => { c with l1d := c.l1d.map (fun e => { e with views := e.views &&& ~~~(1#8 <<< n) }) })
    else s
  let outs := (s.core k).ctxs.flatMap (fun e => e.2.out)
  let got := (s.reqs.filter (fun r => r.live && outs.contains r.id && r.ctx ≠ n)).map (·.id)
  let s := if got.isEmpty then s
    else s.modCtx k n (fun c => { c with seen := got ++ c.seen.filter (fun i => !got.contains i) })
  if (s.ctx k n).early.isEmpty then s
  else s.modCtx k n (fun c => { c with early := c.early.filter (Early.outlives k sc lines) })

def State.acquireBy (s : State) (k n : Nat) (sc : Scope) : State := s.acquireFrom k n sc none

def State.acquire (s : State) (sc : Scope) : State := s.acquireBy s.curCore s.curCtx sc

/-- The scope that a header's code names (R81). -/
def scopeOf : Nat → Scope
  | 0 => .core | 1 => .clu | 2 => .chp | 3 => .mod
  | _ => .sys

/-- Stands among the lines that come with a word for everything, at a scope: the word of a barrier (R354). -/
def allLines (code : Nat) : Nat := 2 ^ 64 + code

/-- An acquire of context n that covers certain lines only (R231, R235), or everything at a scope (R354). -/
def State.acquireLines (s : State) (k n : Nat) (lines : List Nat) : State :=
  match lines.find? (fun l => decide (2 ^ 64 ≤ l)) with
  | some l => s.acquireBy k n (scopeOf (l - 2 ^ 64))
  | none =>
  let s := if (s.core k).l1d.any (fun e => lines.contains e.line) then
      s.modCore k (fun c => { c with l1d := c.l1d.map (fun e =>
        if lines.contains e.line then { e with views := e.views &&& ~~~(1#8 <<< n) } else e) })
    else s
  if (s.ctx k n).early.any (fun e => lines.contains (lineOf e.key)) then
    s.modCtx k n (fun c => { c with early := c.early.filter (fun e => !lines.contains (lineOf e.key)) })
  else s

/-- Has a release of the executing context wider than .core to wait (R232, R238)? -/
def State.owes (s : State) : Bool := s.cur.unacked ≠ 0 || s.owesSeen s.curCore s.curCtx

/-- The executing context waits for the acknowledgement of every earlier store, and meets the error of one whose resends
were exhausted (R238, R242). -/
def State.awaitAcks (s : State) (act : State → State) : State :=
  s.orPending [.store] (fun s => if s.owes then s.block .acks else act s)

/-- A release of the executing context: wider than .core it waits for the acknowledgement of every earlier store (R238), at .core
the core's contexts that acquire see them in flight (R230, R232). -/
def State.release (s : State) (sc : Scope) (act : State → State) : State :=
  if scopeWide sc then s.awaitAcks act else act (s.letOut s.curCore s.curCtx)

/-! Watchpoints (R445). -/

/-- Does a watchpoint of the core match an access to the doubleword of an address: bit 0 fetch, 1 store, 2 load? (DEDUCED, log entry 67) -/
def State.watchHit (s : State) (k bit : Nat) (va : Word) : Bool :=
  (s.core k).watch.any (fun e => e.2.getLsbD bit && bits e.2 56 3 = bits va 56 3)

/-- The executing context traps WATCHPOINT before an access to bytes at the addresses that one of the bits matches, with
eaddr at the first such byte; otherwise it goes on. -/
def State.watched (s : State) (bs : List Nat) (as : List Word) (act : State → State) : State :=
  if s.here.watch.isEmpty then act s
  else
    match as.find? (fun a => bs.any (fun b => s.watchHit s.curCore b a)) with
    | some a => s.trap cWATCHPOINT a
    | none => act s

def watchLoad : Nat := 2
def watchStore : Nat := 1

/-- len addresses from va. -/
def addrsFrom (va : Word) (len : Nat) : List Word := (natsFrom 0 len).map (fun i => va + BitVec.ofNat 64 i)

/-! Traps of accesses. -/

/-- The executing context takes the fault of its access: a trap, or MIGRATE_WAIT (R361, R372). -/
def State.fault (s : State) (f : Flt) : State :=
  if f.parks then (s.svcLog s.curCore cMIGRATE_WAIT f.addr.toNat).block .migrate else s.trapInfo f.cause f.addr f.info

/-- Go on with the result of an access, or take its fault. -/
def State.andThen {α : Type} (s : State) (r : Except Flt α) (act : α → State) : State :=
  match r with
  | .ok a => act a
  | .error f => s.fault f

/-- Can every place be reached at once? An access whose way is closed stays where it is until it opens (R393). -/
def State.waysOpen (s : State) (k : Nat) (ls : List Loc) : Bool := ls.all (s.wayOpen k)

/-- Store bytes of context n of core k so that they are home at once, if every place can be reached (R299). -/
def State.storeHome (s : State) (k n : Nat) (ls : List Loc) (bs : List Byte) : Option State :=
  if ls.all (fun l => s.wayOpen k l && (l.kind = .own || !s.ahead k l.die)) then some (s.perform k n (ls.zip bs)) else none

/-- Read len bytes as a weak load of the executing context and go on with them. -/
def State.loadThen (s : State) (va : Word) (len : Nat) (act : List Byte → State) : State :=
  s.watched [watchLoad] (addrsFrom va len) (fun s => s.andThen (s.places s.whoCur .load va len) (fun ls =>
    if s.waysOpen s.curCore ls then act (ls.map (s.seenByte s.curCore s.curCtx)) else s))

end Sys2Proof.Machine
end

