-- ==== Sys2Proof/Machine/Message.lean ====
section
/-! DEFINITION. Channels, handler firings and messages (chapter 10, R276-R294, R469; R27-R28): what the message and
channel instructions and the events of the replay window share. -/

namespace Sys2Proof.Machine

/-! Channels (R276-R278). -/

def Core.chan (c : Core) (n : Nat) : Chan := tget Chan.empty n c.chans
def Core.setChan (c : Core) (n : Nat) (q : Chan) : Core := { c with chans := tset n q c.chans }
def State.chan (s : State) (k n : Nat) : Chan := (s.core k).chan n
def State.modChan (s : State) (k n : Nat) (f : Chan → Chan) : State := s.modCore k (fun c => c.setChan n (f (c.chan n)))

def Chan.held (q : Chan) : Nat := q.words.length

/-- n words leave the channel, and the lines that come with them. -/
def Chan.taken (q : Chan) (n : Nat) : Chan := { q with words := q.words.drop n, lines := q.lines.drop n }

/-- Words join the channel; a pop of each acquires some lines (R231). -/
def Chan.joined (q : Chan) (ws : List Word) (lines : List Nat) : Chan :=
  { q with words := q.words ++ ws,
           lines := if lines.isEmpty then q.lines
             else q.lines ++ (natsFrom q.lines.length (q.words.length - q.lines.length)).map (fun _ => []) ++ ws.map (fun _ => lines) }

/-- The lines that a pop of the first n words acquires. -/
def Chan.datas (q : Chan) (n : Nat) : List Nat := (q.lines.take n).flatten

/-- free(N) of R278. -/
def Chan.free (q : Chan) : Nat := 4 - q.words.length - q.prodResv - q.grantResv

/-! Firing (R284, R285). -/

/-- The handler context a firing would take: 7 if dormant, otherwise 6. -/
def Core.dormant (c : Core) : Option Nat :=
  if (c.ctx 7).st = .dormant then some 7 else if (c.ctx 6).st = .dormant then some 6 else none

/-- Does the context hold a firing of channel n: firing, or TRAPPED or SAVED in one (R285)? -/
def Ctx.fires (c : Ctx) (n : Nat) : Bool :=
  (c.st = .firing || ((c.st = .trapped || c.st = .saved) && c.prior = .firing)) && c.chan = n

/-- Does channel n of a core meet its firing condition, contexts apart? -/
def Core.qualifies (c : Core) (n : Nat) : Bool :=
  match tfind n c.handlers with
  | none => false
  | some h =>
    h.enable && !h.masked && decide (h.consume ≤ (c.chan n).held) &&
      !(c.ctx 6).fires n && !(c.ctx 7).fires n &&
      (!h.pen || decide (h.pcount ≤ (c.chan h.pchan).free))

/-- The class of a qualifying channel in the choice of R284, lower first. -/
def Core.fireClass (c : Core) (n : Nat) : Nat :=
  match tfind n c.handlers with
  | some h => if h.super && 27 ≤ n then 0 else 4 - h.prio
  | none => 5

/-- The channel that fires next (R284): by class, then round-robin after the channel that fired last. -/
def Core.nextFire (c : Core) : Option Nat :=
  match c.dormant with
  | none => none
  | some _ =>
    let order := (natsFrom 1 32).map (fun i => (c.lastFired + i) % 32)
    let ready := order.filter c.qualifies
    (natsFrom 0 6).findSome? (fun cl => ready.find? (fun n => c.fireClass n = cl))

/-- Plan the firing that is due on a core. -/
def State.considerFire (s : State) (k : Nat) : State :=
  if (s.core k).stopped then s
  else match (s.core k).nextFire with
    | some n => s.plan (.handlerFire k n)
    | none => s

/-- Contexts whose push waits on channel n try again; grants that wait are looked at; a firing may have become due. -/
def State.roomMade (s : State) (k n : Nat) : State :=
  let s := s.wakeWhere k (fun w => match w with
    | .push m => m = n
    | _ => false)
  let s := if (s.chan k n).reqs.isEmpty then s else s.plan (.creditGrant k n)
  s.considerFire k

/-- Waiting pops take words in the order in which they reached the channel (R279), and acquire the data that comes with them (R231). -/
def State.servePops (s : State) (k n : Nat) : Nat → State
  | 0 => s
  | fuel + 1 =>
    let q := s.chan k n
    match q.words, q.poppers with
    | w :: _, p :: ps =>
      let s := s.modChan k n (fun q => { q.taken 1 with poppers := ps })
      match (s.ctx k p).wait with
      | .pop _ rd => ((s.finish k p rd w).acquireLines k p (q.datas 1)).servePops k n fuel
      | _ => s.servePops k n fuel
    | _, _ => s

/-- Every context's wake flag is set; a sleeping WFI goes on (R111, R278) (DEDUCED, log entry 75). -/
def State.wakeAll (s : State) (k : Nat) : State :=
  s.modCore k (Core.mapCtxs (fun _ c => { c with wake := true, wait := if c.wait = .wfi then .none else c.wait }))

/-- Words are appended to a channel together (R278), with the lines that a pop of each acquires. Words that waiting pops take at
once leave room. -/
def State.appendWith (s : State) (k n : Nat) (ws : List Word) (lines : List Nat) : State :=
  let waits := !(s.chan k n).poppers.isEmpty
  let s := s.modChan k n (fun q => q.joined ws lines)
  let s := (s.wakeAll k).servePops k n 8
  if waits then s.roomMade k n else s.considerFire k

def State.append (s : State) (k n : Nat) (ws : List Word) : State := s.appendWith k n ws []

/-- The word at the head of a channel is taken by context c, which acquires the data that comes with it (R231). -/
def State.popWord (s : State) (k n c : Nat) : State :=
  ((s.modChan k n (fun q => q.taken 1)).acquireLines k c ((s.chan k n).datas 1)).roomMade k n

/-- The channel of SENDIPI notices (R121). -/
def ipiChan : Nat := 29

/-- A firing of channel n (R285): it acquires the data that comes with its words (R231), on q29 as R122 says (DEDUCED, log entry 69). -/
def State.fire (s : State) (k n : Nat) : State :=
  let c := s.core k
  match c.dormant, tfind n c.handlers with
  | some h, some e =>
    let ws := (c.chan n).words.take e.consume
    let lines := (c.chan n).datas e.consume
    let s := s.modChan k n (fun q => q.taken e.consume)
    let s := if e.pen then s.modChan k e.pchan (fun q => { q with prodResv := q.prodResv + e.pcount }) else s
    let x := c.ctx h
    let regs := ([5, 6, 7, 28].zip ws).foldl (fun (t : Tbl Word) p => tset p.1 p.2 t) x.x
    let pc := if e.indirect then ws.headD 0 else e.target
    let x' := { x with st := .firing, prior := .dormant, x := regs, pc := pc, vtype := 9, rndseed := 1, ecause := 0, eaddr := 0,
                       epc := 0, einfo := 0, wake := true, super := e.super, hprio := e.prio, chan := n, words := ws,
                       resvChan := e.pchan, resv := if e.pen then e.pcount else 0, stmask := 0, wait := .none,
                       gen := x.gen + 1, early := [], out := [], seen := [] }
    let s := s.modCore k (fun c => { c.setCtx h x' with lastFired := n })
    let s := if n = ipiChan then s.acquireBy k h .mod else s.acquireLines k h lines
    let s := s.roomMade k n
    if e.indirect && bits pc 1 0 ≠ 0 then s.takeTrap k h cMISALIGNED_FETCH pc 0 pc
    else if e.indirect && !canonical pc then s.takeTrap k h cFETCH_ACCESS pc 0 pc
    else s
  | _, _ => s

/-- The end of a firing (R285): the context is dormant again and its unfilled reservation is released. -/
def State.endFiring (s : State) (k h : Nat) : State :=
  let x := s.ctx k h
  let s := if x.resv = 0 then s
    else s.modChan k x.resvChan (fun q => { q with prodResv := q.prodResv - x.resv })
  let s := s.setCtx k h { x with st := .dormant, prior := .dormant, resv := 0, words := [], wait := .none, stmask := 0 }
  if x.resv = 0 then s.considerFire k else s.roomMade k x.resvChan

/-! The replay window (R287-R292, R469). -/

/-- A mode change of the core is pending (R289). -/
def Core.switching (c : Core) : Bool := c.credit != c.creditNext

/-- The window cannot take another message now (R287). -/
def Core.windowBusy (c : Core) : Bool := decide (32 ≤ c.window.length) || c.switching

/-- A pending mode change takes effect once the window is empty (R289). -/
def State.settleMode (s : State) (k : Nat) : State :=
  let c := s.core k
  if c.switching && c.window.isEmpty then (s.modCore k (fun c => { c with credit := c.creditNext })).wakeUnits k else s

/-- Change the message uid of core k's window. -/
def State.modMsg (s : State) (k uid : Nat) (f : Msg → Msg) : State :=
  s.modCore k (fun c => { c with window := updFirst (fun m => m.uid = uid) f c.window })

def State.msg? (s : State) (k uid : Nat) : Option Msg := (s.core k).window.find? (fun m => m.uid = uid)

/-- Is there no core for a message to go to: out of service, or beyond the grade (R27, R28)? -/
def State.unreachable (s : State) (d : Nat) : Bool := s.coreGone d || (!isMgmt d && decide (s.grade ≤ chipOf d))

/-- A grant request for a message (R292): queued at the destination, returned when it is dead, or dropped and repeated
when the destination's table of 32 is full. -/
def State.requestGrant (s : State) (k : Nat) (m : Msg) : State :=
  if s.unreachable m.dst then
    (s.modMsg k m.uid (fun m => { m with st := .nacked true })).plan (.nackReceived k m.uid)
  else
    let total := (s.core m.dst).chans.foldl (fun n e => n + e.2.reqs.length) 0
    if total < 32 then
      let s := s.modChan m.dst m.chan (fun q => { q with reqs := q.reqs ++ [(k, m.uid, m.words.length)] })
      (s.modMsg k m.uid (fun m => { m with st := .waitGrant })).plan (.creditGrant m.dst m.chan)
    else s.modMsg k m.uid (fun m => { m with st := .retryGrant, since := s.cycleOf k })

/-- Requests in flight whose stores a message has to follow: those of the context, or for hardware those of the core's
engines (R288, R469). -/
def State.storesOf (s : State) (k n : Nat) : List Nat :=
  s.reqs.filterMap (fun r => match r.kind with
    | .store _ _ => if r.core = k && r.ctx = n then some r.id else none
    | _ => none)

/-- The stores in flight that a release of context n covers: its own, and those it has acquired at .core (R232, R288). -/
def State.coveredBy (s : State) (k n : Nat) : List Nat :=
  s.storesOf k n ++ ((s.ctx k n).seen.filter (fun i => s.reqs.any (fun r => r.id = i && r.live)))

/-- Start a message that stands in the window: a grant request in credit mode, otherwise it travels. -/
def State.startMsg (s : State) (k : Nat) (m : Msg) : State :=
  let s := if m.grant then s.modMsg k m.uid (fun m => { m with grant := false }) else s
  if (s.core k).credit && !isMgmt k then s.requestGrant k m
  else (s.modMsg k m.uid (fun m => { m with st := .sent })).plan (.messageDelivery k m.uid)

/-- A message enters the replay window of core k (R287), with the lines that a pop of its words acquires; its number is the core's
nextUid. -/
def State.enterWith (s : State) (k n dst chan : Nat) (ws : List Word) (frm : MsgFrom) (lines : List Nat) : State :=
  let c := s.core k
  let m : Msg := { uid := c.nextUid, ctx := n, dst := dst, chan := chan, words := ws, frm := frm, st := .sent, nacks := 0,
                   stores := if frm = .ctx then s.coveredBy k n else s.storesOf k 8, gen := (c.ctx n).gen, lines := lines,
                   grant := false, since := 0 }
  let s := s.modCore k (fun c => { c with window := c.window ++ [m], nextUid := c.nextUid + 1 })
  s.startMsg k m

def State.enter (s : State) (k n dst chan : Nat) (ws : List Word) (frm : MsgFrom) : State := s.enterWith k n dst chan ws frm []

/-- A word of hardware (R469): into the window, or it waits in its unit. -/
def State.sendHwWith (s : State) (k n dst chan : Nat) (ws : List Word) (frm : MsgFrom) (lines : List Nat) : State :=
  let c := s.core k
  if c.windowBusy || !c.hwWait.isEmpty then
    let m : Msg := { uid := 0, ctx := n, dst := dst, chan := chan, words := ws, frm := frm, st := .sent, nacks := 0,
                     stores := [], gen := (c.ctx n).gen, lines := lines, grant := false, since := 0 }
    s.modCore k (fun c => { c with hwWait := c.hwWait ++ [m] })
  else s.enterWith k n dst chan ws frm lines

def State.sendHw (s : State) (k n dst chan : Nat) (ws : List Word) (frm : MsgFrom) : State := s.sendHwWith k n dst chan ws frm []

/-- Words of hardware enter as soon as there is room (R469). -/
def State.admitHw (s : State) (k : Nat) : Nat → State
  | 0 => s
  | fuel + 1 =>
    let c := s.core k
    match c.hwWait with
    | m :: ms =>
      if c.windowBusy then s
      else ((s.modCore k (fun c => { c with hwWait := ms })).enterWith k m.ctx m.dst m.chan m.words m.frm m.lines).admitHw k fuel
    | [] => s

/-- The words of a fault word's message (R378). -/
def FaultWord.words (f : FaultWord) : List Word :=
  if f.down then [f.word]
  else [f.word, BitVec.ofNat 64 (mhartid f.origin % 2 ^ 32 + f.merged % 65536 * 2 ^ 32), f.donated]

/-- A fault word of a window entry is over. -/
def State.dropFault (s : State) (k uid : Nat) : State :=
  match s.msg? k uid with
  | some m => (match m.frm with
    | .fault id => { s with faultWords := s.faultWords.filter (fun x => x.id != id) }
    | _ => s)
  | none => s

/-- An entry leaves the window: a mode change may take effect, words of hardware may enter, waiting senders try again. -/
def State.leaveWindow (s : State) (k uid : Nat) : State :=
  let s := if s.faultWords.isEmpty then s else s.dropFault k uid
  let s := s.modCore k (fun c => { c with window := c.window.filter (fun m => m.uid != uid) })
  ((s.settleMode k).admitHw k 32).wakeUnits k

/-- The mhartid form of a message's destination. -/
def Msg.ident (m : Msg) : Word := BitVec.ofNat 64 (mhartid m.dst)

/-- einfo of a refusal (R291): channel, c − 1 and the number of the context's messages refused. -/
def refusalInfo (m : Msg) (count : Nat) : Word :=
  BitVec.ofNat 64 (m.chan + (m.words.length - 1) * 32 + count % 256 * 256)

/-- The refusal word (R291). -/
def refusalWord (k : Nat) (m : Msg) (cause : Nat) : Word :=
  BitVec.ofNat 64 (mhartid m.dst % 2 ^ 32 * 2 ^ 32 + m.chan * 2 ^ 20 + (m.words.length - 1) * 2 ^ 18 + cause * 2 ^ 8 +
    noticeIdx k * 8 + m.ctx)

/-- Is an instruction of the context in progress, so that a stop has to wait for it: a strong access being performed, or a
release that waits for acknowledgements (R263)? -/
def Wait.inProgress : Wait → Bool
  | .reply _ | .acks => true
  | _ => false

/-- Refused messages become refusal words (R291). -/
def State.pushRefusals (s : State) (k cause : Nat) (ms : List Msg) : State :=
  ms.foldl (fun s m => (s.modMsg k m.uid (fun m => { m with st := .refused cause })).plan (.refusalWordPush k)) s

/-- The context n that sent refused messages of the window in its present binding or firing is told, by a trap, a pending error or
refusal words (R291). -/
def State.tellRefused (s : State) (k cause n : Nat) (ms : List Msg) : State :=
  match ms with
  | [] => s
  | m :: _ =>
    -- a context being stopped takes the refusal as a trap (R291)
    let s := if (s.ctx k n).wait = .stop then s.modCtx k n (fun c => { c with st := c.prior, wait := .none }) else s
    let x := s.ctx k n
    let err : PendErr := { cause := cause, eaddr := m.ident, einfo := refusalInfo m ms.length, stamp := s.clock }
    let gone (s : State) : State := ms.foldl (fun s m => s.leaveWindow k m.uid) s
    if x.st = .strand || x.st = .firing then
      if x.wait.inProgress then gone ((s.setCtx k n { x with xportErr := some err }).tick)
      else gone (s.takeTrap k n cause m.ident err.einfo x.pc)
    else if (x.st = .trapped || x.st = .saved) && x.xportErr.isNone then
      gone ((s.setCtx k n { x with xportErr := some err }).tick)
    else s.pushRefusals k cause ms

/-- Is the message sent by a context, so that it can be refused (R291, R469)? -/
def MsgFrom.refusable : MsgFrom → Bool
  | .ctx => true
  | .notify _ => true
  | _ => false

/-- Messages of core k to the destination of uid from it on are refused, and their senders told (R291). -/
def State.refuse (s : State) (k uid cause : Nat) : State :=
  match s.msg? k uid with
  | none => s
  | some m =>
    let ms := ((s.core k).window.dropWhile (fun q => q.uid != uid)).filter (fun q => q.dst = m.dst && q.frm.refusable &&
      (match q.st with
       | .delivered => false
       | .refused _ => false
       | _ => true))
    (natsFrom 0 8).foldl (fun s n =>
      let mine := ms.filter (fun q => q.ctx = n && q.frm = .ctx)
      let gen := (s.ctx k n).gen
      (s.pushRefusals k cause (mine.filter (fun q => q.gen ≠ gen))).tellRefused k cause n (mine.filter (fun q => q.gen = gen))) s

/-- The destination drops a message and returns a NACK; from then on it does the same to later ones of the source (R290). -/
def State.nack (s : State) (k uid d : Nat) : State :=
  let s := if (s.core d).nackFrom.any (fun e => e.1 = k) then s
    else s.modCore d (fun c => { c with nackFrom := c.nackFrom ++ [(k, uid)] })
  (s.modMsg k uid (fun m => { m with st := .nacked false })).plan (.nackReceived k uid)

/-- The NACKed message that a destination waits for from a source, while it still stands in the source's window (R290) (DEDUCED,
log entry 83). -/
def State.awaited (s : State) (k d : Nat) : Option Nat :=
  ((s.core d).nackFrom.find? (fun e => e.1 = k && (match s.msg? k e.2 with
    | some m => (match m.st with
      | .delivered => false
      | .refused _ => false
      | _ => true)
    | none => false))).map (·.2)

/-- A message reaches its destination core (R278, R290, R27): one with a grant fills its slots (R292); a core in NEWT or DARK NACKs
the others (R427). -/
def State.arrive (s : State) (k uid : Nat) : State :=
  match s.msg? k uid with
  | none => s
  | some m =>
    let d := m.dst
    let clu := cluKey d
    if !isMgmt d && tget .bound (idxOf d) (s.cluster clu).binds = .proxied then
      let s := s.modMsg k uid (fun m => { m with st := .atProxy })
      (s.modCluster clu (fun c => { c with proxyIn := c.proxyIn ++ [(idxOf d, k, uid)] })).plan (.proxyReturn k uid)
    else if s.unreachable d then
      (s.modMsg k uid (fun m => { m with st := .nacked true })).plan (.nackReceived k uid)
    else
      let q := s.chan d m.chan
      let c := m.words.length
      let w := s.awaited k d
      let fits := decide (c ≤ q.free) && q.reqs.isEmpty && !(isCompute d && decide (4 ≤ (s.die (dieOf d)).op)) &&
        (w.isNone || w = some uid)
      let deliver (s : State) : State :=
        let s := if w = some uid then s.modCore d (fun c => { c with nackFrom := c.nackFrom.filter (fun e => e.1 != k) }) else s
        ((s.appendWith d m.chan m.words m.lines).modMsg k uid (fun m => { m with st := .delivered })).plan (.messageAck k uid)
      if m.grant && decide (c ≤ q.grantResv) then
        deliver (s.modChan d m.chan (fun q => { q with grantResv := q.grantResv - c }))
      else if fits then deliver s
      else s.nack k uid d

/-- Must a message wait at its source for an earlier one of the window to the same destination that has not left (R288)? One that has
been NACKed has left (R290). -/
def Core.behindOther (c : Core) (m : Msg) : Bool :=
  (c.window.takeWhile (fun q => q.uid != m.uid)).any (fun q => q.dst = m.dst && (match q.st with
    | .sent | .waitGrant | .retryGrant | .granted | .backoff | .walking => true
    | .delivered | .refused _ | .nacked _ | .atProxy | .transit => false))

/-- Does an earlier message to the same destination travel with the transport, so that this one must follow it there (R239)? -/
def Core.followsTransit (c : Core) (m : Msg) : Bool :=
  (c.window.takeWhile (fun q => q.uid != m.uid)).any (fun q => q.dst = m.dst && q.st = .transit)

/-- The back-off of a message after n NACKs (R290, R294). -/
def Core.delay (c : Core) (n : Nat) : Word :=
  BitVec.ofNat 64 (bits c.qbackoff 15 0 * 2 ^ min (n - 1) (bits c.qbackoff 19 16))

/-- A window entry's time to be tried again has come: its back-off, or the delay of its grant request (R290, R292). -/
def State.msgDue (s : State) (k : Nat) (m : Msg) : Bool :=
  let c := s.core k
  match m.st with
  | .backoff => passed (s.cycleOf k) m.since (c.delay m.nacks)
  | .retryGrant => passed (s.cycleOf k) m.since (c.delay 1)
  | _ => false

/-- The place of a message's destination. -/
def State.msgEnd (s : State) (m : Msg) : Ep := s.epOfCore m.dst

end Sys2Proof.Machine
end

