-- ==== Sys2Proof/Machine/Kv.lean ====
section
/-! DEFINITION. Pages of attention sweeps at their controllers (R413, R414): the room they take, deliveries, and what follows
when a page has been sent. -/

namespace Sys2Proof.Machine

/-- The list entries a controller holds: of the pages not yet SENT, and of catch-ups (R413). -/
def Cluster.kvEntries (c : Cluster) : Nat :=
  c.pages.foldl (fun n p => n + p.subs.length) 0 + (c.deliveries.filter (·.catchUp)).length

def Cluster.kvPage (c : Cluster) (sweep pa : Nat) : Option KvPage := c.pages.find? (fun p => p.sweep = sweep && p.pa = pa)

/-- The name of a subscriber's subscription to a sweep. -/
def KvSub.name (d : KvSub) (sweep : Nat) : SubName :=
  { sweep := sweep, page := { qs := d.qs, idx := d.idx } }

/-- Is a delivery for a subscription of a core? -/
def KvDelivery.isOf (d : KvDelivery) (core : Nat) (u : SubName) : Bool := d.sub.core = core && d.sub.name d.sweep = u

/-- The delivery under way for a subscription, with its controller. -/
def State.kvDelivery (s : State) (core : Nat) (u : SubName) : Option (Nat × KvDelivery) :=
  s.clusters.findSome? (fun e => (e.2.deliveries.find? (fun d => d.isOf core u)).map (fun d => (e.1, d)))

/-- A page is SENT: it is removed and a mark kept, the oldest of 4,096 going first; waiting subscriptions look again, and
the sweep may be done (R413, R410). -/
def State.kvSent (s : State) (ctl sweep pa : Nat) : State :=
  let s := s.modCluster ctl (fun c =>
    let marks := if 4096 ≤ c.marks.length then c.marks.drop 1 else c.marks
    { c with pages := c.pages.filter (fun (p : KvPage) => !(p.sweep = sweep && p.pa = pa)), marks := marks ++ [(sweep, pa)] })
  s.plan (.sweepClosedDone sweep)

/-- Subscriptions that wait at a controller for room are looked at again, oldest first: planned by the command that made
them (R413). -/
def State.kvRoom (s : State) (ctl : Nat) : State :=
  (s.cluster ctl).waitingSubs.foldl (fun s w =>
    match (s.core w.1.core).sweepQ.find? (fun q => bits q.hd.word 7 0 = 0xA1 && bits q.hd.word 39 32 = w.2.1 &&
        bits q.hd.word 87 64 = w.1.qs && bits q.hd.word 51 40 = w.1.idx) with
    | some q => s.plan (.subscriptionAtPage { core := w.1.core, seq := q.hd.seq })
    | none => s) s

/-- A SENDING page every entry of which has been delivered is SENT (R413). -/
def State.kvSettle (s : State) (ctl sweep pa : Nat) : State :=
  let c := s.cluster ctl
  match c.kvPage sweep pa with
  | some p =>
    if p.st = .sending && !c.deliveries.any (fun d => d.sweep = sweep && d.pa = pa && !d.catchUp) then
      (s.kvSent ctl sweep pa).kvRoom ctl
    else s
  | none => s.kvRoom ctl

/-- A delivery has been carried out or discarded. -/
def State.kvDelivered (s : State) (ctl : Nat) (d : KvDelivery) : State :=
  (s.modCluster ctl (fun c => { c with
    deliveries := dropFirst (fun (x : KvDelivery) => x.isOf d.sub.core (d.sub.name d.sweep)) c.deliveries })).kvSettle ctl d.sweep d.pa

/-- Is a subscription of the core's table waiting for its delivery (R414)? -/
def State.subWaits (s : State) (core : Nat) (u : SubName) : Bool := (s.core core).subs.any (fun x => x.name = u && x.st = .waiting)

/-- The page bytes of a delivery are written at the subscriber, whose subscription becomes DELIVERED (R414). -/
def State.landDelivery (s : State) (r : FeReq) : State :=
  match s.kvDelivery r.core r.sub with
  | none => s
  | some (ctl, d) =>
    let base := lmemKey r.core d.sub.loff
    let locs := (natsFrom base d.bytes.length).map (fun a =>
      ({ kind := .lmem r.core, key := a, die := dieOf r.core, clu := cluKey r.core, keyid := 0 } : Loc))
    let s := s.perform r.core 8 (locs.zip d.bytes)
    let s := s.modCore r.core (fun c => { c with subs := c.subs.map (fun (u : Sub) =>
      if u.name = r.sub then { u with st := .delivered } else u) })
    s.kvDelivered ctl d

end Sys2Proof.Machine
end

