-- ==== Sys2Proof/Machine/Sync.lean ====
section
/-! DEFINITION. Synchronisation (chapter 13, R333-R349): full-empty words, monitors, and the semaphores, mutexes and
barriers of a cluster. -/

namespace Sys2Proof.Machine

/-! A core stops at a cause of kind C that no context of it met (R259). -/

/-- The core of the cluster hierarchy that hears of a core-fatal cause: the service core, or for one the management core. -/
def State.fatalTo (s : State) (k : Nat) : Nat :=
  if isMgmt k then k else if isService k then s.trust.mgmtOfChip (chipOf k) else svcOf k

def State.coreFatal (s : State) (k cause : Nat) : State :=
  let s := s.modCore k (fun c => { c with stopped := true, stopCause := if c.stopped then c.stopCause else cause })
  let s := s.monitorNotice k (s.fatalTo k) cause
  if isCompute k then s.pokeDispatcher (chipOf k) else s

/-! Full-empty words (R333-R337). The operations are numbered as FeReq numbers them. -/

def feLDFE : Nat := 0
def feLDFF : Nat := 1
def feSTFE : Nat := 2
def feSTFF : Nat := 3
def feINIT : Nat := 4
def feNOTIFY : Nat := 5
def feDELIVER : Nat := 6

/-- The core whose local memory holds a key (R218). -/
def ownerOf (key : Nat) : Nat := coreKey (key / 2 ^ 46) (key / 2 ^ 21 % 256) (key / 2 ^ 16 % 32)

/-- The eight places of a word of local memory. -/
def wordLocs (key : Nat) : List Loc :=
  (natsFrom key 8).map (fun a => { kind := .lmem (ownerOf key), key := a, die := key / 2 ^ 46,
                                   clu := cluKey (ownerOf key), keyid := 0 })

def State.isFull (s : State) (word : Nat) : Bool := s.full.contains word
def State.setFull (s : State) (word : Nat) (b : Bool) : State :=
  { s with full := if b then insertNat word s.full else s.full.filter (· != word) }

/-- Does the state of the word let a request through (R335)? Those that park ahead of it are the requests of its own kind. -/
def State.feAdmits (s : State) (r : FeReq) : Bool :=
  let first := !((s.fes.takeWhile (fun q => q.id != r.id)).any (fun q => q.st = 1 && q.word = r.word &&
    (q.op = r.op || (q.op = feSTFE && r.op = feDELIVER) || (q.op = feDELIVER && r.op = feSTFE))))
  if r.op = feLDFE then s.isFull r.word && first
  else if r.op = feLDFF then s.isFull r.word
  else if r.op = feSTFE || r.op = feDELIVER then !s.isFull r.word && first
  else true

/-- A copy command's notify has been acted on (R188). -/
def State.notifyDone (s : State) (k seq : Nat) : State :=
  if (s.core k).copyQ.any (fun q => q.hd.seq = seq) then
    (s.modCore k (fun c => { c with copyQ := (updFirst (fun (q : CopyCmd) => q.hd.seq = seq)
      (fun (q : CopyCmd) => { q with notifies := q.notifies - 1 }) c.copyQ) })).plan (.copyCommandRetire { core := k, seq := seq })
  else s

/-- A notify of a copy command is refused: the command ends with the cause as its context's pending error (R195, R196). -/
def State.notifyFailed (s : State) (k seq cause : Nat) : State :=
  match (s.core k).copyQ.find? (fun q => q.hd.seq = seq) with
  | none => s
  | some q =>
    let s := s.modCore k (fun c => { c with copyQ := (updFirst (fun (q : CopyCmd) => q.hd.seq = seq)
      (fun (q : CopyCmd) => { q with st := .done 1, notifies := q.notifies - 1 }) c.copyQ) })
    (s.recordCopyErr k q.hd.ctx cause 0 (cmdInfo (bits q.hd.word 7 0) seq 0)).plan (.copyCommandRetire { core := k, seq := seq })

/-- The requester's instruction or command completes; a load acquires at its scope, and the payload of a notify (R195, R231). -/
def State.feFinish (s : State) (r : FeReq) (v : Word) : State :=
  if r.op = feLDFE || r.op = feLDFF then
    ((s.finish r.core r.ctx r.rd v).acquireFrom r.core r.ctx r.scope (some [lineOf r.word])).acquireLines r.core r.ctx
      (tget [] r.word s.feLines)
  else if r.op < feNOTIFY then s.finish r.core r.ctx 0 0
  else if r.op = feNOTIFY then s.notifyDone r.core r.tag
  else s

def State.dropFe (s : State) (id : Nat) : State := { s with fes := s.fes.filter (fun r => r.id != id) }

/-- The address that a trap of an instruction's request names: it is kept in the tag, which only notifies use otherwise. -/
def FeReq.va (r : FeReq) : Word := BitVec.ofNat 64 r.tag

/-- Perform an admitted request at the owner. A read checks parity (R334). -/
def State.fePerform (s : State) (r : FeReq) : State :=
  let s := s.dropFe r.id
  let ls := wordLocs r.word
  if r.op ≤ feLDFF then
    if ls.any (fun l => s.badParity.contains l.key) then
      if r.remote then
        (s.coreFatal (ownerOf r.word) cLOCAL_PARITY).takeTrap r.core r.ctx cDEAD_DESTINATION r.va 0 (s.ctx r.core r.ctx).pc
      else s.takeTrap r.core r.ctx cLOCAL_PARITY r.va 0 (s.ctx r.core r.ctx).pc
    else
      let v := BitVec.ofNat 64 (leNat (ls.map s.byteAt))
      (s.setFull r.word (r.op = feLDFF)).feFinish r v
  else
    let s := if r.op = feDELIVER then s.landDelivery r else s
    let s := s.perform r.core r.ctx (ls.zip (leBytes 8 r.data.toNat))
    let s := if r.lines.isEmpty && (tfind r.word s.feLines).isNone then s
      else { s with feLines := if r.lines.isEmpty then tdel r.word s.feLines else tset r.word r.lines s.feLines }
    (s.setFull r.word (r.op ≠ feINIT)).feFinish r 0

/-- The parked requests of a word are examined in arrival order, again after each one that is performed (R337). -/
def State.feExamine (s : State) (word : Nat) : Nat → State
  | 0 => s
  | n + 1 =>
    match s.fes.find? (fun r => r.st = 1 && r.word = word && s.feAdmits r) with
    | some r => (s.fePerform r).feExamine word n
    | none => s

/-- The core's resend limit and gap (R336). -/
def Core.feLimit (c : Core) : Nat := bits c.feretry 7 0

/-- Has feretry.gap of a core passed since a time (R336)? -/
def State.feGapOver (s : State) (k : Nat) (since : Word) : Bool :=
  passed (s.cycleOf k) since (BitVec.ofNat 64 (bits (s.core k).feretry 23 8))

/-- A NACKed request of a context or command may be sent again: the gap of its core has passed (R336). -/
def State.feResendDue (s : State) (r : FeReq) : Bool := r.st = 2 && r.op ≠ feDELIVER && s.feGapOver r.core r.since

/-- A request ends for want of room at the owner after feretry.limit NACKs (R336, R195). -/
def State.feGiveUp (s : State) (r : FeReq) : State :=
  let s := s.dropFe r.id
  if r.op = feNOTIFY then s.notifyFailed r.core r.tag cFE_RETRY_LIMIT
  else s.takeTrap r.core r.ctx cFE_RETRY_LIMIT r.va 0 (s.ctx r.core r.ctx).pc

/-- Requests of other cores parked at an owner (R336). -/
def State.parkedAt (s : State) (owner : Nat) : Nat :=
  (s.fes.filter (fun r => r.st = 1 && r.remote && ownerOf r.word = owner)).length

/-- A request reaches the owner (R334-R336). -/
def State.feArrive (s : State) (id : Nat) : State :=
  match s.fes.find? (fun r => r.id = id) with
  | none => s
  | some r =>
    let owner := ownerOf r.word
    -- the request queues behind those that reached the owner before it
    let s := { s with fes := s.fes.filter (fun (q : FeReq) => q.id != id) ++ [r] }
    if r.remote && s.coreGone owner then
      if r.op < feNOTIFY then (s.dropFe id).takeTrap r.core r.ctx cDEAD_DESTINATION r.va 0 (s.ctx r.core r.ctx).pc
      else if r.op = feNOTIFY then (s.dropFe id).notifyFailed r.core r.tag cDEAD_DESTINATION
      else s.dropFe id
    else if s.feAdmits r then (s.fePerform r).feExamine r.word 64
    else if !r.remote || s.parkedAt owner < 16 then
      { s with fes := updFirst (fun (q : FeReq) => q.id = id) (fun (q : FeReq) => { q with st := 1 }) s.fes }
    else
      let n := r.nacks + 1
      if r.op ≠ feDELIVER && (s.core r.core).feLimit ≤ n then s.feGiveUp r
      else
        let now := s.cycleOf r.core
        let again (q : FeReq) : FeReq := { q with st := 2, nacks := n, since := now }
        let s := { s with fes := updFirst (fun (q : FeReq) => q.id = id) again s.fes }
        if r.op = feDELIVER then s.plan (.sweepDeliveryResend r.core r.sub.sweep r.sub.page) else s

/-- The place of a full-empty word, or the fault of the access (R334). -/
def State.fePlace (s : State) (acc : Acc) (va : Word) : Except Flt Loc :=
  if bits va 2 0 ≠ 0 then .error { cause := cMISALIGNED_ATOMIC, addr := va, info := 0 }
  else
    match s.xlate s.whoCur acc va with
    | .error f =>
      .error (if f.cause = cCARVE_REVOKED || f.cause = cSTRIPE_PEER_DOWN then { f with cause := acc.accessCause } else f)
    | .ok l =>
      match l.kind with
      | .own => .ok l
      | .lmem k => if s.coreGone k then .error { cause := cDEAD_DESTINATION, addr := va, info := 0 } else .ok l
      | _ => .error { cause := acc.accessCause, addr := va, info := 0 }

/-- A full-empty instruction (R333): its checks, its release, and the request at the owner. -/
def State.feInstr (s : State) (op : Nat) (acc : Acc) (sc : Scope) (rd rs1 : Reg) (data : Word) : State :=
  let va := s.rx rs1
  let bit := if op ≤ feLDFF then watchLoad else watchStore
  let go (s : State) : State :=
    s.watched [bit] (addrsFrom va 8) (fun s => s.andThen (s.fePlace acc va) (fun l =>
      let act (s : State) : State :=
        let remote := match l.kind with
          | .own => false
          | .lmem k => k != s.curCore
          | _ => true
        let r : FeReq := { id := s.clock, word := l.key, op := op, core := s.curCore, ctx := s.curCtx, rd := rd,
                           data := data, scope := sc, remote := remote, nacks := 0, tag := va.toNat,
                           sub := SubName.zero, st := 0, since := 0, lines := [] }
        let s := ({ s with fes := s.fes ++ [r] }.tick).block (.fe r.id)
        if remote && !s.atOnce s.curCore l then s.plan (.fullEmptyRequest r.id) else s.feArrive r.id
      if op ≤ feLDFF then act s else s.release sc act))
  let go' (s : State) : State := if op ≤ feSTFE then s.notInHandler go else go s
  if op ≤ feLDFF || !scopeWide sc then go' s else s.orPending [.store] go'

/-- LDFE (R333). -/
def execLdfe (sc : Scope) (rd rs1 : Reg) (s : State) : Host.Outcome State Fault Refusal :=
  .next (s.feInstr feLDFE .ldfe sc rd rs1 0)

/-- LDFF (R333). -/
def execLdff (sc : Scope) (rd rs1 : Reg) (s : State) : Host.Outcome State Fault Refusal :=
  .next (s.feInstr feLDFF .load sc rd rs1 0)

/-- STFE (R333). -/
def execStfe (sc : Scope) (rs2 rs1 : Reg) (s : State) : Host.Outcome State Fault Refusal :=
  .next (s.feInstr feSTFE .store sc 0 rs1 (s.rx rs2))

/-- STFF (R333). -/
def execStff (sc : Scope) (rs2 rs1 : Reg) (s : State) : Host.Outcome State Fault Refusal :=
  .next (s.feInstr feSTFF .store sc 0 rs1 (s.rx rs2))

/-- FEINIT (R333). -/
def execFeinit (sc : Scope) (rs2 rs1 : Reg) (s : State) : Host.Outcome State Fault Refusal :=
  .next (s.feInstr feINIT .store sc 0 rs1 (s.rx rs2))

/-- FULL_EMPTY_REQUEST (R335): a request that travels reaches the owner. -/
def execFullEmptyRequest (id : Nat) (s : State) : Host.Outcome State Fault Refusal :=
  .next (if s.fes.any (fun r => r.id = id && r.st = 0) then s.feArrive id else s)

/-- FE_RESEND (R336): a NACKed request is sent again after the gap. -/
def execFeResend (id : Nat) (s : State) : Host.Outcome State Fault Refusal :=
  .next (if s.fes.any (fun r => r.id = id && s.feResendDue r) then s.feArrive id else s)

/-! Monitors (R339-R342). -/

/-- The registrations of a context are removed. -/
def State.disarm (s : State) (k n : Nat) : State :=
  if s.clusters.any (fun e => e.2.monitors.any (fun m => m.2.1 = k && m.2.2 = n)) then
    { s with clusters := s.clusters.map (fun (e : Nat × Cluster) =>
        (e.1, { e.2 with monitors := e.2.monitors.filter (fun m => !(m.2.1 = k && m.2.2 = n)) })) }
  else s

/-- Register a context on a line at its home; a full table sets the event flag at once (R339). -/
def State.registerMonitor (s : State) (k n clu line : Nat) : State :=
  if (s.cluster clu).monitors.length < 64 then
    s.modCluster clu (fun c => { c with monitors := c.monitors ++ [(line, k, n)] })
  else s.modCtx k n (fun c => { c with event := true })

/-- Does the address translate by a STRIPE entry that grants a load? -/
def State.onStripe (s : State) (va : Word) : Bool :=
  canonical va && (match s.tlbMatch s.whoCur va with
    | [e] => e.size = 3 && e.grants s.whoCur.super .load
    | _ => false)

/-- MONARM (R339). -/
def State.monarm (s : State) (rs1 : Reg) : State :=
  let va := s.rx rs1
  if inWindow va || s.onStripe va then s.trap cMONITOR_INVALID va
  else
    s.andThen (s.xlate s.whoCur .load va) (fun l =>
      let fits := match l.kind with
        | .dram => true
        | .carved => true
        | _ => false
      if !fits then s.trap cMONITOR_INVALID va
      else
        let k := s.curCore
        let n := s.curCtx
        let line := lineOf l.key
        let s := s.disarm k n
        let s := s.modCur (fun c => { c with event := false, armed := true, monLine := va &&& ~~~127, monPa := line, monDue := false })
        let s := s.registerMonitor k n l.clu line
        let s := s.modHere (fun c => { c with l1d := c.l1d.map (fun (e : L1Line) =>
          if e.line = line then { e with views := e.views &&& ~~~(1#8 <<< n) } else e) })
        s.complete)

/-- MONARM (R339). -/
def execMonarm (rs1 : Reg) (s : State) : Host.Outcome State Fault Refusal := .next (s.monarm rs1)

/-- WFE (R341). -/
def State.wfe (s : State) (rd : Reg) : State :=
  s.notInHandler (fun s =>
    let c := s.cur
    if !c.armed then s.done rd 2
    else if c.event then (s.modCur (fun c => { c with event := false, armed := false })).done rd 0
    else s.block (.wfe rd (s.timeOf s.curCore) (s.here.wfetimeout <<< 16)))

/-- WFE (R341). -/
def execWfe (rd : Reg) (s : State) : Host.Outcome State Fault Refusal := .next (s.wfe rd)

/-! The synchronisation unit of a cluster (R343-R348). -/

def syncIdx (v : Word) : Nat := bits v 3 0
def barIdx (v : Word) : Nat := bits v 2 0

def Cluster.sem (c : Cluster) (i : Nat) : Sem := tget Sem.zero i c.sems
def Cluster.mutex (c : Cluster) (i : Nat) : Mutex := tget Mutex.free i c.mutexes
def Cluster.bar (c : Cluster) (i : Nat) : Bar := tget Bar.zero i c.bars
def State.setSem (s : State) (clu i : Nat) (m : Sem) : State := s.modCluster clu (fun c => { c with sems := tset i m c.sems })
def State.setMutex (s : State) (clu i : Nat) (m : Mutex) : State :=
  s.modCluster clu (fun c => { c with mutexes := tset i m c.mutexes })
def State.setBar (s : State) (clu i : Nat) (m : Bar) : State := s.modCluster clu (fun c => { c with bars := tset i m c.bars })

/-- A parked requester proceeds: an acquire at .clu (R347). -/
def State.proceed (s : State) (w : Nat × Nat) : State := (s.finish w.1 w.2 0 0).acquireBy w.1 w.2 .clu

/-- Parked SEMWAITs proceed, oldest first, while the count allows (R344). -/
def State.serveSem (s : State) (clu i : Nat) : Nat → State
  | 0 => s
  | n + 1 =>
    let m := (s.cluster clu).sem i
    match m.waiters with
    | w :: ws =>
      if m.count = 0 then s
      else ((s.setSem clu i { count := m.count - 1, waiters := ws }).proceed w).serveSem clu i n
    | [] => s

def State.semwait (s : State) (rs1 : Reg) : State :=
  s.notInHandler (fun s =>
    let clu := cluKey s.curCore
    let i := syncIdx (s.rx rs1)
    let m := (s.cluster clu).sem i
    if m.count ≠ 0 then ((s.setSem clu i { m with count := m.count - 1 }).acquire .clu).complete
    else (s.setSem clu i { m with waiters := m.waiters ++ [(s.curCore, s.curCtx)] }).block (.sem i))

def State.semtry (s : State) (rd rs1 : Reg) : State :=
  let clu := cluKey s.curCore
  let i := syncIdx (s.rx rs1)
  let m := (s.cluster clu).sem i
  if m.count ≠ 0 then ((s.setSem clu i { m with count := m.count - 1 }).acquire .clu).done rd 1 else s.done rd 0

def State.semsig (s : State) (rs1 rs2 : Reg) : State :=
  let n := (s.rx rs2).toNat
  let i := syncIdx (s.rx rs1)
  s.release .clu (fun s =>
    let clu := cluKey s.curCore
    let m := (s.cluster clu).sem i
    if 65535 < m.count + n then s.trap cSEMAPHORE_OVERFLOW 0
    else ((s.setSem clu i { m with count := m.count + n }).serveSem clu i 136).complete)

/-- SEMWAIT (R344). -/
def execSemwait (rs1 : Reg) (s : State) : Host.Outcome State Fault Refusal := .next (s.semwait rs1)

/-- SEMTRY (R344). -/
def execSemtry (rd rs1 : Reg) (s : State) : Host.Outcome State Fault Refusal := .next (s.semtry rd rs1)

/-- SEMSIG (R344). -/
def execSemsig (rs1 rs2 : Reg) (s : State) : Host.Outcome State Fault Refusal := .next (s.semsig rs1 rs2)

/-- A mutex is given up: the oldest parked requester holds it, or it is FREE; a broken bit that is set stays (R345). -/
def State.passMutex (s : State) (clu i : Nat) (broken : Bool) : State :=
  let m := (s.cluster clu).mutex i
  match m.waiters with
  | w :: ws => (s.setMutex clu i { holder := some w, broken := broken || m.broken, waiters := ws }).proceed w
  | [] => s.setMutex clu i { holder := none, broken := broken || m.broken, waiters := [] }

def State.mtxacq (s : State) (rs1 : Reg) : State :=
  s.notInHandler (fun s =>
    let clu := cluKey s.curCore
    let i := syncIdx (s.rx rs1)
    let m := (s.cluster clu).mutex i
    match m.holder with
    | none => ((s.setMutex clu i { m with holder := some (s.curCore, s.curCtx), broken := false }).acquire .clu).complete
    | some h =>
      if h = (s.curCore, s.curCtx) then s.trap cBARRIER_MISMATCH 0
      else (s.setMutex clu i { m with waiters := m.waiters ++ [(s.curCore, s.curCtx)] }).block (.mutex i))

def State.mtxtry (s : State) (rd rs1 : Reg) : State :=
  let clu := cluKey s.curCore
  let i := syncIdx (s.rx rs1)
  let m := (s.cluster clu).mutex i
  match m.holder with
  | none =>
    ((s.setMutex clu i { m with holder := some (s.curCore, s.curCtx), broken := false }).acquire .clu).done rd
      (if m.broken then 2 else 1)
  | some _ => s.done rd 0

/-- DEDUCED, log entry 49. -/
def State.mtxrel (s : State) (rs1 : Reg) : State :=
  let i := syncIdx (s.rx rs1)
  s.release .clu (fun s =>
    let clu := cluKey s.curCore
    if ((s.cluster clu).mutex i).holder = some (s.curCore, s.curCtx) then (s.passMutex clu i false).complete
    else s.trap cBARRIER_MISMATCH 0)

/-- MTXACQ (R345). -/
def execMtxacq (rs1 : Reg) (s : State) : Host.Outcome State Fault Refusal := .next (s.mtxacq rs1)

/-- MTXTRY (R345). -/
def execMtxtry (rd rs1 : Reg) (s : State) : Host.Outcome State Fault Refusal := .next (s.mtxtry rd rs1)

/-- MTXREL (R345). -/
def execMtxrel (rs1 : Reg) (s : State) : Host.Outcome State Fault Refusal := .next (s.mtxrel rs1)

/-- The mutexes that a context holds. -/
def State.mutexesOf (s : State) (k n : Nat) : List Nat :=
  ((s.cluster (cluKey k)).mutexes.filter (fun e => e.2.holder = some (k, n))).map (·.1)

/-- A context is killed, quarantined or saved: the mutexes it holds are broken (R345). -/
def State.breakMutexes (s : State) (k n : Nat) : State :=
  (s.mutexesOf k n).foldl (fun s i => s.passMutex (cluKey k) i true) s

/-- Every waiter of a barrier proceeds: its phase has passed (R346). -/
def State.openBar (s : State) (clu i : Nat) (b : Bar) : State :=
  b.waiters.foldl State.proceed (s.setBar clu i { b with waiters := [] })

def State.barinit (s : State) (rs1 rs2 : Reg) : State :=
  let clu := cluKey s.curCore
  let i := barIdx (s.rx rs1)
  let n := (s.rx rs2).toNat
  let b := (s.cluster clu).bar i
  if b.arrived ≠ 0 || n < 1 || 17 < n then s.trap cBARRIER_MISMATCH 0
  else
    let b' : Bar := { b with count := n, phase := false }
    (if b.phase then s.openBar clu i b' else s.setBar clu i b').complete

def State.bararr (s : State) (rd rs1 : Reg) : State :=
  let i := barIdx (s.rx rs1)
  s.release .clu (fun s =>
    let clu := cluKey s.curCore
    let b := (s.cluster clu).bar i
    if b.count = 0 then s.trap cBARRIER_MISMATCH 0
    else
      let s := s.done rd (if b.phase then 1 else 0)
      if b.arrived + 1 = b.count then s.openBar clu i { b with arrived := 0, phase := !b.phase }
      else s.setBar clu i { b with arrived := b.arrived + 1 })

def State.barwait (s : State) (rs1 rs2 : Reg) : State :=
  s.notInHandler (fun s =>
    let clu := cluKey s.curCore
    let i := barIdx (s.rx rs1)
    let b := (s.cluster clu).bar i
    if b.count = 0 then s.trap cBARRIER_MISMATCH 0
    else if b.phase ≠ (s.rx rs2).getLsbD 0 then (s.acquire .clu).complete
    else (s.setBar clu i { b with waiters := b.waiters ++ [(s.curCore, s.curCtx)] }).block (.barrier i))

/-- BARINIT (R346). -/
def execBarinit (rs1 rs2 : Reg) (s : State) : Host.Outcome State Fault Refusal := .next (s.barinit rs1 rs2)

/-- BARARR (R346). -/
def execBararr (rd rs1 : Reg) (s : State) : Host.Outcome State Fault Refusal := .next (s.bararr rd rs1)

/-- BARWAIT (R346). -/
def execBarwait (rs1 rs2 : Reg) (s : State) : Host.Outcome State Fault Refusal := .next (s.barwait rs1 rs2)

end Sys2Proof.Machine
end

