-- ==== Sys2Proof/Machine/Queue.lean ====
section
/-! DEFINITION. Chapter 10 apart from the work queues (R276-R295, R469, R121): the channel and handler instructions, the
message instructions, and the events of channels, firings and the replay window. -/

namespace Sys2Proof.Machine

/-! Pop, try, count, push (R277, R279). -/

/-- An access to channel n of the own core that a user context may make up to channel top (R277). -/
def State.onChan (s : State) (n top : Nat) (act : State → State) : State :=
  if !s.cur.super && decide (top < n) then s.trap cPRIVILEGE 0 else act s

def State.qpop (s : State) (rd : Reg) (n : Nat) : State :=
  s.onChan n 26 (fun s => s.notInHandler (fun s =>
    let k := s.curCore
    match (s.chan k n).words with
    | w :: _ => (s.popWord k n s.curCtx).done rd w
    | [] => (s.modChan k n (fun q => { q with poppers := q.poppers ++ [s.curCtx] })).block (.pop n rd)))

def State.qtry (s : State) (rd : Reg) (n : Nat) : State :=
  s.onChan n 26 (fun s =>
    let k := s.curCore
    match (s.chan k n).words with
    | w :: _ => (s.popWord k n s.curCtx).modCur (fun c => { c.wx rd w with pc := c.pc + 8 })
    | [] => s.complete)

/-- Has the executing context a reservation on channel n that is not filled (R285, R286)? -/
def State.reservedHere (s : State) (n : Nat) : Bool := s.cur.st = .firing && s.cur.resvChan = n && s.cur.resv ≠ 0

def State.qpush (s : State) (n : Nat) (rs1 : Reg) : State :=
  s.onChan n 23 (fun s =>
    let k := s.curCore
    let v := s.rx rs1
    if (s.chan k n).free ≠ 0 then ((s.letOut k s.curCtx).append k n [v]).complete
    else if s.reservedHere n then
      let s := (s.letOut k s.curCtx).modCur (fun c => { c with resv := c.resv - 1 })
      ((s.modChan k n (fun q => { q with prodResv := q.prodResv - 1 })).append k n [v]).complete
    else s.notInHandler (fun s => s.block (.push n)))

def State.qcnt (s : State) (rd : Reg) (n : Nat) : State :=
  s.onChan n 26 (fun s =>
    let q := s.chan s.curCore n
    s.done rd (BitVec.ofNat 64 (q.held + 16 * q.free)))

/-- QPOP (R279). -/
def execQpop (rd : Reg) (chan : BitVec 5) (s : State) : Host.Outcome State Fault Refusal := .next (s.qpop rd chan.toNat)

/-- QTRY (R279). -/
def execQtry (rd : Reg) (chan : BitVec 5) (s : State) : Host.Outcome State Fault Refusal := .next (s.qtry rd chan.toNat)

/-- QPUSH (R279, R286). -/
def execQpush (chan : BitVec 5) (rs1 : Reg) (s : State) : Host.Outcome State Fault Refusal := .next (s.qpush chan.toNat rs1)

/-- QCNT (R279). -/
def execQcnt (rd : Reg) (chan : BitVec 5) (s : State) : Host.Outcome State Fault Refusal := .next (s.qcnt rd chan.toNat)

/-! Handler entries (R281-R283). -/

/-- May the entry be bound to channel n (R282)? The words are those of the 32 bytes. -/
def handlerOk (n : Nat) (target w1 flags w3 : Word) : Bool :=
  let h : Handler := { target := target, flags := flags, masked := false }
  (if n < 24 then !(h.indirect && h.super) else if n = 24 then !h.super
   else if n < 27 then !h.indirect else h.super && !h.indirect) &&
  bits flags 20 16 = n && bits flags 15 15 = 0 && bits flags 63 21 = 0 && w1 = 0 && w3 = 0 &&
  (if h.pen then h.pchan != n else decide (bits flags 14 8 = 0)) &&
  (if h.indirect then decide (target = 0) else canonical target && decide (bits target 1 0 = 0))

def Core.unbind (c : Core) (n : Nat) : Core := { c with handlers := tdel n c.handlers }

def State.hbind (s : State) (n : Nat) (rs1 : Reg) : State :=
  s.supervised (fun s =>
    let k := s.curCore
    let va := s.rx rs1
    if va = 0 then (s.modCore k (fun c => c.unbind n)).complete
    else if bits va 4 0 ≠ 0 then s.trap cLOAD_ACCESS va
    else
      s.loadThen va 32 (fun bs =>
        let word (i : Nat) : Word := BitVec.ofNat 64 (leNat ((bs.drop (8 * i)).take 8))
        if !handlerOk n (word 0) (word 1) (word 2) (word 3) then s.trap cQUEUE_NOT_BOUND va
        else
          let h : Handler := { target := word 0, flags := word 2, masked := false }
          ((s.modCore k (fun c => { c with handlers := tset n h c.handlers })).considerFire k).complete))

/-- HMASK and HUNMASK. -/
def State.maskHandler (s : State) (n : Nat) (m : Bool) : State :=
  let k := s.curCore
  match tfind n s.here.handlers with
  | none => s.trap cQUEUE_NOT_BOUND 0
  | some h =>
    if h.super && !s.cur.super then s.trap cPRIVILEGE 0
    else ((s.modCore k (fun c => { c with handlers := tset n { h with masked := m } c.handlers })).considerFire k).complete

def State.hexit (s : State) : State :=
  if s.cur.st ≠ .firing then s.trap cQUEUE_NOT_BOUND 0
  else s.orPending [.copy] (fun s => s.endFiring s.curCore s.curCtx)

/-- HBIND (R283). -/
def execHbind (chan : BitVec 5) (rs1 : Reg) (s : State) : Host.Outcome State Fault Refusal := .next (s.hbind chan.toNat rs1)

/-- HMASK (R283). -/
def execHmask (chan : BitVec 5) (s : State) : Host.Outcome State Fault Refusal := .next (s.maskHandler chan.toNat true)

/-- HUNMASK (R283). -/
def execHunmask (chan : BitVec 5) (s : State) : Host.Outcome State Fault Refusal := .next (s.maskHandler chan.toNat false)

/-- HEXIT (R283, R285). -/
def execHexit (s : State) : Host.Outcome State Fault Refusal := .next s.hexit

/-! Messages (R287, R121). -/

/-- The core that a destination in mhartid form names at the current grade (R19). -/
def State.destCore (s : State) (d : Word) : Option Nat :=
  if bits d 63 32 ≠ 0 then none else coreOfIdent s.grade (bits d 31 0)

/-- In credit mode a strand stalls from its send until the grant arrives (R287, R292) (DEDUCED, log entry 28). -/
def State.stallForGrant (s : State) (uid : Nat) : State :=
  if s.here.credit && !isMgmt s.curCore && decide (s.cur.st = .strand) then s.block (.grant uid) else s

/-- The send of MSGS and MSGSI: channel n, c words (R287). -/
def State.sendStaged (s : State) (rd rs1 : Reg) (n c : Nat) : State :=
  let d := s.rx rs1
  match s.destCore d with
  | none => s.trap cDEAD_DESTINATION d
  | some dst =>
    if !s.cur.super && (d.getLsbD 31 || decide (25 ≤ n)) then s.trap cPRIVILEGE 0
    else if !(natsFrom 0 c).all (fun i => s.cur.stmask.getLsbD i) then s.done rd 2
    else if s.here.windowBusy then s.done rd 1
    else
      let uid := s.here.nextUid
      let ws := (natsFrom 0 c).map (fun i => tget 0 i s.cur.staged)
      let s := s.enter s.curCore s.curCtx dst n ws .ctx
      ((s.modCur (fun c => { c with stmask := 0 })).done rd 0).stallForGrant uid

def State.msgw (s : State) (n : BitVec 2) (rs1 : Reg) : State :=
  let v := s.rx rs1
  (s.modCur (fun c => { c with staged := tset n.toNat v c.staged, stmask := c.stmask ||| (1#4 <<< n.toNat) })).complete

/-- The notice word of SENDIPI (R121). -/
def ipiWord (k : Nat) (v : Word) : Word := BitVec.ofNat 64 (mhartid k % 2 ^ 32 * 2 ^ 32 + bits v 31 0)

def State.sendipi (s : State) (rs1 rs2 : Reg) : State :=
  s.supervised (fun s =>
    let d := s.rx rs1
    match s.destCore d with
    | none => s.trap cDEAD_DESTINATION d
    | some dst =>
      if s.here.windowBusy then s.block .window
      else
        let uid := s.here.nextUid
        let w := ipiWord s.curCore (s.rx rs2)
        ((s.enter s.curCore s.curCtx dst 29 [w] .ctx).complete).stallForGrant uid)

/-- MSGW (R287). -/
def execMsgw (n : BitVec 2) (rs1 : Reg) (s : State) : Host.Outcome State Fault Refusal := .next (s.msgw n rs1)

/-- MSGSI (R287). -/
def execMsgsi (rd rs1 : Reg) (chan : BitVec 5) (cm1 : BitVec 2) (s : State) : Host.Outcome State Fault Refusal :=
  .next (s.sendStaged rd rs1 chan.toNat (cm1.toNat + 1))

/-- MSGS (R287). -/
def execMsgs (rd rs1 rs2 : Reg) (s : State) : Host.Outcome State Fault Refusal :=
  let v := s.rx rs2
  .next (s.sendStaged rd rs1 (bits v 4 0) (bits v 9 8 + 1))

/-- SENDIPI (R121, R122). -/
def execSendipi (rs1 rs2 : Reg) (s : State) : Host.Outcome State Fault Refusal := .next (s.sendipi rs1 rs2)

/-! Events of channels and firings. -/

/-- HANDLER_FIRE (R284, R285): the channel that is next fires. -/
def State.handlerFire (s : State) (k n : Nat) : State :=
  if (s.core k).stopped || s.coreGone k then s
  else match (s.core k).nextFire with
    | some m => if m = n then (s.fire k n).considerFire k else s.considerFire k
    | none => s

/-- HANDLER_FIRE (R285). -/
def execHandlerFire (core chan : Nat) (s : State) : Host.Outcome State Fault Refusal := .next (s.handlerFire core chan)

/-- TRAP_NOTICE_SEND (R256): the oldest notice of a core enters the replay window, or waits for room. -/
def State.sendNotice (s : State) (k : Nat) : State :=
  let c := s.core k
  match c.notices with
  | [] => s
  | (n, dst, w) :: r =>
    if c.windowBusy || !c.hwWait.isEmpty then s.plan (.trapNoticeSend k)
    else (s.modCore k (fun c => { c with notices := r })).enter k n dst 31 [w] .notice

/-- TRAP_NOTICE_SEND (R256). -/
def execTrapNoticeSend (core : Nat) (s : State) : Host.Outcome State Fault Refusal := .next (s.sendNotice core)

/-! Events of the replay window. -/

/-- A message reaches its destination (R278); a matrix completion word is then no longer undelivered (R173). -/
def State.arriveMsg (s : State) (k uid : Nat) : State :=
  let s := s.arrive k uid
  match s.msg? k uid with
  | some m =>
    if m.st = .delivered then
      match m.frm with
      | .completion op =>
        if 0x20 ≤ op && op < 0x50 then
          ((s.modCore k (fun c => { c with mat := { c.mat with undelivered := c.mat.undelivered - 1 } })).wakeUnits k).settleMatrix k
        else s
      | _ => s
    else s
  | none => s

/-- The fault word of a message that has still routers to pass (R377). -/
def State.walker (s : State) (m : Msg) : Option FaultWord :=
  match m.frm with
  | .fault id => s.faultWords.find? (fun f => f.id = id && !f.path.isEmpty)
  | _ => none

/-- A raise carries the count of those merged into it (R377). -/
def State.withMerged (s : State) (k : Nat) (m : Msg) : State :=
  match m.frm with
  | .fault id => (match s.faultWords.find? (fun f => f.id = id) with
    | some f => s.modMsg k m.uid (fun m => { m with words := f.words })
    | none => s)
  | _ => s

/-- MESSAGE_DELIVERY (R278, R288): the message leaves once earlier stores are acknowledged and earlier messages to its
destination have left; where the path is closed the transport takes it (R385). -/
def State.deliverMsg (s : State) (k uid : Nat) : State :=
  match s.msg? k uid with
  | none => s
  | some m =>
    if m.st ≠ .sent && m.st ≠ .granted then s
    else if (s.core k).behindOther m || s.reqs.any (fun r => m.stores.contains r.id) then
      s.plan (.messageDelivery k uid)
    else
      match s.walker m with
      | some f => (s.modMsg k uid (fun m => { m with st := .walking })).plan (if f.down then .faultWordDown f.id else .faultRaiseAtRouter f.id)
      | none =>
        let s := s.withMerged k m
        if s.pathOpen (s.epOfCore k) (s.msgEnd m) && !(s.core k).followsTransit m then s.arriveMsg k uid
        else (s.modMsg k uid (fun m => { m with st := .transit })).launchReq k m.ctx 0 (dieOf m.dst) 0 (.msg k uid)

/-- MESSAGE_DELIVERY (R278). -/
def execMessageDelivery (core uid : Nat) (s : State) : Host.Outcome State Fault Refusal := .next (s.deliverMsg core uid)

/-- The notifies of the core to the destination of uid, from it on, that a refusal ends: window entry and command. -/
def State.notifiesFrom (s : State) (k uid : Nat) : List (Nat × Nat) :=
  match s.msg? k uid with
  | none => []
  | some m =>
    ((s.core k).window.dropWhile (fun q => q.uid != uid)).filterMap (fun q =>
      match q.frm with
      | .notify seq => if q.dst = m.dst && q.st ≠ .delivered then some (q.uid, seq) else none
      | _ => none)

/-- The message uid and every later one to its destination are refused (R291); commands whose notifies are among them end
with DEAD_DESTINATION (R195), or with TRANSPORT_TIMEOUT when their stream has given up (R389). -/
def State.refuseAll (s : State) (k uid cause : Nat) : State :=
  let why := if cause = cTRANSPORT_TIMEOUT then cause else cDEAD_DESTINATION
  (s.notifiesFrom k uid).foldl (fun s q => (s.leaveWindow k q.1).notifyFailed k q.2 why) (s.refuse k uid cause)

/-- Messages of a quarantined core from uid on are refused: each is counted in the service core's log (R27). -/
def State.refuseGone (s : State) (k uid cause : Nat) : State :=
  match s.msg? k uid with
  | none => s
  | some m =>
    let ms := ((s.core k).window.dropWhile (fun q => q.uid != uid)).filter (fun q => q.dst = m.dst && q.st ≠ .delivered)
    ms.foldl (fun s q => (s.svcLog k cause q.uid).leaveWindow k q.uid) s

/-- NACK_RECEIVED (R290, R291, R28, R469): the message waits for its back-off, or has reached its limit. -/
def State.nacked (s : State) (k uid : Nat) : State :=
  match s.msg? k uid with
  | none => s
  | some m =>
    match m.st with
    | .nacked dead =>
      let n := m.nacks + 1
      let cause := if dead then cDEAD_DESTINATION else cNACK_LIMIT
      let s := s.modMsg k uid (fun m => { m with nacks := n })
      if decide ((s.core k).qretry.toNat ≤ n) && (m.frm.refusable || dead) then
        if s.coreGone k then s.refuseGone k uid cause
        else if m.frm.refusable then s.refuseAll k uid cause
        else (s.svcLog k cause uid).leaveWindow k uid
      else s.modMsg k uid (fun m => { m with st := .backoff, since := s.cycleOf k })
    | _ => s

/-- NACK_RECEIVED (R290). -/
def execNackReceived (core uid : Nat) (s : State) : Host.Outcome State Fault Refusal := .next (s.nacked core uid)

/-- MESSAGE_RESEND (R290): the back-off is over. -/
def State.resendMsg (s : State) (k uid : Nat) : State :=
  match s.msg? k uid with
  | some m => if m.st = .backoff && s.msgDue k m then s.startMsg k m else s
  | none => s

/-- MESSAGE_RESEND (R290). -/
def execMessageResend (core uid : Nat) (s : State) : Host.Outcome State Fault Refusal := .next (s.resendMsg core uid)

/-- MESSAGE_ACK (R290): the entry of a delivered message leaves the window; a notify has been acted on (R188). -/
def State.ackMsg (s : State) (k uid : Nat) : State :=
  match s.msg? k uid with
  | some m =>
    if m.st = .delivered then
      let s := s.leaveWindow k uid
      match m.frm with
      | .notify seq => s.notifyDone k seq
      | _ => s
    else s
  | none => s

/-- MESSAGE_ACK (R290). -/
def execMessageAck (core uid : Nat) (s : State) : Host.Outcome State Fault Refusal := .next (s.ackMsg core uid)

/-- CREDIT_GRANT (R292): the oldest request of a channel is granted when the channel has room. -/
def State.grantCredit (s : State) (k n : Nat) : State :=
  let q := s.chan k n
  match q.reqs with
  | [] => s
  | (src, uid, c) :: rest =>
    if q.free < c then s
    else
      let waits : Bool := match s.msg? src uid with
        | some m => m.st = .waitGrant
        | none => false
      let s := s.modChan k n (fun q => { q with reqs := rest, grantResv := q.grantResv + (if waits then c else 0) })
      let s := if waits then s.plan (.grantReceived src uid) else s
      if rest.isEmpty then s else s.plan (.creditGrant k n)

/-- CREDIT_GRANT (R292). -/
def execCreditGrant (core chan : Nat) (s : State) : Host.Outcome State Fault Refusal := .next (s.grantCredit core chan)

/-- GRANT_RECEIVED (R292): the message travels and its strand goes on. -/
def State.granted (s : State) (k uid : Nat) : State :=
  match s.msg? k uid with
  | some m =>
    if m.st = .waitGrant then
      let s := (s.modMsg k uid (fun m => { m with st := .granted, grant := true })).plan (.messageDelivery k uid)
      s.wakeWhere k (fun w => w = .grant uid)
    else s
  | none => s

/-- GRANT_RECEIVED (R292). -/
def execGrantReceived (core uid : Nat) (s : State) : Host.Outcome State Fault Refusal := .next (s.granted core uid)

/-- GRANT_REQUEST_RETRY (R292). -/
def State.retryGrant (s : State) (k uid : Nat) : State :=
  match s.msg? k uid with
  | some m => if m.st = .retryGrant && s.msgDue k m then s.requestGrant k m else s
  | none => s

/-- GRANT_REQUEST_RETRY (R292). -/
def execGrantRequestRetry (core uid : Nat) (s : State) : Host.Outcome State Fault Refusal := .next (s.retryGrant core uid)

/-- REFUSAL_WORD_PUSH (R291): a refusal word enters q30 of the sending core once it has room, and the entry is freed. -/
def State.pushRefusal (s : State) (k : Nat) : State :=
  let m? := (s.core k).window.findSome? (fun m => match m.st with
    | .refused c => some (m, c)
    | _ => none)
  match m? with
  | none => s
  | some (m, cause) =>
    if (s.chan k 30).free = 0 then s.plan (.refusalWordPush k)
    else (s.append k 30 [refusalWord k m cause]).leaveWindow k m.uid

/-- REFUSAL_WORD_PUSH (R291). -/
def execRefusalWordPush (core : Nat) (s : State) : Host.Outcome State Fault Refusal := .next (s.pushRefusal core)

/-- PROXY_RETURN (R27, R28): the service core returns a message in the proxy's input to its sender and records the
source. -/
def State.proxyReturn (s : State) (k uid : Nat) : State :=
  match s.msg? k uid with
  | some m =>
    let clu := cluKey m.dst
    let i := idxOf m.dst
    if m.st = .atProxy && (s.cluster clu).proxyIn.contains (i, k, uid) then
      let s := s.modCluster clu (fun c => { c with
        proxyIn := c.proxyIn.filter (fun e => e != (i, k, uid)),
        returned := if c.returned.contains (i, k) then c.returned else c.returned ++ [(i, k)] })
      (s.modMsg k uid (fun m => { m with st := .nacked true })).plan (.nackReceived k uid)
    else s
  | none => s

/-- PROXY_RETURN (R27). -/
def execProxyReturn (core uid : Nat) (s : State) : Host.Outcome State Fault Refusal := .next (s.proxyReturn core uid)

end Sys2Proof.Machine
end

