-- ==== Sys2Proof/Machine/Atomic.lean ====
section
/-! DEFINITION. Atomic read-modify-write operations (R110, R118) as functions of values, and one performed at its home. -/

namespace Sys2Proof.Machine

/-- The new value of an atomic of width w from old value m, operand b and comparand e (R118). -/
def amoFn {w : Nat} (op : AmoOp) (m b e : BitVec w) : BitVec w :=
  match op with
  | .add => m + b
  | .swap => b
  | .and => m &&& b
  | .or => m ||| b
  | .xor => m ^^^ b
  | .min => if m.slt b then m else b
  | .max => if m.slt b then b else m
  | .minu => if m.ult b then m else b
  | .maxu => if m.ult b then b else m
  | .cas => if m = e then b else m

/-- The new value of a word or doubleword as bytes, the value returned, and whether the operation writes (R118). -/
def amoStep (op : AmoOp) (dbl : Bool) (old : List Byte) (b e : Word) : List Byte × Word × Bool :=
  if dbl then
    let m : Word := BitVec.ofNat 64 (leNat old)
    (leBytes 8 (amoFn op m b e).toNat, m, op ≠ .cas || m = e)
  else
    let m : BitVec 32 := BitVec.ofNat 32 (leNat old)
    let e' : BitVec 32 := e.setWidth 32
    (leBytes 4 (amoFn op m (b.setWidth 32) e').toNat, m.signExtend 64, op ≠ .cas || m = e')

/-- An atomic of context n of core k at its places: the old value, and the state after it. A failing cas writes nothing. -/
def State.amoAt (s : State) (k n : Nat) (ls : List Loc) (op : AmoOp) (dbl : Bool) (b e : Word) : Word × State :=
  let r := amoStep op dbl (ls.map s.byteAt) b e
  (r.2.1, if r.2.2 then s.perform k n (ls.zip r.1) else s)

/-- The standard operations as AMOQ operations (R110). -/
def StdAmo.amo : StdAmo → AmoOp
  | .add => .add | .swap => .swap | .and => .and | .or => .or | .xor => .xor | .min => .min | .max => .max
  | .minu => .minu | .maxu => .maxu

end Sys2Proof.Machine
end

