-- ==== Sys2Proof/Machine/Num.lean ====
section
/-! DEFINITION. Number formats and arithmetic (chapter 02, R37-R62): exact values, one rounding per result. -/

namespace Sys2Proof.Machine

/-- Element types (R37). -/
inductive ElemTy where
  | i8 | i16 | i32 | i64 | n8 | n16 | n32 | n64 | bf16 | f32 | e4m3 | e5m2 | e2m1 | i4 | e3m5
deriving DecidableEq, Repr

/-- The type of a 4-bit code (R37); 0xF is reserved. -/
def ElemTy.ofCode : Nat → Option ElemTy
  | 0 => some .i8 | 1 => some .i16 | 2 => some .i32 | 3 => some .i64
  | 4 => some .n8 | 5 => some .n16 | 6 => some .n32 | 7 => some .n64
  | 8 => some .bf16 | 9 => some .f32 | 10 => some .e4m3 | 11 => some .e5m2 | 12 => some .e2m1
  | 13 => some .i4 | 14 => some .e3m5
  | _ => none

/-- Width in bits (R37). -/
def ElemTy.width : ElemTy → Nat
  | .i8 | .n8 | .e4m3 | .e5m2 | .e3m5 => 8
  | .i16 | .n16 | .bf16 => 16
  | .i32 | .n32 | .f32 => 32
  | .i64 | .n64 => 64
  | .e2m1 | .i4 => 4

/-- A floating-point type (R38, R40). -/
def ElemTy.isFloat : ElemTy → Bool
  | .bf16 | .f32 | .e4m3 | .e5m2 | .e2m1 | .e3m5 => true
  | _ => false

/-- A signed integer type (R42). -/
def ElemTy.isSigned : ElemTy → Bool
  | .i8 | .i16 | .i32 | .i64 | .i4 => true
  | _ => false

/-- The parameters of a floating-point format (R38, R40): mantissa width, bias, code of the largest finite magnitude,
whether it has infinities, sign bit. -/
structure Fmt where
  man : Nat
  bias : Nat
  maxCode : Nat
  hasInf : Bool
  signed : Bool
deriving DecidableEq, Repr

def Fmt.fp32 : Fmt := { man := 23, bias := 127, maxCode := 0x7F7FFFFF, hasInf := true, signed := true }
def Fmt.bf16 : Fmt := { man := 7, bias := 127, maxCode := 0x7F7F, hasInf := true, signed := true }
def Fmt.e5m2 : Fmt := { man := 2, bias := 15, maxCode := 0x7B, hasInf := true, signed := true }
def Fmt.e4m3 : Fmt := { man := 3, bias := 7, maxCode := 0x7E, hasInf := false, signed := true }
def Fmt.e2m1 : Fmt := { man := 1, bias := 1, maxCode := 7, hasInf := false, signed := true }
def Fmt.e3m5 : Fmt := { man := 5, bias := 7, maxCode := 0xFF, hasInf := false, signed := false }

/-- The format of a floating-point type. -/
def ElemTy.fmt : ElemTy → Fmt
  | .bf16 => .bf16 | .e4m3 => .e4m3 | .e5m2 => .e5m2 | .e2m1 => .e2m1 | .e3m5 => .e3m5
  | _ => .fp32

/-- An exact value: NaN, an infinity, or (−1)^neg × mant × 2^exp. -/
inductive FV where
  | nan
  | inf (neg : Bool)
  | fin (neg : Bool) (mant : Nat) (exp : Int)
deriving DecidableEq, Repr

def FV.isNan : FV → Bool
  | .nan => true
  | _ => false

/-- The sign of a value that is not NaN. -/
def FV.sign : FV → Bool
  | .nan => false
  | .inf n => n
  | .fin n _ _ => n

def FV.isZero : FV → Bool
  | .fin _ 0 _ => true
  | _ => false

def FV.neg : FV → FV
  | .nan => .nan
  | .inf n => .inf !n
  | .fin n m e => .fin (!n) m e

def FV.abs : FV → FV
  | .nan => .nan
  | .inf _ => .inf false
  | .fin _ m e => .fin false m e

/-- The exact value of a floating-point code (R38-R40). -/
def fval (t : ElemTy) (code : Nat) : FV :=
  let f := t.fmt
  let neg := f.signed && code.testBit (t.width - 1)
  let mag := if f.signed then code % 2 ^ (t.width - 1) else code
  let e := mag / 2 ^ f.man
  let m := mag % 2 ^ f.man
  if f.maxCode < mag then (if f.hasInf && m = 0 then .inf neg else .nan)
  else if e = 0 then .fin neg m (1 - (f.bias : Int) - f.man)
  else .fin neg (m + 2 ^ f.man) ((e : Int) - f.bias - f.man)

/-- The value of an integer code (R42). -/
def ival (t : ElemTy) (code : Nat) : Int :=
  if t.isSigned && code.testBit (t.width - 1) then (code : Int) - 2 ^ t.width else code

def ElemTy.maxInt (t : ElemTy) : Int := if t.isSigned then 2 ^ (t.width - 1) - 1 else 2 ^ t.width - 1
def ElemTy.minInt (t : ElemTy) : Int := if t.isSigned then - 2 ^ (t.width - 1) else 0

/-- Clamp to the range of an integer type (R52). -/
def clampInt (t : ElemTy) (n : Int) : Int := if t.maxInt < n then t.maxInt else if n < t.minInt then t.minInt else n

/-- The code of an integer in w bits, wrapping (R52). -/
def wrapCode (w : Nat) (n : Int) : Nat := (n % (2 ^ w : Int)).toNat

/-- The code of an exact integer result: wrapped, or clamped when the saturate flag is set (R52, R55). -/
def intCode (t : ElemTy) (sat : Bool) (n : Int) : Nat := wrapCode t.width (if sat then clampInt t n else n)

/-- Rounding modes (R48). -/
inductive RMode where
  | rne | rtz | rdn | rup | rst
deriving DecidableEq, Repr

def RMode.ofCode : Nat → Option RMode
  | 0 => some .rne | 1 => some .rtz | 2 => some .rdn | 3 => some .rup | 4 => some .rst
  | _ => none

/-- xs_next (R50). -/
def xsNext (x : BitVec 32) : BitVec 32 :=
  let x := x ^^^ (x <<< 13)
  let x := x ^^^ (x >>> 17)
  x ^^^ (x <<< 5)

/-- Does a magnitude k + rem / 2^sh (0 < sh) round up to k + 1 (R48, R50)? -/
def roundsUp (mode : RMode) (rnd : BitVec 32) (neg : Bool) (k rem sh : Nat) : Bool :=
  match mode with
  | .rne => decide (2 ^ sh < 2 * rem) || (2 * rem = 2 ^ sh && k % 2 = 1)
  | .rtz => false
  | .rdn => neg && rem ≠ 0
  | .rup => !neg && rem ≠ 0
  | .rst => decide (rnd.toNat < rem * 2 ^ 32 / 2 ^ sh)

/-- A magnitude mant × 2^exp rounded to an integer multiple of 2^q. -/
def roundAt (mode : RMode) (rnd : BitVec 32) (neg : Bool) (mant : Nat) (exp q : Int) : Nat :=
  if q ≤ exp then mant * 2 ^ (exp - q).toNat
  else
    let sh := (q - exp).toNat
    let k := mant / 2 ^ sh
    let rem := mant % 2 ^ sh
    if roundsUp mode rnd neg k rem sh then k + 1 else k

/-- The magnitude code of a rounded magnitude, the exponent range taken as unbounded above (R49). -/
def magCode (f : Fmt) (mode : RMode) (rnd : BitVec 32) (neg : Bool) (mant : Nat) (exp : Int) : Nat :=
  if mant = 0 then 0
  else
    let top : Int := (Nat.log2 mant : Int) + exp
    let emin : Int := 1 - (f.bias : Int)
    let q : Int := (if top < emin then emin else top) - f.man
    let k := roundAt mode rnd neg mant exp q
    (q - (emin - f.man)).toNat * 2 ^ f.man + k

/-- The code of an infinity or of an overflow of the format (R49, R54); above says which. -/
def infCode (t : ElemTy) (mode : RMode) (sat neg above : Bool) : Nat :=
  let f := t.fmt
  let s := if neg then 2 ^ (t.width - 1) else 0
  match t with
  | .e4m3 => if sat then s + 0x7E else 0x7F
  | .e2m1 => s + 7
  | .e3m5 => if neg then 0 else 0xFF
  | _ =>
    let toMax := above && (sat || (match mode with
      | .rne | .rst => false
      | .rtz => true
      | .rdn => !neg
      | .rup => neg))
    if toMax then s + f.maxCode else s + f.maxCode + 1

/-- The canonical NaN, or what a format without NaN takes for it (R45, R54). -/
def nanCode : ElemTy → Nat
  | .f32 => 0x7FC00000 | .bf16 => 0x7FC0 | .e5m2 => 0x7E | .e4m3 => 0x7F
  | _ => 0

/-- The code of an exact value rounded once to a floating-point type (R48-R50, R54). -/
def roundF (t : ElemTy) (mode : RMode) (sat : Bool) (rnd : BitVec 32) : FV → Nat
  | .nan => nanCode t
  | .inf neg => infCode t mode sat neg false
  | .fin neg mant exp =>
    let f := t.fmt
    if neg && !f.signed then 0
    else
      let c := magCode f mode rnd neg mant exp
      if f.maxCode < c then infCode t mode sat neg true
      else if neg then c + 2 ^ (t.width - 1) else c

/-- RNE to FP32 (R56). -/
def rne32 (v : FV) : Nat := roundF .f32 .rne false 0 v

/-- An exact value rounded to an integer by the mode (R53); none for NaN and infinities. -/
def roundInt (mode : RMode) (rnd : BitVec 32) : FV → Option Int
  | .fin neg mant exp =>
    let k : Int := roundAt mode rnd neg mant exp 0
    some (if neg then -k else k)
  | _ => none

/-- f2i (R53): the code of a value converted to an integer type. -/
def f2i (t : ElemTy) (mode : RMode) (sat : Bool) (rnd : BitVec 32) (v : FV) : Nat :=
  match v with
  | .nan => 0
  | .inf neg => wrapCode t.width (if neg then t.minInt else t.maxInt)
  | _ => match roundInt mode rnd v with
    | some n => intCode t sat n
    | none => 0

/-- An integer as an exact value. -/
def FV.ofInt (n : Int) : FV := .fin (n < 0) n.natAbs 0

/-- A sum of exact values; zero sums take their sign as R46 gives, and invalid sums are NaN (R45, R46). -/
def FV.add (mode : RMode) : FV → FV → FV
  | .nan, _ => .nan
  | _, .nan => .nan
  | .inf a, .inf b => if a = b then .inf a else .nan
  | .inf a, .fin _ _ _ => .inf a
  | .fin _ _ _, .inf b => .inf b
  | .fin na ma ea, .fin nb mb eb =>
    let e := if ea ≤ eb then ea else eb
    let a : Nat := ma * 2 ^ (ea - e).toNat
    let b : Nat := mb * 2 ^ (eb - e).toNat
    if na = nb then .fin na (a + b) e
    else if a = b then .fin (mode = .rdn) 0 e
    else if b < a then .fin na (a - b) e
    else .fin nb (b - a) e

/-- An exact product (R45, R46). -/
def FV.mul : FV → FV → FV
  | .nan, _ => .nan
  | _, .nan => .nan
  | .inf a, .inf b => .inf (a != b)
  | .inf a, .fin nb mb _ => if mb = 0 then .nan else .inf (a != nb)
  | .fin na ma _, .inf b => if ma = 0 then .nan else .inf (na != b)
  | .fin na ma ea, .fin nb mb eb => .fin (na != nb) (ma * mb) (ea + eb)

def FV.sub (mode : RMode) (a b : FV) : FV := a.add mode b.neg

/-- a × b + c, exact (R55). -/
def FV.fma (mode : RMode) (a b c : FV) : FV := (a.mul b).add mode c

/-- a < b for values that are not NaN; zeros compare equal. -/
def FV.lt : FV → FV → Bool
  | .nan, _ => false
  | _, .nan => false
  | .inf a, .inf b => a && !b
  | .inf a, .fin _ _ _ => a
  | .fin _ _ _, .inf b => !b
  | .fin na ma ea, .fin nb mb eb =>
    let e := if ea ≤ eb then ea else eb
    let a : Int := (ma * 2 ^ (ea - e).toNat : Nat)
    let b : Int := (mb * 2 ^ (eb - e).toNat : Nat)
    decide ((if na then -a else a) < (if nb then -b else b))

def FV.eqv (a b : FV) : Bool := !a.isNan && !b.isNan && !a.lt b && !b.lt a

/-- Maximum and minimum of two values; −0 ranks below +0 (R61). -/
def FV.max (a b : FV) : FV :=
  if a.isNan || b.isNan then .nan
  else if a.lt b then b else if b.lt a then a else if a.sign then b else a

def FV.min (a b : FV) : FV :=
  if a.isNan || b.isNan then .nan
  else if a.lt b then a else if b.lt a then b else if a.sign then a else b

/-- The sum of a list of terms, exact, with the rules of R57: NaN, infinities, and −0 only when every term is −0. -/
def FV.sum : List FV → FV
  | [] => .fin false 0 0
  | x :: r => r.foldl (FV.add .rne) x

/-- A conversion between element types (R52-R54), with the random value of the element. -/
def convCode (src dst : ElemTy) (mode : RMode) (sat : Bool) (rnd : BitVec 32) (code : Nat) : Nat :=
  if src.isFloat then
    if dst.isFloat then roundF dst mode sat rnd (fval src code) else f2i dst mode sat rnd (fval src code)
  else if dst.isFloat then roundF dst mode sat rnd (FV.ofInt (ival src code))
  else intCode dst sat (ival src code)

/-- Does a conversion draw random values (R50): a rounding to a float or from float to integer in stochastic mode. -/
def RMode.isRst : RMode → Bool
  | .rst => true
  | _ => false

/-- The n states of the generator after each advance, and the last one (R50). -/
def xsStates : Nat → BitVec 32 → List (BitVec 32) × BitVec 32
  | 0, x => ([], x)
  | n + 1, x =>
    let y := xsNext x
    let r := xsStates n y
    (y :: r.1, r.2)

end Sys2Proof.Machine
end

