-- ==== Sys2Proof/Machine/Command.lean ====
section
/-! DEFINITION. Engine commands (R81-R86, R174, R188-R196): the fields of a command word and of a record, shape records
and the places of their elements, the accesses of engines and how they stop, completion words. -/

namespace Sys2Proof.Machine

/-! Fields (R81). -/

/-- Operand slot i of a command word. -/
def cOp (w : CmdWord) (i : Nat) : Nat := (w.extractLsb' (32 * i) 32).toNat

def cOpcode (w : CmdWord) : Nat := bits w 7 0
def cNotify (w : CmdWord) : Bool := w.getLsbD 8
def cRel (w : CmdWord) : Bool := w.getLsbD 9
def cDet (w : CmdWord) : Bool := w.getLsbD 10
def cSat (w : CmdWord) : Bool := w.getLsbD 11
def cFlags (w : CmdWord) : Nat := bits w 15 12
def cFlag (w : CmdWord) (i : Nat) : Bool := w.getLsbD (12 + i)
def cScope (w : CmdWord) : Nat := bits w 18 16
def cChan (w : CmdWord) : Nat := bits w 23 19
def cCtx (w : CmdWord) : Nat := bits w 27 24

/-- The address in operand slots i and i + 1. -/
def cAddr (w : CmdWord) (i : Nat) : Word := BitVec.ofNat 64 (cOp w i + cOp w (i + 1) * 2 ^ 32)

/-- Bits [hi:lo] of operand slot i. -/
def cBits (w : CmdWord) (i hi lo : Nat) : Nat := cOp w i / 2 ^ lo % 2 ^ (hi + 1 - lo)

/-- Is the word's release wider than .core, so that the command does not start before earlier stores are acknowledged (R190, R238)? -/
def cWaitsStores (w : CmdWord) : Bool := cRel w && decide (1 ≤ cScope w)

/-- The header rules of R81 and R82 apart from ctx on matrix opcodes: which of det, sat and the cflags are defined. -/
def headerOk (w : CmdWord) (det sat : Bool) (cf : Nat) (matrix : Bool) : Bool :=
  bits w 31 28 = 0 && decide (cScope w ≤ 4) && (cNotify w || cChan w = 0) && (det || !cDet w) && (sat || !cSat w) &&
    (cFlags w &&& (15 - cf)) = 0 && (matrix || cCtx w = 0)

/-- The units of R83. -/
inductive EngUnit where
  | copy | matrix | sweep | coll
deriving DecidableEq, Repr

/-! Records. -/

/-- n bytes of a 64-byte record from byte i, little-endian. -/
def rBytes (r : Rec) (i n : Nat) : Nat := r.toNat / 2 ^ (8 * i) % 2 ^ (8 * n)

/-- Bits [hi:lo] counted from byte i of a record. -/
def rBits (r : Rec) (i hi lo : Nat) : Nat := r.toNat / 2 ^ (8 * i + lo) % 2 ^ (hi + 1 - lo)

/-! Shape records (R85, R86). -/

def shBase (r : Rec) : Word := r.extractLsb' 0 64
def shSize (r : Rec) (d : Nat) : Nat := rBytes r (8 + 2 * d) 2
def shStride (r : Rec) (d : Nat) : Int := (r.extractLsb' (128 + 32 * d) 32).toInt
def shValid (r : Rec) (d : Nat) : Nat := rBytes r (32 + 2 * d) 2
def shTypeCode (r : Rec) : Nat := rBits r 40 3 0
def shType (r : Rec) : ElemTy := (ElemTy.ofCode (shTypeCode r)).getD .i8
def shDims (r : Rec) : Nat := rBits r 40 5 4 + 1
def shPadEn (r : Rec) : Bool := rBits r 41 0 0 = 1
def shRoundCode (r : Rec) : Nat := rBits r 41 3 1
def shRound (r : Rec) : RMode := (RMode.ofCode (shRoundCode r)).getD .rne
def shSat (r : Rec) : Bool := rBits r 41 4 4 = 1
/-- The padding value, pad with pad_hi above it. -/
def shPad (r : Rec) : Nat := rBytes r 44 8

/-- The conditions of R86 on a record read at address a; legal says which type codes its role admits. -/
def shapeOk (a : Word) (legal : Nat → Bool) (r : Rec) : Bool :=
  let n := shDims r
  let w := (shType r).width
  bits a 5 0 = 0 && rBits r 40 7 6 = 0 && rBits r 41 7 5 = 0 && rBytes r 42 2 = 0 && rBytes r 52 12 = 0 &&
    decide (shTypeCode r < 15) && legal (shTypeCode r) && decide (shRoundCode r < 5) && shPad r / 2 ^ w = 0 &&
    (natsFrom 0 4).all (fun d =>
      if d < n then shSize r d ≠ 0 else shSize r d = 0 && shStride r d = 0 && shValid r d = 0) &&
    (w ≠ 4 || shStride r 0 = 0) &&
    (if shPadEn r then (natsFrom 0 4).all (fun d => decide (shValid r d ≤ shSize r d))
     else (natsFrom 0 4).all (fun d => shValid r d = 0)) &&
    canonical (shBase r)

/-- n(R): the product of the used sizes (R192). -/
def shCount (r : Rec) : Nat := (natsFrom 0 (shDims r)).foldl (fun n d => n * shSize r d) 1

/-- The length of dimension d, 1 when unused. -/
def shLen (r : Rec) (d : Nat) : Nat := if d < shDims r then shSize r d else 1

/-- The indices of element k (R192). -/
def shIdx (r : Rec) (k : Nat) : List Nat :=
  let a := k / shLen r 0
  let b := a / shLen r 1
  [k % shLen r 0, a % shLen r 1, b % shLen r 2, b / shLen r 2]

/-- Is the element at some indices padding (R85)? -/
def shPadding (r : Rec) (idx : List Nat) : Bool :=
  shPadEn r && (natsFrom 0 (shDims r)).any (fun d => decide (shValid r d ≤ idx.getD d 0))

/-- The signed reading of a canonical address. -/
def vaInt (a : Word) : Int := a.toInt

/-- The address of the element at some indices; for the 4-bit types, of the byte that holds it (R85, R43). -/
def shAddr (r : Rec) (idx : List Nat) : Word :=
  let off : Int := (natsFrom 0 (shDims r)).foldl (fun a d => a + (idx.getD d 0 : Int) * shStride r d) 0
  let first : Int := if (shType r).width = 4 then (idx.getD 0 0 : Int) / 2 else 0
  BitVec.ofInt 64 (vaInt (shBase r) + off + first)

/-- Is the element at some indices in the high half of its byte? -/
def shNibble (r : Rec) (idx : List Nat) : Bool := (shType r).width = 4 && idx.getD 0 0 % 2 = 1

/-- Bytes an element takes. -/
def shBytes (r : Rec) : Nat := ((shType r).width + 7) / 8

/-- The dimensions of the elements that are not padding: counts and byte strides, a 4-bit row as its bytes. -/
def shBox (r : Rec) : List (Nat × Int) :=
  (natsFrom 0 (shDims r)).map (fun d =>
    let n := if shPadEn r then shValid r d else shSize r d
    if d = 0 && (shType r).width = 4 then ((n + 1) / 2, 1) else (n, shStride r d))

/-- The least and the greatest offset in a box of dimensions that none leaves empty. -/
def boxMin : List (Nat × Int) → Int
  | [] => 0
  | (n, st) :: r => (if st < 0 then ((n : Int) - 1) * st else 0) + boxMin r
def boxMax : List (Nat × Int) → Int
  | [] => 0
  | (n, st) :: r => (if st < 0 then 0 else ((n : Int) - 1) * st) + boxMax r

/-- Does some element of sz bytes of a box from address a touch the local window? -/
def boxTouches (sz : Nat) : List (Nat × Int) → Int → Bool
  | [], a => decide (-(sz : Int) < a) && decide (a < 65536)
  | (n, st) :: r, a =>
    if a + boxMax ((n, st) :: r) ≤ -(sz : Int) || 65536 ≤ a + boxMin ((n, st) :: r) then false
    else (natsFrom 0 n).any (fun i => boxTouches sz r (a + (i : Int) * st))

/-- The extent rule of R193. -/
def extentOk (r : Rec) : Bool :=
  let b := shBox r
  let a := vaInt (shBase r)
  if b.any (fun p => p.1 = 0) then true
  else if inWindow (shBase r) then decide (0 ≤ a + boxMin b) && decide (a + boxMax b + shBytes r ≤ 65536)
  else !boxTouches (shBytes r) b a

/-! Accesses of engines (R193, R361, R372). -/

/-- Why an engine stops at an access. -/
inductive EngErr where
  /-- The way to the place is not open. -/
  | closed
  | flt (acc : Acc) (f : Flt)

/-- The translator of a command. -/
def engWho (k : Nat) (h : CmdHead) : Who :=
  { core := k, bit := if 6 ≤ h.ctx then 2 else if isCompute k then h.slot % 2 else 0, super := h.super, engine := true }

/-- The places of a range an engine accesses. -/
def State.engPlaces (s : State) (k : Nat) (h : CmdHead) (acc : Acc) (va : Word) (len : Nat) : Except EngErr (List Loc) :=
  match s.places (engWho k h) acc va len with
  | .error f => .error (.flt acc f)
  | .ok ls =>
    match acc with
    | .load => if ls.all (s.wayOpen k) then .ok ls else .error .closed
    | _ => .ok ls

/-- The command as the requests of its accesses name it. -/
def CmdHead.name (h : CmdHead) : Nat × Nat × Nat := (cOpcode h.word, h.seq, h.ctx)

/-- The byte at a place as a command sees it: the stores in flight that its ISSUE released, and those of the context's commands
before it, lie over memory; a read performed early gives what it found (R190, R228, R236). -/
def State.engByte (s : State) (k : Nat) (h : CmdHead) (l : Loc) : Byte :=
  match s.earlyByte k h.ctx none l.key with
  | some v => v
  | none => s.seenBy (fun r => r.core = k && (h.sees.contains r.id || (r.ctx = 8 && (match r.cmd with
      | some c => c.2.2 = h.ctx
      | none => false)))) l

/-- len bytes read by an engine at their homes. -/
def State.engRead (s : State) (k : Nat) (h : CmdHead) (va : Word) (len : Nat) : Except EngErr (List Byte) :=
  (s.engPlaces k h .load va len).map (fun ls => ls.map (s.engByte k h))

/-- The lines that a command has written, which its completion word or notify brings (R174, R194, R354). -/
def State.noteLines (s : State) (k : Nat) (h : CmdHead) (ls : List Nat) : State :=
  let add (l : List Nat) : List Nat := ls.foldl (fun l a => insertNat a l) l
  if ls.isEmpty then s
  else s.modCore k (fun c => { c with
    copyQ := c.copyQ.map (fun (q : CopyCmd) => if q.hd.name = h.name then { q with lines := add q.lines } else q),
    mat := { c.mat with queue := c.mat.queue.map (fun (q : MatCmd) => if q.hd.name = h.name then { q with lines := add q.lines } else q) },
    collQ := c.collQ.map (fun (q : CollCmd) => if q.hd.name = h.name then { q with lines := add q.lines } else q),
    sweepQ := c.sweepQ.map (fun (q : SweepCmd) => if q.hd.name = h.name then { q with lines := add q.lines } else q) })

/-- Bytes stored for a command. -/
def State.engStore (s : State) (k : Nat) (h : CmdHead) (va : Word) (bs : List (Loc × Byte)) : State :=
  let keys := bs.map (fun b => b.1.key)
  let s := if (s.ctx k h.ctx).early.isEmpty then s
    else s.modCtx k h.ctx (fun c => { c with early := c.early.filter (fun e => e.base.isSome || !keys.contains e.key) })
  (s.storeFrom k 8 (some h.name) va bs).noteLines k h ((bs.filter (fun b => b.1.cacheable)).map (fun b => lineOf b.1.key))

/-- A 64-byte record read by an engine. -/
def State.engRec (s : State) (k : Nat) (h : CmdHead) (va : Word) : Except EngErr Rec :=
  (s.engRead k h va 64).map (fun bs => BitVec.ofNat 512 (leNat bs))

/-- Bytes stored by an engine. -/
def State.engWrite (s : State) (k : Nat) (h : CmdHead) (va : Word) (bs : List Byte) : Except EngErr State :=
  (s.engPlaces k h .store va bs.length).map (fun ls => s.engStore k h va (ls.zip bs))

/-- Element k of a record, as its code: the padding value for a padding element (R85, R199). -/
def State.engElem (s : State) (k : Nat) (h : CmdHead) (r : Rec) (e : Nat) : Except EngErr Nat :=
  let idx := shIdx r e
  let w := (shType r).width
  if shPadding r idx then .ok (shPad r % 2 ^ w)
  else (s.engRead k h (shAddr r idx) (shBytes r)).map (fun bs =>
    if w = 4 then (if shNibble r idx then leNat bs / 16 else leNat bs % 16) else leNat bs)

/-- n elements of a record from element e on. -/
def State.engElems (s : State) (k : Nat) (h : CmdHead) (r : Rec) (e : Nat) : Nat → Except EngErr (List Nat)
  | 0 => .ok []
  | n + 1 =>
    match s.engElem k h r e with
    | .error x => .error x
    | .ok v => (s.engElems k h r (e + 1) n).map (fun l => v :: l)

/-- Write element e of a record: dropped for a padding element; a 4-bit element leaves the other half of its byte. -/
def State.engPut (s : State) (k : Nat) (h : CmdHead) (r : Rec) (e v : Nat) : Except EngErr State :=
  let idx := shIdx r e
  if shPadding r idx then .ok s
  else
    let va := shAddr r idx
    if (shType r).width = 4 then
      (s.engPlaces k h .store va 1).map (fun ls => s.engStore k h va (ls.map (fun l =>
        let old := (s.engByte k h l).toNat
        (l, BitVec.ofNat 8 (if shNibble r idx then old % 16 + 16 * v else old / 16 * 16 + v)))))
    else s.engWrite k h va (leBytes (shBytes r) v)

/-- The first error of writing elements e, e + 1, ...; nothing is written unless all can be (R193: a row at a time). -/
def State.engCheck (s : State) (k : Nat) (h : CmdHead) (r : Rec) (es : List Nat) : Option EngErr :=
  es.findSome? (fun e =>
    let idx := shIdx r e
    if shPadding r idx then none
    else match s.engPlaces k h .store (shAddr r idx) (shBytes r) with
      | .error x => some x
      | .ok _ => none)

/-- Write a run of elements of a record. -/
def State.engPuts (s : State) (k : Nat) (h : CmdHead) (r : Rec) (evs : List (Nat × Nat)) : Except EngErr State :=
  match s.engCheck k h r (evs.map (·.1)) with
  | some x => .error x
  | none => .ok (evs.foldl (fun s p => match s.engPut k h r p.1 p.2 with
    | .ok s' => s'
    | .error _ => s) s)

/-! How a command stops (R361, R372, R175, R196). -/

/-- What an engine does at an error of an access. -/
inductive EngStop where
  | again
  | hold (h : Held)
  | park (va : Word)
  | fail (cause : Nat) (addr : Word)
deriving DecidableEq, Repr

def EngErr.stop : EngErr → EngStop
  | .closed => .again
  | .flt acc f =>
    if isW f.cause then .hold { va := f.addr, acc := acc.code, perm := f.info.getLsbD 0 }
    else if f.parks then .park f.addr
    else .fail f.cause f.addr

/-- The two-word engine fault message to q27 of the service core (R361); unit: 0 copy, 1 matrix, 2 collective (DEDUCED, log entry 48). -/
def State.faultMessage (s : State) (k unit n : Nat) (h : Held) : State :=
  let w1 := mhartid k % 2 ^ 32 + n * 2 ^ 32 + h.acc * 2 ^ 35 + unit * 2 ^ 37 + (if h.perm then 2 ^ 39 else 0)
  s.sendHw k n (svcFor k) 27 [h.va, BitVec.ofNat 64 w1] .hardware

/-- The cause of a held fault when it is passed on (R361, R363). -/
def Held.cause (h : Held) : Nat := if h.acc = 0 then cLOAD_PAGE_FAULT else cSTORE_PAGE_FAULT

/-- Have the stores that the command's release waits for been acknowledged (R190)? -/
def State.released (s : State) (h : CmdHead) : Bool := !s.reqs.any (fun r => h.after.contains r.id)

/-- Has every store of the core's engines been acknowledged? -/
def State.engHome (s : State) (k : Nat) : Bool := (s.storesOf k 8).isEmpty

/-- The completion word (R174, R194). -/
def completionWord (payload seq status acc opcode : Nat) : Word :=
  BitVec.ofNat 64 (payload * 2 ^ 32 + seq % 65536 * 2 ^ 16 + status * 2 ^ 10 + acc * 2 ^ 8 + opcode)

/-- Send a command's completion word when notify is 1 (R174, R194); a pop of it acquires the lines written. -/
def State.sendCompletion (s : State) (k : Nat) (h : CmdHead) (payload status acc : Nat) (lines : List Nat) : State :=
  if cNotify h.word then
    s.sendHwWith k h.ctx k (cChan h.word) [completionWord payload h.seq status acc (cOpcode h.word)] (.completion (cOpcode h.word)) lines
  else s

/-- The head of a command accepted from the executing context. -/
def State.newHead (s : State) (w : CmdWord) (seq : Nat) : CmdHead :=
  { word := w, seq := seq, ctx := s.curCtx, slot := s.cur.slot, super := s.cur.super,
    after := if cWaitsStores w then s.storesOf s.curCore s.curCtx ++ (s.cur.seen.filter (fun i => s.reqs.any (fun r => r.id = i && r.live)))
      else [],
    sees := s.liveOf s.curCore s.curCtx }

/-- The scope of a command word's release (R190). -/
def cRelScope (w : CmdWord) : Scope :=
  if !cRel w then .core
  else match cScope w with
    | 1 => .clu | 2 => .chp | 3 => .mod | 4 => .sys
    | _ => .core

/-- An accepted ISSUE is a release and a fence for the command's accesses (R190, R233): observers of the core see what it covers,
and reads of engines performed early end that it orders. -/
def State.issued (s : State) (w : CmdWord) : State :=
  let s := s.letOut s.curCore s.curCtx
  if s.cur.early.isEmpty then s
  else s.modCur (fun c => { c with early := c.early.filter (fun e => e.base.isSome || e.outlives s.curCore (cRelScope w) none) })

/-- An ISSUE of the word w waits: it keeps the word that it has read and will repeat the unit's steps (R189). -/
def State.issueWaits (s : State) (w : CmdWord) (why : Wait) : State :=
  (s.modCur (fun c => { c with cmdRead := some w })).block why

/-- ISSUE finds no entry for its command (R189): a handler traps, a strand waits. -/
def State.queueFull (s : State) (w : CmdWord) : State := s.notInHandler (fun s => s.issueWaits w .engine)

/-- The event in which a unit works on a command, by opcode (R83). -/
def cmdEvent (op : Nat) (r : CmdRef) : Option Instr :=
  match op with
  | 0x01 => some (.cpy r) | 0x02 => some (.cpyn r) | 0x03 => some (.gather r) | 0x04 => some (.scatter r)
  | 0x05 => some (.mcastRect r) | 0x06 => some (.mcastList r) | 0x07 => some (.fill r) | 0x08 => some (.ringput r)
  | 0x09 => some (.streamin r) | 0x0A => some (.streamout r) | 0x0C => some (.l2pinfill r)
  | 0x20 => some (.mfmt r) | 0x21 => some (.mzero r) | 0x22 => some (.mldacc r) | 0x23 => some (.mstacc r)
  | 0x24 => some (.mcfgring r) | 0x25 => some (.mringstat r) | 0x28 => some (.mmaBf16 r) | 0x29 => some (.mmaE4m3 r)
  | 0x2A => some (.mmaE5m2 r) | 0x2B => some (.mmaE4e5 r) | 0x2C => some (.mmaE2m1 r) | 0x2D => some (.mmaI8 r)
  | 0x2E => some (.mmaI8w4 r) | 0x50 => some (.smap r) | 0x51 => some (.sbin r) | 0x52 => some (.sred r)
  | 0x53 => some (.scvt r) | 0x54 => some (.snorm r) | 0x55 => some (.sperm r) | 0xA0 => some (.asopen r)
  | 0xA1 => some (.asub r) | 0xA2 => some (.asclose r) | 0xA3 => some (.apart r) | 0xA4 => some (.amcfg r)
  | 0xA5 => some (.amread r) | 0xC0 => some (.nred r) | 0xC1 => some (.nallred r) | 0xC2 => some (.nbcast r)
  | 0xC3 => some (.nbar r)
  | _ => none

/-- Plan the work on a command. -/
def State.planCmd (s : State) (k : Nat) (h : CmdHead) : State :=
  match cmdEvent (cOpcode h.word) { core := k, seq := h.seq } with
  | some i => s.plan i
  | none => s

/-- Commands of context n that wait on a translation fault go on as f says, and are planned again (R363). -/
def State.settleHeld (s : State) (k n : Nat) (f : Held → CmdState) : State :=
  let step (h : CmdHead) (st : CmdState) : CmdState := match st with
    | .held x => if h.ctx = n then f x else st
    | _ => st
  let hit (h : CmdHead) (st : CmdState) : Bool := match st with
    | .held _ => h.ctx = n
    | _ => false
  let c := s.core k
  let heads := (c.mat.queue.filter (fun q => hit q.hd q.st)).map (·.hd) ++ (c.copyQ.filter (fun q => hit q.hd q.st)).map (·.hd) ++
    (c.collQ.filter (fun q => hit q.hd q.st)).map (·.hd) ++ (c.sweepQ.filter (fun q => hit q.hd q.st)).map (·.hd)
  if heads.isEmpty then s
  else
    let s := s.modCore k (fun c => { c with
      mat := { c.mat with queue := c.mat.queue.map (fun (q : MatCmd) => { q with st := step q.hd q.st }) },
      copyQ := c.copyQ.map (fun (q : CopyCmd) => { q with st := step q.hd q.st }),
      collQ := c.collQ.map (fun (q : CollCmd) => { q with st := step q.hd q.st }),
      sweepQ := c.sweepQ.map (fun (q : SweepCmd) => { q with st := step q.hd q.st }) })
    heads.foldl (fun s h => s.planCmd k h) s

/-- The engine fault messages of a context's held commands, sent again (R363). -/
def State.repeatFaults (s : State) (k n : Nat) : State :=
  let c := s.core k
  let of (unit : Nat) (h : CmdHead) (st : CmdState) : List (Nat × Held) := match st with
    | .held x => if h.ctx = n then [(unit, x)] else []
    | _ => []
  let all := c.copyQ.flatMap (fun q => of 0 q.hd q.st) ++ c.mat.queue.flatMap (fun q => of 1 q.hd q.st) ++
    c.collQ.flatMap (fun q => of 2 q.hd q.st) ++ c.sweepQ.flatMap (fun q => of 2 q.hd q.st)
  all.foldl (fun s u => s.faultMessage k u.1 n u.2) s

end Sys2Proof.Machine
end

