-- ==== Sys2Proof/Machine/Scalar.lean ====
section
/-! DEFINITION. The scalar base and its extensions (R106, R252) and the bit-field and funnel instructions (R112-R115). -/

namespace Sys2Proof.Machine

/-! Arithmetic of the base (R106). -/

/-- A 32-bit result sign-extended to 64 bits. -/
def sext32 (v : BitVec 32) : Word := v.signExtend 64

/-- The low 32 bits. -/
def lo32 (v : Word) : BitVec 32 := v.setWidth 32

/-- Leading zeros of an n-bit value. -/
def clzNat (n v : Nat) : Nat := if v = 0 then n else n - 1 - Nat.log2 v

/-- Trailing zeros of an n-bit value, searched from bit i on. -/
def ctzFrom (v : Nat) : Nat → Nat → Nat
  | 0, i => i
  | f + 1, i => if v.testBit i then i else ctzFrom v f (i + 1)

/-- Ones among the n low bits of a value. -/
def popNat (n v : Nat) : Nat := ((natsFrom 0 n).filter v.testBit).length

/-- Signed division of the base: by zero −1, overflow wraps. -/
def divS {n : Nat} (a b : BitVec n) : BitVec n := if b = 0 then -1 else a.sdiv b

/-- Unsigned division: by zero all ones. -/
def divU {n : Nat} (a b : BitVec n) : BitVec n := if b = 0 then -1 else a.udiv b

/-- Signed remainder: by zero the dividend. -/
def remS {n : Nat} (a b : BitVec n) : BitVec n := if b = 0 then a else a.srem b

/-- Unsigned remainder: by zero the dividend. -/
def remU {n : Nat} (a b : BitVec n) : BitVec n := if b = 0 then a else a.umod b

/-- The high half of a 128-bit product. -/
def highHalf (a b : BitVec 128) : Word := (a * b).extractLsb' 64 64

/-- 0 or 1. -/
def ofBit (b : Bool) : Word := if b then 1 else 0

/-- orc.b: a byte is all ones when it is not zero. -/
def orcB (v : Word) : Word :=
  BitVec.ofNat 64 ((natsFrom 0 8).foldl (fun r i => if v.toNat / 256 ^ i % 256 = 0 then r else r + 255 * 256 ^ i) 0)

/-- rev8: the bytes in reverse order. -/
def rev8 (v : Word) : Word :=
  BitVec.ofNat 64 ((natsFrom 0 8).foldl (fun r i => r * 256 + v.toNat / 256 ^ i % 256) 0)

/-- A word operand zero-extended from 32 bits. -/
def zlo (v : Word) : Word := (lo32 v).setWidth 64

def ImmOp.eval (o : ImmOp) (a : Word) (imm : BitVec 12) : Word :=
  let i := sx imm
  match o with
  | .addi => a + i
  | .slti => ofBit (a.slt i)
  | .sltiu => ofBit (a.ult i)
  | .xori => a ^^^ i
  | .ori => a ||| i
  | .andi => a &&& i
  | .addiw => sext32 (lo32 (a + i))

def Shift6Op.eval (o : Shift6Op) (a : Word) (n : Nat) : Word :=
  match o with
  | .slli => a <<< n
  | .srli => a >>> n
  | .srai => a.sshiftRight n
  | .rori => a.rotateRight n
  | .bclri => a &&& ~~~((1 : Word) <<< n)
  | .bexti => ofBit (a.getLsbD n)
  | .binvi => a ^^^ ((1 : Word) <<< n)
  | .bseti => a ||| ((1 : Word) <<< n)
  | .slliUw => zlo a <<< n

def Shift5Op.eval (o : Shift5Op) (a : Word) (n : Nat) : Word :=
  match o with
  | .slliw => sext32 (lo32 a <<< n)
  | .srliw => sext32 (lo32 a >>> n)
  | .sraiw => sext32 ((lo32 a).sshiftRight n)
  | .roriw => sext32 ((lo32 a).rotateRight n)

def UnOp.eval (o : UnOp) (a : Word) : Word :=
  match o with
  | .clz => BitVec.ofNat 64 (clzNat 64 a.toNat)
  | .ctz => BitVec.ofNat 64 (ctzFrom a.toNat 64 0)
  | .cpop => BitVec.ofNat 64 (popNat 64 a.toNat)
  | .clzw => BitVec.ofNat 64 (clzNat 32 (lo32 a).toNat)
  | .ctzw => BitVec.ofNat 64 (ctzFrom (lo32 a).toNat 32 0)
  | .cpopw => BitVec.ofNat 64 (popNat 32 (lo32 a).toNat)
  | .sextB => (a.setWidth 8).signExtend 64
  | .sextH => (a.setWidth 16).signExtend 64
  | .zextH => (a.setWidth 16).setWidth 64
  | .orcB => orcB a
  | .rev8 => rev8 a

def RegOp.eval (o : RegOp) (a b : Word) : Word :=
  let n := bits b 5 0
  let m := bits b 4 0
  match o with
  | .add => a + b
  | .sub => a - b
  | .sll => a <<< n
  | .slt => ofBit (a.slt b)
  | .sltu => ofBit (a.ult b)
  | .xor => a ^^^ b
  | .srl => a >>> n
  | .sra => a.sshiftRight n
  | .or => a ||| b
  | .and => a &&& b
  | .addw => sext32 (lo32 a + lo32 b)
  | .subw => sext32 (lo32 a - lo32 b)
  | .sllw => sext32 (lo32 a <<< m)
  | .srlw => sext32 (lo32 a >>> m)
  | .sraw => sext32 ((lo32 a).sshiftRight m)
  | .mul => a * b
  | .mulh => highHalf (a.signExtend 128) (b.signExtend 128)
  | .mulhsu => highHalf (a.signExtend 128) (b.setWidth 128)
  | .mulhu => highHalf (a.setWidth 128) (b.setWidth 128)
  | .div => divS a b
  | .divu => divU a b
  | .rem => remS a b
  | .remu => remU a b
  | .mulw => sext32 (lo32 a * lo32 b)
  | .divw => sext32 (divS (lo32 a) (lo32 b))
  | .divuw => sext32 (divU (lo32 a) (lo32 b))
  | .remw => sext32 (remS (lo32 a) (lo32 b))
  | .remuw => sext32 (remU (lo32 a) (lo32 b))
  | .addUw => zlo a + b
  | .sh1add => (a <<< 1) + b
  | .sh2add => (a <<< 2) + b
  | .sh3add => (a <<< 3) + b
  | .sh1addUw => (zlo a <<< 1) + b
  | .sh2addUw => (zlo a <<< 2) + b
  | .sh3addUw => (zlo a <<< 3) + b
  | .andn => a &&& ~~~b
  | .orn => a ||| ~~~b
  | .xnor => ~~~(a ^^^ b)
  | .max => if a.slt b then b else a
  | .maxu => if a.ult b then b else a
  | .min => if b.slt a then b else a
  | .minu => if b.ult a then b else a
  | .rol => a.rotateLeft n
  | .ror => a.rotateRight n
  | .rolw => sext32 ((lo32 a).rotateLeft m)
  | .rorw => sext32 ((lo32 a).rotateRight m)
  | .bclr => a &&& ~~~((1 : Word) <<< n)
  | .bext => ofBit (a.getLsbD n)
  | .binv => a ^^^ ((1 : Word) <<< n)
  | .bset => a ||| ((1 : Word) <<< n)
  | .czeroEqz => if b = 0 then 0 else a
  | .czeroNez => if b ≠ 0 then 0 else a

/-- The destination and the value of a computational instruction (R106). -/
def IntOp.result (o : IntOp) (c : Ctx) : Reg × Word :=
  match o with
  | .lui rd im => (rd, sx (im ++ (0 : BitVec 12)))
  | .auipc rd im => (rd, c.pc + sx (im ++ (0 : BitVec 12)))
  | .imm op rd rs1 im => (rd, ImmOp.eval op (c.rx rs1) im)
  | .shift6 op rd rs1 sh => (rd, Shift6Op.eval op (c.rx rs1) sh.toNat)
  | .shift5 op rd rs1 sh => (rd, Shift5Op.eval op (c.rx rs1) sh.toNat)
  | .un op rd rs1 => (rd, UnOp.eval op (c.rx rs1))
  | .reg op rd rs1 rs2 => (rd, RegOp.eval op (c.rx rs1) (c.rx rs2))

/-- RV_INTEGER_OP (R106). -/
def execRvIntegerOp (op : IntOp) (s : State) : Host.Outcome State Fault Refusal :=
  .next (s.done (IntOp.result op s.cur).1 (IntOp.result op s.cur).2)

/-! Control transfer (R252). -/

def BrCond.holds (c : BrCond) (a b : Word) : Bool :=
  match c with
  | .eq => a = b
  | .ne => a ≠ b
  | .lt => a.slt b
  | .ge => !a.slt b
  | .ltu => a.ult b
  | .geu => !a.ult b

/-- The pc moves to the target; a target that is not a multiple of 4 traps MISALIGNED_FETCH and writes no register. -/
def State.jump (s : State) (rd : Reg) (target : Word) : State :=
  if bits target 1 0 ≠ 0 then s.trap cMISALIGNED_FETCH target
  else s.modCur (fun c => { c.wx rd (c.pc + 4) with pc := target })

def State.branchJump (s : State) (j : BranchJump) : State :=
  let c := s.cur
  match j with
  | .branch cond rs1 rs2 off =>
    if BrCond.holds cond (c.rx rs1) (c.rx rs2) then s.jump 0 (c.pc + sx (off ++ (0 : BitVec 1))) else s.complete
  | .jal rd off => s.jump rd (c.pc + sx (off ++ (0 : BitVec 1)))
  | .jalr rd rs1 off => s.jump rd ((c.rx rs1 + sx off) &&& ~~~1)

/-- RV_BRANCH_JUMP (R252). -/
def execRvBranchJump (j : BranchJump) (s : State) : Host.Outcome State Fault Refusal := .next (s.branchJump j)

/-- ECALL (R252): ENV_CALL, epc after it, eaddr at it. -/
def execEcall (s : State) : Host.Outcome State Fault Refusal :=
  .next (s.takeTrap s.curCore s.curCtx cENV_CALL s.cur.pc 0 (s.cur.pc + 4))

/-- EBREAK (R252): BREAKPOINT, epc after it, eaddr at it. -/
def execEbreak (s : State) : Host.Outcome State Fault Refusal :=
  .next (s.takeTrap s.curCore s.curCtx cBREAKPOINT s.cur.pc 0 (s.cur.pc + 4))

/-- ILLEGAL_INSTRUCTION (R64): a word with no assigned encoding; eaddr is 0 (log entry 18, DEDUCED). -/
def execIllegalInstruction (_w : IWord) (s : State) : Host.Outcome State Fault Refusal := .next (s.trap cILLEGAL_INSTR 0)

/-- POOL_GUARD (R67, R88): a fetch that runs into a pool traps POOL_ENTERED, epc and eaddr at the guard. -/
def execPoolGuard (s : State) : Host.Outcome State Fault Refusal := .next (s.trap cPOOL_ENTERED s.cur.pc)

/-- The cause of a failed fetch (R216-R219, R223, R361). -/
def fetchCause : FetchFail → Nat
  | .page _ _ => cFETCH_PAGE_FAULT
  | .access => cFETCH_ACCESS
  | .multihit => cTLB_MULTIHIT
  | .poison => cPOISON_CONSUMED
  | .ecc => cL2_UNCORRECTABLE
  | .stripeDown => cSTRIPE_PEER_DOWN

/-- einfo of a failed fetch: the layout of R361 for a page fault, otherwise 0. -/
def fetchInfo : FetchFail → Word
  | .page perm stripe => pageInfo .fetch perm stripe
  | _ => 0

/-- INSTRUCTION_FETCH_FAULT (R361). -/
def execInstructionFetchFault (f : FetchFail) (addr : Word) (s : State) : Host.Outcome State Fault Refusal :=
  .next (s.trapInfo (fetchCause f) addr (fetchInfo f))

/-! Bit fields and funnel shifts (R112-R115). -/

/-- bf_ctl (R113): offset and width of a control value for n-bit operands, cut at the top bit. -/
def bfCtl (n c : Nat) : Nat × Nat :=
  let off := c % n
  let w := c / 256 % 64
  (off, if n - off < w then n - off else w)

/-- bfx and bfxu (R114) on n-bit values: the field of a, extended with its sign or with zeros to n bits. -/
def bfExtract (n : Nat) (signed : Bool) (a c : Nat) : Nat :=
  let p := bfCtl n c
  let f := a / 2 ^ p.1 % 2 ^ p.2
  if signed && p.2 ≠ 0 && f.testBit (p.2 - 1) then 2 ^ n - 2 ^ p.2 + f else f

/-- bfi (R114) on n-bit values: b inserted into the base a. -/
def bfInsert (n a b c : Nat) : Nat :=
  let p := bfCtl n c
  let old := a / 2 ^ p.1 % 2 ^ p.2
  a - old * 2 ^ p.1 + b % 2 ^ p.2 * 2 ^ p.1

/-- fsl and fsr (R115) on n-bit values: the pair hi, lo shifted by the amount's low bits. -/
def funnel (n : Nat) (left : Bool) (hi lo amt : Nat) : Nat :=
  let k := amt % n
  if k = 0 then (if left then hi else lo)
  else if left then (hi * 2 ^ k + lo / 2 ^ (n - k)) % 2 ^ n else (lo / 2 ^ k + hi * 2 ^ (n - k)) % 2 ^ n

/-- The low n bits of a register, and a result of width n sign-extended from bit 31 in the word forms. -/
def lowOf (n : Nat) (v : Word) : Nat := v.toNat % 2 ^ n
def ofWidth (n v : Nat) : Word := if n = 32 then sext32 (BitVec.ofNat 32 v) else BitVec.ofNat 64 v

/-- The scalar forms: n = 64, or 32 for the word forms (R113-R115). -/
def funnelReg (n : Nat) (left : Bool) (hi lo amt : Word) : Word :=
  ofWidth n (funnel n left (lowOf n hi) (lowOf n lo) amt.toNat)
def bfxReg (n : Nat) (signed : Bool) (a c : Word) : Word := ofWidth n (bfExtract n signed (lowOf n a) c.toNat)
def bfiReg (n : Nat) (a b c : Word) : Word := ofWidth n (bfInsert n (lowOf n a) b.toNat c.toNat)

/-- FSL (R115). -/
def execFsl (rd rs1 rs2 rs3 : Reg) (s : State) : Host.Outcome State Fault Refusal :=
  .next (s.done rd (funnelReg 64 true (s.rx rs1) (s.rx rs2) (s.rx rs3)))

/-- FSR (R115). -/
def execFsr (rd rs1 rs2 rs3 : Reg) (s : State) : Host.Outcome State Fault Refusal :=
  .next (s.done rd (funnelReg 64 false (s.rx rs1) (s.rx rs2) (s.rx rs3)))

/-- FSLW (R115). -/
def execFslw (rd rs1 rs2 rs3 : Reg) (s : State) : Host.Outcome State Fault Refusal :=
  .next (s.done rd (funnelReg 32 true (s.rx rs1) (s.rx rs2) (s.rx rs3)))

/-- FSRW (R115). -/
def execFsrw (rd rs1 rs2 rs3 : Reg) (s : State) : Host.Outcome State Fault Refusal :=
  .next (s.done rd (funnelReg 32 false (s.rx rs1) (s.rx rs2) (s.rx rs3)))

/-- BFI (R114): base x[rs1], value x[rs2], control x[rs3]. -/
def execBfi (rd rs1 rs2 rs3 : Reg) (s : State) : Host.Outcome State Fault Refusal :=
  .next (s.done rd (bfiReg 64 (s.rx rs1) (s.rx rs2) (s.rx rs3)))

/-- BFIW (R114). -/
def execBfiw (rd rs1 rs2 rs3 : Reg) (s : State) : Host.Outcome State Fault Refusal :=
  .next (s.done rd (bfiReg 32 (s.rx rs1) (s.rx rs2) (s.rx rs3)))

/-- BFX (R114). -/
def execBfx (rd rs1 rs2 : Reg) (s : State) : Host.Outcome State Fault Refusal :=
  .next (s.done rd (bfxReg 64 true (s.rx rs1) (s.rx rs2)))

/-- BFXU (R114). -/
def execBfxu (rd rs1 rs2 : Reg) (s : State) : Host.Outcome State Fault Refusal :=
  .next (s.done rd (bfxReg 64 false (s.rx rs1) (s.rx rs2)))

/-- BFXW (R114). -/
def execBfxw (rd rs1 rs2 : Reg) (s : State) : Host.Outcome State Fault Refusal :=
  .next (s.done rd (bfxReg 32 true (s.rx rs1) (s.rx rs2)))

/-- BFXUW (R114). -/
def execBfxuw (rd rs1 rs2 : Reg) (s : State) : Host.Outcome State Fault Refusal :=
  .next (s.done rd (bfxReg 32 false (s.rx rs1) (s.rx rs2)))

end Sys2Proof.Machine
end

