-- ==== Sys2Proof/Machine/Vector.lean ====
section
/-! DEFINITION. The vector engine (chapter 05): windows and their ports, the element types, the element-wise, reduction,
movement and special-function instructions. -/

namespace Sys2Proof.Machine

/-! vtype (R132-R134). -/

/-- The fields of vtype. -/
structure VT where
  ty : ElemTy
  mode : RMode
  sat : Bool
deriving DecidableEq, Repr

/-- A value that R80 accepts for vtype: a type 0x0-0xC, a rounding mode, and no reserved bit. -/
def vtypeOk (v : Word) : Bool := decide (bits v 3 0 < 13) && decide (bits v 6 4 < 5) && bits v 63 8 = 0

def VT.ofWord (v : Word) : VT :=
  { ty := (ElemTy.ofCode (bits v 3 0)).getD .f32, mode := (RMode.ofCode (bits v 6 4)).getD .rne, sat := v.getLsbD 7 }

def Ctx.vt (c : Ctx) : VT := VT.ofWord c.vtype

/-- The number of elements of width w in a register (R132). -/
def lanes (w : Nat) : Nat := 512 / w

/-- Element i of a register. -/
def velem (w : Nat) (v : VWord) (i : Nat) : Nat := v.toNat / 2 ^ (w * i) % 2 ^ w

/-- A register whose elements from 0 up are listed. -/
def vpack (w : Nat) (l : List Nat) : VWord := BitVec.ofNat 512 (l.foldr (fun e r => e % 2 ^ w + 2 ^ w * r) 0)

/-- The classes of element types of R134. -/
def ElemTy.isInt (t : ElemTy) : Bool := !t.isFloat
def ElemTy.isF8 : ElemTy → Bool
  | .e4m3 | .e5m2 => true
  | _ => false

def okArith (t : ElemTy) : Bool := t.isInt || t = .bf16 || t = .f32
def okInt (t : ElemTy) : Bool := t.isInt
def okField (t : ElemTy) : Bool := t.isInt && decide (16 ≤ t.width)
def okMove (t : ElemTy) : Bool := t ≠ .e2m1
def okFloat (t : ElemTy) : Bool := t = .bf16 || t = .f32

/-- Is element i enabled by the predicate (R135)? -/
def Ctx.enabled (c : Ctx) (m : MSel) (i : Nat) : Bool :=
  match m with
  | .none => true
  | .m1 => (c.rm 1).getLsbD i
  | .m2 => (c.rm 2).getLsbD i
  | .m3 => (c.rm 3).getLsbD i

/-! Windows and ports (R127, R131). -/

def Core.win (c : Core) (w : Nat) : Win := tget Win.empty w c.wins
def Core.modWin (c : Core) (w : Nat) (f : Win → Win) : Core := { c with wins := tset w (f (c.win w)) c.wins }

/-- The window that a residency slot holds. -/
def Core.heldBy (c : Core) (slot : Nat) : Option Nat := (natsFrom 0 2).find? (fun w => (c.win w).holder = some slot)

/-- The window reserved for a slot. -/
def Core.reservedFor (c : Core) (slot : Nat) : Option Nat := (natsFrom 0 2).find? (fun w => (c.win w).resv = some slot)

/-- The window of the executing context's group: handlers and service cores have none (R127). -/
def State.window (s : State) : Option Nat :=
  if isCompute s.curCore && s.cur.st = .strand then s.here.heldBy s.cur.slot else none

/-- The values of source fields in order: a register, or the next row of vin (R131). -/
def sources (regs : Tbl VWord) : List VReg → List VWord → List VWord
  | [], _ => []
  | v :: vs, rows =>
    if v = 30 then rows.headD 0 :: sources regs vs rows.tail else tget 0 v.toNat regs :: sources regs vs rows

/-- How many rows of vin the sources take. -/
def portReads (srcs : List VReg) : Nat := (srcs.filter (fun v => v = 30)).length

/-- A vector instruction on the group's window: legality (R127, R134, R269), the pending errors due at it, a copy error
when a port is named (R196), the ports (R131); then act, with the window and the values of the sources. An instruction that would
both wait for a port and trap in act waits first (DESIGN CHOICE, log entry 84). -/
def State.onWindowDue (s : State) (due : List PendKind) (legal : Bool) (srcs : List VReg) (out : Bool)
    (act : Nat → List VWord → State → State) : State :=
  match s.window with
  | none => s.trap cILLEGAL_INSTR 0
  | some w =>
    if !legal || !vtypeOk s.cur.vtype then s.trap cILLEGAL_INSTR 0
    else
      s.orPending (if out || portReads srcs ≠ 0 then .copy :: due else due) (fun s =>
        let win := s.here.win w
        if decide (win.vin.length < portReads srcs) || (out && decide (4 ≤ win.vout.length)) then s.block .vport
        else act w (sources win.regs srcs win.vin) s)

def State.onWindow (s : State) (legal : Bool) (srcs : List VReg) (out : Bool)
    (act : Nat → List VWord → State → State) : State := s.onWindowDue [] legal srcs out act

/-- The rows that the sources named are popped (R131). -/
def State.popRows (s : State) (w : Nat) (srcs : List VReg) : State :=
  if portReads srcs = 0 then s
  else (s.modHere (fun c => c.modWin w (fun x => { x with vin := x.vin.drop (portReads srcs) }))).wakeUnits s.curCore

/-- A write of a register removes it from the hold buffers of the contexts that name it (R138). -/
def Core.unhold (c : Core) (slot r : Nat) : Core :=
  if c.ctxs.all (fun e => e.2.hold.isEmpty) then c
  else c.mapCtxs (fun n x => if n < 6 && x.slot = slot then { x with hold := tdel r x.hold } else x)

/-- Write a register of the window, or push a row of vout (DEDUCED, log entry 44). -/
def State.writeV (s : State) (w : Nat) (vd : VReg) (v : VWord) : State :=
  if vd = 31 then (s.modHere (fun c => c.modWin w (fun x => { x with vout := x.vout ++ [v] }))).wakeUnits s.curCore
  else s.modHere (fun c => (c.modWin w (fun x => { x with regs := tset vd.toNat v x.regs })).unhold s.cur.slot vd.toNat)

/-- The hold buffer after an instruction that holds the registers hs (R138). -/
def State.holds (s : State) (hs : List VReg) : State :=
  if hs.isEmpty && s.cur.hold.isEmpty then s
  else s.modCur (fun c =>
    let aged := c.hold.filterMap (fun e => if 1 < e.2 then some (e.1, e.2 - 1) else none)
    { c with hold := hs.foldl (fun t h => tset h.toNat 2 t) aged })

/-- The registers that set hold bits name. -/
def heldRegs (l : List (Bool × VReg)) : List VReg := (l.filter (·.1)).map (·.2)

/-- The end of an instruction that writes a vector register or a port. -/
def State.vdone (s : State) (w : Nat) (srcs hs : List VReg) (vd : VReg) (v : VWord) : State :=
  (((s.popRows w srcs).holds hs).writeV w vd v).complete

/-- The old element that a disabled lane keeps: zero for a port (R135). -/
def Win.old (x : Win) (vd : VReg) : VWord := if vd = 31 then 0 else tget 0 vd.toNat x.regs

/-- The random values of n elements and the generator after them, when the operation rounds stochastically (R149). -/
def Ctx.draws (c : Ctx) (rounds : Bool) (n : Nat) : List (BitVec 32) × BitVec 32 :=
  if rounds && c.vt.mode.isRst then xsStates n c.rndseed else ([], c.rndseed)

/-- An element-wise instruction (R135, R140): f takes vtype, the element's random value, the old element and the source
elements. -/
def State.velems (s : State) (ok : ElemTy → Bool) (rounds : Bool) (m : MSel) (srcs hs : List VReg) (vd : VReg)
    (f : VT → BitVec 32 → Nat → List Nat → Nat) : State :=
  let c := s.cur
  let t := c.vt
  s.onWindow (ok t.ty) srcs (vd = 31) (fun w vals s =>
    let wd := t.ty.width
    let n := lanes wd
    let old := (s.here.win w).old vd
    let rnd := c.draws (rounds && t.ty.isFloat) n
    let res := (natsFrom 0 n).map (fun i =>
      if c.enabled m i then f t (rnd.1.getD i 0) (velem wd old i) (vals.map (fun v => velem wd v i)) else velem wd old i)
    (s.modCur (fun c => { c with rndseed := rnd.2 })).vdone w srcs hs vd (vpack wd res))

def VOps.srcs (o : VOps) : List VReg := [o.vs1, o.vs2]
def VOps.hs (o : VOps) : List VReg := heldRegs [(o.h1, o.vs1), (o.h2, o.vs2)]
def VUn.hs (o : VUn) : List VReg := heldRegs [(o.h1, o.vs1)]

/-- A binary element-wise instruction: f takes vtype, the random value, the old element, a and b. -/
def State.vbin (s : State) (ok : ElemTy → Bool) (rounds : Bool) (o : VOps)
    (f : VT → BitVec 32 → Nat → Nat → Nat → Nat) : State :=
  s.velems ok rounds o.msel (VOps.srcs o) (VOps.hs o) o.vd (fun t r old xs => f t r old (xs.getD 0 0) (xs.getD 1 0))

/-- A unary one. -/
def State.vun (s : State) (ok : ElemTy → Bool) (o : VUn) (f : VT → Nat → Nat) : State :=
  s.velems ok false o.msel [o.vs1] (VUn.hs o) o.vd (fun t _ _ xs => f t (xs.getD 0 0))

/-! Element results (R140-R143). -/

/-- A float result rounded to the element type by vtype (R55). -/
def VT.round (t : VT) (r : BitVec 32) (v : FV) : Nat := roundF t.ty t.mode t.sat r v

/-- A binary operation: exact on integers then wrapped or clamped, exact on floats then rounded once. -/
def arith2 (fi : Int → Int → Int) (ff : RMode → FV → FV → FV) (t : VT) (r : BitVec 32) (_old a b : Nat) : Nat :=
  if t.ty.isFloat then t.round r (ff t.mode (fval t.ty a) (fval t.ty b))
  else intCode t.ty t.sat (fi (ival t.ty a) (ival t.ty b))

def mulhE (t : VT) (_r : BitVec 32) (_old a b : Nat) : Nat :=
  wrapCode t.ty.width (ival t.ty a * ival t.ty b / 2 ^ t.ty.width)

/-- Minimum and maximum (R140, R61). -/
def maxE (t : VT) (_r : BitVec 32) (_old a b : Nat) : Nat :=
  if t.ty.isFloat then roundF t.ty .rne false 0 ((fval t.ty a).max (fval t.ty b))
  else if ival t.ty a < ival t.ty b then b else a
def minE (t : VT) (_r : BitVec 32) (_old a b : Nat) : Nat :=
  if t.ty.isFloat then roundF t.ty .rne false 0 ((fval t.ty a).min (fval t.ty b))
  else if ival t.ty b < ival t.ty a then b else a

def absE (t : VT) (a : Nat) : Nat :=
  if t.ty.isFloat then roundF t.ty .rne false 0 (fval t.ty a).abs else intCode t.ty t.sat ((ival t.ty a).natAbs : Int)
def negE (t : VT) (a : Nat) : Nat :=
  if t.ty.isFloat then roundF t.ty .rne false 0 (fval t.ty a).neg else intCode t.ty t.sat (-ival t.ty a)

/-- a × b + c (R141). -/
def fmaE (t : VT) (r : BitVec 32) (c a b : Nat) : Nat :=
  if t.ty.isFloat then t.round r (FV.fma t.mode (fval t.ty a) (fval t.ty b) (fval t.ty c))
  else intCode t.ty t.sat (ival t.ty a * ival t.ty b + ival t.ty c)

/-- An arithmetic right shift of a w-bit value. -/
def sraNat (w a n : Nat) : Nat := wrapCode w ((if a.testBit (w - 1) then (a : Int) - 2 ^ w else a) / 2 ^ n)

/-- A compare (R144): the bits of md for the enabled elements. -/
def State.vcompare (s : State) (o : VCmp) (rel : ElemTy → Nat → Nat → Bool) : State :=
  let c := s.cur
  let t := c.vt
  let srcs := [o.vs1, o.vs2]
  s.onWindow (okArith t.ty) srcs false (fun w vals s =>
    let wd := t.ty.width
    let n := lanes wd
    let bit (i : Nat) : Bool :=
      c.enabled o.msel i && rel t.ty (velem wd (vals.getD 0 0) i) (velem wd (vals.getD 1 0) i)
    let v := (natsFrom 0 n).foldl (fun r i => if bit i then r + 2 ^ i else r) 0
    let s := (s.popRows w srcs).holds (heldRegs [(o.h1, o.vs1), (o.h2, o.vs2)])
    (s.modCur (fun c => c.wm o.md (BitVec.ofNat 64 v))).complete)

def relEq (t : ElemTy) (a b : Nat) : Bool := if t.isFloat then (fval t a).eqv (fval t b) else a = b
def relLt (t : ElemTy) (a b : Nat) : Bool := if t.isFloat then (fval t a).lt (fval t b) else decide (ival t a < ival t b)
def relLe (t : ElemTy) (a b : Nat) : Bool :=
  if t.isFloat then (fval t a).lt (fval t b) || (fval t a).eqv (fval t b) else decide (ival t a ≤ ival t b)

/-! Reductions and scan (R146, R147, R60). -/

/-- One level of the tree: adjacent elements combined. -/
def pairUp {α : Type} (op : α → α → α) : List α → List α
  | x :: y :: r => op x y :: pairUp op r
  | l => l

/-- The tree of R60 over a list, in at most fuel levels. -/
def treeFold {α : Type} (op : α → α → α) : Nat → List α → List α
  | 0, l => l
  | n + 1, l => treeFold op n (pairUp op l)

/-- The sum of a register's elements (R60), a disabled element being −0 or 0. -/
def redSum (t : VT) (r : BitVec 32) (l : List (Option Nat)) : Nat :=
  if t.ty.isFloat then
    let vs := l.map (fun x => match x with
      | some a => fval t.ty a
      | none => .fin true 0 0)
    let add (a b : FV) : FV := fval .f32 (roundF .f32 t.mode t.sat r (a.add t.mode b))
    t.round r ((treeFold add 17 vs).headD (.fin true 0 0))
  else
    let vs := l.map (fun x => match x with
      | some a => a
      | none => 0)
    (treeFold (fun a b => intCode t.ty t.sat (ival t.ty a + ival t.ty b)) 17 vs).headD 0

/-- The extreme of the enabled elements of a group; the identity of R146 for an empty one. -/
def redPick (isMax : Bool) (t : VT) (l : List (Option Nat)) : Nat :=
  let f (a b : Nat) : Nat := if isMax then maxE t 0 0 a b else minE t 0 0 a b
  let op (x y : Option Nat) : Option Nat := match x, y with
    | some a, some b => some (f a b)
    | some a, none => some a
    | none, y => y
  match (treeFold op 17 l).headD none with
  | some a => if t.ty.isFloat then roundF t.ty .rne false 0 (fval t.ty a) else a
  | none => if t.ty.isFloat then roundF t.ty .rne false 0 (.inf isMax)
            else wrapCode t.ty.width (if isMax then t.ty.minInt else t.ty.maxInt)

/-- A list in groups of g, n groups. -/
def chunksOf {α : Type} (g : Nat) : Nat → List α → List (List α)
  | 0, _ => []
  | n + 1, l => l.take g :: chunksOf g n (l.drop g)

/-- A reduction or scan: f maps vtype, the random values and the elements (none where disabled) to the destination's
elements, the rest being zero. -/
def State.vreduce (s : State) (legal : ElemTy → Bool) (rounds : Bool) (o : VUn)
    (f : VT → List (BitVec 32) → List (Option Nat) → List Nat) : State :=
  let c := s.cur
  let t := c.vt
  s.onWindow (okArith t.ty && legal t.ty) [o.vs1] (o.vd = 31) (fun w vals s =>
    let wd := t.ty.width
    let n := lanes wd
    let rnd := c.draws (rounds && t.ty.isFloat) n
    let xs := (natsFrom 0 n).map (fun i => if c.enabled o.msel i then some (velem wd (vals.getD 0 0) i) else none)
    (s.modCur (fun c => { c with rndseed := rnd.2 })).vdone w [o.vs1] (VUn.hs o) o.vd (vpack wd (f t rnd.1 xs)))

def GroupSize.num : GroupSize → Nat
  | .g2 => 2 | .g4 => 4 | .g8 => 8 | .g16 => 16 | .g32 => 32

/-- The grouped reductions (R146). -/
def State.vgroup (s : State) (isMax : Bool) (g : GroupSize) (o : VUn) : State :=
  let k := GroupSize.num g
  s.vreduce (fun t => decide (k ≤ lanes t.width)) false o (fun t _ xs =>
    (chunksOf k (xs.length / k) xs).map (redPick isMax t))

/-- The inclusive prefix (R147, R60): out(0) is x(0), a NaN made canonical (R45) (DEDUCED, log entry 43). -/
def scanFrom (t : VT) : Option Nat → List (BitVec 32) → List (Option Nat) → List Nat
  | _, _, [] => []
  | acc, rs, x :: xs =>
    let v : Nat := x.getD (if t.ty.isFloat then 2 ^ (t.ty.width - 1) else 0)
    let y : Nat := match acc with
      | none => if t.ty.isFloat then roundF t.ty .rne false 0 (fval t.ty v) else v
      | some a => arith2 (· + ·) FV.add t (rs.headD 0) 0 a v
    y :: scanFrom t (some y) rs.tail xs

/-! Conversion (R145). -/

def State.vconvert (s : State) (ty : BitVec 4) (o : VUn) : State :=
  let c := s.cur
  let t := c.vt
  let dst := (ElemTy.ofCode ty.toNat).getD .f32
  s.onWindow (!(t.ty = .e2m1 && dst = .e2m1) && decide (ty.toNat < 13)) [o.vs1] (o.vd = 31) (fun w vals s =>
    let ws := t.ty.width
    let wd := dst.width
    let n := lanes (if ws < wd then wd else ws)
    let old := (s.here.win w).old o.vd
    let rnd := c.draws true n
    let res := (natsFrom 0 n).map (fun i =>
      if c.enabled o.msel i then convCode t.ty dst t.mode t.sat (rnd.1.getD i 0) (velem ws (vals.getD 0 0) i)
      else velem wd old i)
    (s.modCur (fun c => { c with rndseed := rnd.2 })).vdone w [o.vs1] (VUn.hs o) o.vd (vpack wd res))

/-! Special functions (R150-R153). -/

/-- The largest number of b bits, added to acc, that satisfies p. -/
def searchUp (p : Nat → Bool) : Nat → Nat → Nat
  | 0, acc => acc
  | b + 1, acc => searchUp p b (if p (acc + 2 ^ b) then acc + 2 ^ b else acc)

/-- EXP2TAB(j): the integer nearest to 2^(30 + j/64). -/
def exp2Tab (j : Nat) : Nat := searchUp (fun m => decide ((2 * m - 1) ^ 64 ≤ 2 ^ (1984 + j))) 32 0

/-- RCPTAB(j): the integer nearest to 2^38 ÷ (129 + 2j). -/
def rcpTab (j : Nat) : Nat := (2 ^ 39 + (129 + 2 * j)) / (2 * (129 + 2 * j))

/-- RSQTAB(j): the integer nearest to 2^31 ÷ √mid. -/
def rsqTab (j : Nat) : Nat :=
  searchUp (fun m => decide ((2 * m - 1) ^ 2 * (65 + 2 * (j % 32)) * 2 ^ (j / 32) ≤ 2 ^ 70)) 33 0

/-- round_out (R150): (−1)^neg × m × 2^e rounded by RNE under R49, so that the saturate flag acts and vtype.round does not. -/
def roundOut (t : VT) (neg : Bool) (m : Nat) (e : Int) : Nat := roundF t.ty .rne t.sat 0 (.fin neg m e)

/-- S and e of unpack (R150). -/
def unpackS (mant : Nat) (exp : Int) : Nat × Int :=
  let k := Nat.log2 mant
  (mant * 2 ^ (23 - k), (k : Int) + exp)

/-- vexp2_elem (R151). -/
def exp2E (t : VT) (a : Nat) : Nat :=
  let ty := t.ty
  let out (v : FV) : Nat := roundF ty .rne false 0 v
  match fval ty a with
  | .nan => out .nan
  | .inf neg => if neg then out (.fin false 0 0) else out (.inf false)
  | .fin neg mant exp =>
    let x : FV := .fin neg mant exp
    if !x.lt (.fin false 128 0) then out (.inf false)
    else if x.lt (.fin true 160 0) then out (.fin false 0 0)
    else
      let m : Int := if neg then -(mant : Int) else mant
      let f : Int := if 0 ≤ exp + 24 then m * 2 ^ (exp + 24).toNat else m / 2 ^ (-(exp + 24)).toNat
      let n : Int := f / 2 ^ 24
      let tt := (f - n * 2 ^ 24).toNat
      let j := tt / 2 ^ 18
      let u := tt % 2 ^ 18 * 2 ^ 8
      let p := 0x0E35846B * u / 2 ^ 32
      let p := (0x3D7F7BFF + p) * u / 2 ^ 32
      let p := (0xB17217F8 + p) * u / 2 ^ 32
      roundOut t false (exp2Tab j * (2 ^ 32 + p) / 2 ^ 32) (n - 30)

/-- vrcp_elem (R152). -/
def rcpE (t : VT) (a : Nat) : Nat :=
  let ty := t.ty
  let out (v : FV) : Nat := roundF ty .rne false 0 v
  match fval ty a with
  | .nan => out .nan
  | .inf neg => out (.fin neg 0 0)
  | .fin neg 0 _ => out (.inf neg)
  | .fin neg mant exp =>
    let p := unpackS mant exp
    let iter (y : Int) : Int :=
      let d : Int := 2 ^ 31 - (p.1 : Int) * y / 2 ^ 23
      y + y * d / 2 ^ 31
    roundOut t neg (iter (iter (rcpTab (p.1 / 2 ^ 17 % 64)))).toNat (-31 - p.2)

/-- vrsq_elem (R153). -/
def rsqE (t : VT) (a : Nat) : Nat :=
  let ty := t.ty
  let out (v : FV) : Nat := roundF ty .rne false 0 v
  match fval ty a with
  | .nan => out .nan
  | .fin neg 0 _ => out (.inf neg)
  | .inf false => out (.fin false 0 0)
  | .inf true => out .nan
  | .fin true _ _ => out .nan
  | .fin false mant exp =>
    let p := unpackS mant exp
    let h : Nat := if p.2 % 2 = 0 then 0 else 1
    let sg : Nat := p.1 * 2 ^ h
    let e : Int := p.2 - h
    let iter (y : Int) : Int :=
      let q := y * y / 2 ^ 31
      let tt := (sg : Int) * q / 2 ^ 23
      y * (3 * 2 ^ 31 - tt) / 2 ^ 32
    roundOut t false (iter (iter (rsqTab (h * 32 + sg / 2 ^ (18 + h) % 32)))).toNat (-31 - e / 2)

/-! The instructions. -/

/-- VADD (R140). -/
def execVadd (o : VOps) (s : State) : Host.Outcome State Fault Refusal := .next (s.vbin okArith true o (arith2 (· + ·) FV.add))

/-- VSUB (R140). -/
def execVsub (o : VOps) (s : State) : Host.Outcome State Fault Refusal := .next (s.vbin okArith true o (arith2 (· - ·) FV.sub))

/-- VMUL (R140). -/
def execVmul (o : VOps) (s : State) : Host.Outcome State Fault Refusal :=
  .next (s.vbin okArith true o (arith2 (· * ·) (fun _ => FV.mul)))

/-- VMULH (R140). -/
def execVmulh (o : VOps) (s : State) : Host.Outcome State Fault Refusal := .next (s.vbin okInt false o mulhE)

/-- VFMA (R141): vd is an operand. -/
def execVfma (o : VOps) (s : State) : Host.Outcome State Fault Refusal := .next (s.vbin okArith true o fmaE)

/-- VMIN (R140). -/
def execVmin (o : VOps) (s : State) : Host.Outcome State Fault Refusal := .next (s.vbin okArith false o minE)

/-- VMAX (R140). -/
def execVmax (o : VOps) (s : State) : Host.Outcome State Fault Refusal := .next (s.vbin okArith false o maxE)

/-- VABS (R140). -/
def execVabs (o : VUn) (s : State) : Host.Outcome State Fault Refusal := .next (s.vun okArith o absE)

/-- VNEG (R140). -/
def execVneg (o : VUn) (s : State) : Host.Outcome State Fault Refusal := .next (s.vun okArith o negE)

/-- VAND (R142). -/
def execVand (o : VOps) (s : State) : Host.Outcome State Fault Refusal := .next (s.vbin okMove false o (fun _ _ _ a b => a &&& b))

/-- VOR (R142). -/
def execVor (o : VOps) (s : State) : Host.Outcome State Fault Refusal := .next (s.vbin okMove false o (fun _ _ _ a b => a ||| b))

/-- VXOR (R142). -/
def execVxor (o : VOps) (s : State) : Host.Outcome State Fault Refusal := .next (s.vbin okMove false o (fun _ _ _ a b => a ^^^ b))

/-- VANDN (R142): a and not b. -/
def execVandn (o : VOps) (s : State) : Host.Outcome State Fault Refusal :=
  .next (s.vbin okMove false o (fun _ _ _ a b => a ^^^ (a &&& b)))

/-- VSEL (R142): the mask selects between the sources and every element is written. -/
def execVsel (o : VOps) (s : State) : Host.Outcome State Fault Refusal :=
  let c := s.cur
  .next (s.onWindow (okMove c.vt.ty && o.msel ≠ .none) (VOps.srcs o) (o.vd = 31) (fun w vals s =>
    let wd := c.vt.ty.width
    s.vdone w (VOps.srcs o) (VOps.hs o) o.vd (vpack wd ((natsFrom 0 (lanes wd)).map (fun i =>
      velem wd (if c.enabled o.msel i then vals.getD 0 0 else vals.getD 1 0) i)))))

/-- VCVT (R145). -/
def execVcvt (ty : BitVec 4) (o : VUn) (s : State) : Host.Outcome State Fault Refusal := .next (s.vconvert ty o)

/-- VSLL (R143). -/
def execVsll (o : VOps) (s : State) : Host.Outcome State Fault Refusal :=
  .next (s.vbin okInt false o (fun t _ _ a c => a * 2 ^ (c % t.ty.width) % 2 ^ t.ty.width))

/-- VSRL (R143). -/
def execVsrl (o : VOps) (s : State) : Host.Outcome State Fault Refusal :=
  .next (s.vbin okInt false o (fun t _ _ a c => a / 2 ^ (c % t.ty.width)))

/-- VSRA (R143). -/
def execVsra (o : VOps) (s : State) : Host.Outcome State Fault Refusal :=
  .next (s.vbin okInt false o (fun t _ _ a c => sraNat t.ty.width a (c % t.ty.width)))

/-- VFSL (R143): hi is vs1, lo is vd. -/
def execVfsl (o : VOps) (s : State) : Host.Outcome State Fault Refusal :=
  .next (s.vbin okInt false o (fun t _ old a c => funnel t.ty.width true a old c))

/-- VFSR (R143). -/
def execVfsr (o : VOps) (s : State) : Host.Outcome State Fault Refusal :=
  .next (s.vbin okInt false o (fun t _ old a c => funnel t.ty.width false a old c))

/-- VBFX (R143). -/
def execVbfx (o : VOps) (s : State) : Host.Outcome State Fault Refusal :=
  .next (s.vbin okField false o (fun t _ _ a c => bfExtract t.ty.width true a c))

/-- VBFXU (R143). -/
def execVbfxu (o : VOps) (s : State) : Host.Outcome State Fault Refusal :=
  .next (s.vbin okField false o (fun t _ _ a c => bfExtract t.ty.width false a c))

/-- VBFI (R143): base vd, value vs1, control vs2. -/
def execVbfi (o : VOps) (s : State) : Host.Outcome State Fault Refusal :=
  .next (s.vbin okField false o (fun t _ old a c => bfInsert t.ty.width old a c))

/-- VCLZ (R143). -/
def execVclz (o : VUn) (s : State) : Host.Outcome State Fault Refusal := .next (s.vun okInt o (fun t a => clzNat t.ty.width a))

/-- VPOPC (R143). -/
def execVpopc (o : VUn) (s : State) : Host.Outcome State Fault Refusal := .next (s.vun okInt o (fun t a => popNat t.ty.width a))

/-- VCMPEQ (R144). -/
def execVcmpeq (o : VCmp) (s : State) : Host.Outcome State Fault Refusal := .next (s.vcompare o relEq)

/-- VCMPLT (R144). -/
def execVcmplt (o : VCmp) (s : State) : Host.Outcome State Fault Refusal := .next (s.vcompare o relLt)

/-- VCMPLE (R144). -/
def execVcmple (o : VCmp) (s : State) : Host.Outcome State Fault Refusal := .next (s.vcompare o relLe)

/-- VCMPLTU (R144): raw bits as unsigned. -/
def execVcmpltu (o : VCmp) (s : State) : Host.Outcome State Fault Refusal :=
  .next (s.vcompare o (fun _ a b => decide (a < b)))

/-- VREDSUM (R146). -/
def execVredsum (o : VUn) (s : State) : Host.Outcome State Fault Refusal :=
  .next (s.vreduce (fun _ => true) true o (fun t rs xs => [redSum t (rs.headD 0) xs]))

/-- VREDMAX (R146). -/
def execVredmax (o : VUn) (s : State) : Host.Outcome State Fault Refusal :=
  .next (s.vreduce (fun _ => true) false o (fun t _ xs => [redPick true t xs]))

/-- VREDMIN (R146). -/
def execVredmin (o : VUn) (s : State) : Host.Outcome State Fault Refusal :=
  .next (s.vreduce (fun _ => true) false o (fun t _ xs => [redPick false t xs]))

/-- VREDMAX_G (R146). -/
def execVredmaxG (g : GroupSize) (o : VUn) (s : State) : Host.Outcome State Fault Refusal := .next (s.vgroup true g o)

/-- VREDMIN_G (R146). -/
def execVredminG (g : GroupSize) (o : VUn) (s : State) : Host.Outcome State Fault Refusal := .next (s.vgroup false g o)

/-- VSCAN (R147). -/
def execVscan (o : VUn) (s : State) : Host.Outcome State Fault Refusal :=
  .next (s.vreduce (fun _ => true) true o (fun t rs xs => scanFrom t none rs xs))

/-- VSLIDE (R148): the immediate is signed. -/
def execVslide (o : VImm) (s : State) : Host.Outcome State Fault Refusal :=
  let c := s.cur
  .next (s.onWindow (okMove c.vt.ty) [o.vs1] (o.vd = 31) (fun w vals s =>
    let wd := c.vt.ty.width
    let n := lanes wd
    let old := (s.here.win w).old o.vd
    s.vdone w [o.vs1] (heldRegs [(o.h1, o.vs1)]) o.vd (vpack wd ((natsFrom 0 n).map (fun (i : Nat) =>
      let j : Int := (i : Int) + o.imm.toInt
      if !c.enabled o.msel i then velem wd old i
      else if 0 ≤ j && j < n then velem wd (vals.getD 0 0) j.toNat else 0)))))

/-- VPERM (R148): the low log2 N bits of the index. -/
def execVperm (o : VOps) (s : State) : Host.Outcome State Fault Refusal :=
  let c := s.cur
  .next (s.onWindow (okMove c.vt.ty) (VOps.srcs o) (o.vd = 31) (fun w vals s =>
    let wd := c.vt.ty.width
    let n := lanes wd
    let old := (s.here.win w).old o.vd
    s.vdone w (VOps.srcs o) (VOps.hs o) o.vd (vpack wd ((natsFrom 0 n).map (fun i =>
      if c.enabled o.msel i then velem wd (vals.getD 0 0) (velem wd (vals.getD 1 0) i % n) else velem wd old i)))))

/-- VBCAST (R148): an index of N or more is illegal (R134). -/
def execVbcast (o : VImm) (s : State) : Host.Outcome State Fault Refusal :=
  let c := s.cur
  let wd := c.vt.ty.width
  .next (s.onWindow (okMove c.vt.ty && decide (o.imm.toNat < lanes wd)) [o.vs1] (o.vd = 31) (fun w vals s =>
    let old := (s.here.win w).old o.vd
    s.vdone w [o.vs1] (heldRegs [(o.h1, o.vs1)]) o.vd (vpack wd ((natsFrom 0 (lanes wd)).map (fun i =>
      if c.enabled o.msel i then velem wd (vals.getD 0 0) o.imm.toNat else velem wd old i)))))

/-- VIOTA (R148). -/
def execViota (msel : MSel) (vd : VReg) (s : State) : Host.Outcome State Fault Refusal :=
  let c := s.cur
  .next (s.onWindow (okInt c.vt.ty) [] (vd = 31) (fun w _ s =>
    let wd := c.vt.ty.width
    let old := (s.here.win w).old vd
    s.vdone w [] [] vd (vpack wd ((natsFrom 0 (lanes wd)).map (fun i =>
      if c.enabled msel i then i else velem wd old i)))))

/-- VEXP2 (R151). -/
def execVexp2 (o : VUn) (s : State) : Host.Outcome State Fault Refusal := .next (s.vun okFloat o exp2E)

/-- VRCP (R152). -/
def execVrcp (o : VUn) (s : State) : Host.Outcome State Fault Refusal := .next (s.vun okFloat o rcpE)

/-- VRSQ (R153). -/
def execVrsq (o : VUn) (s : State) : Host.Outcome State Fault Refusal := .next (s.vun okFloat o rsqE)

/-! Mask instructions (R159). -/

/-- MAND (R159). -/
def execMand (md ms1 ms2 : MReg) (s : State) : Host.Outcome State Fault Refusal :=
  .next ((s.holds []).modCur (fun c => c.wm md (c.rm ms1 &&& c.rm ms2))).complete

/-- MOR (R159). -/
def execMor (md ms1 ms2 : MReg) (s : State) : Host.Outcome State Fault Refusal :=
  .next ((s.holds []).modCur (fun c => c.wm md (c.rm ms1 ||| c.rm ms2))).complete

/-- MXOR (R159). -/
def execMxor (md ms1 ms2 : MReg) (s : State) : Host.Outcome State Fault Refusal :=
  .next ((s.holds []).modCur (fun c => c.wm md (c.rm ms1 ^^^ c.rm ms2))).complete

/-- MNOT (R159). -/
def execMnot (md ms1 : MReg) (s : State) : Host.Outcome State Fault Refusal :=
  .next ((s.holds []).modCur (fun c => c.wm md (~~~(c.rm ms1)))).complete

/-- MSET (R159). -/
def execMset (md : MReg) (rs1 : Reg) (s : State) : Host.Outcome State Fault Refusal :=
  .next ((s.holds []).modCur (fun c => c.wm md (c.rx rs1))).complete

/-- MCNT (R159). -/
def execMcnt (rd : Reg) (ms1 : MReg) (s : State) : Host.Outcome State Fault Refusal :=
  .next ((s.holds []).done rd (BitVec.ofNat 64 (popNat 64 (s.cur.rm ms1).toNat)))

/-- MFIRST (R159): 64 when there is no one bit. -/
def execMfirst (rd : Reg) (ms1 : MReg) (s : State) : Host.Outcome State Fault Refusal :=
  .next ((s.holds []).done rd (BitVec.ofNat 64 (ctzFrom (s.cur.rm ms1).toNat 64 0)))

/-! Moves between files (R154). -/

/-- VMVXS (R154). -/
def execVmvxs (rd : Reg) (vs : VReg) (rs2 : Reg) (s : State) : Host.Outcome State Fault Refusal :=
  let c := s.cur
  let t := c.vt.ty
  .next (s.onWindow (okMove t) [vs] false (fun w vals s =>
    let e := velem t.width (vals.getD 0 0) ((c.rx rs2).toNat % lanes t.width)
    ((s.popRows w [vs]).holds []).done rd (BitVec.ofInt 64 (ival t e))))

/-- VMVSX (R154). -/
def execVmvsx (vd : VReg) (rs1 rs2 : Reg) (s : State) : Host.Outcome State Fault Refusal :=
  let c := s.cur
  let wd := c.vt.ty.width
  .next (s.onWindow (okMove c.vt.ty) [vd] false (fun w vals s =>
    let k := (c.rx rs2).toNat % lanes wd
    s.vdone w [] [] vd (vpack wd ((natsFrom 0 (lanes wd)).map (fun i =>
      if i = k then (c.rx rs1).toNat % 2 ^ wd else velem wd (vals.getD 0 0) i)))))

/-! Windows (R129, R130). -/

/-- The lowest window that is neither held nor reserved. -/
def Core.freeWindow (c : Core) : Option Nat :=
  (natsFrom 0 2).find? (fun w => (c.win w).holder.isNone && (c.win w).resv.isNone)

/-- Every register of a slot's window is written or gone: none is held for its contexts any more (R138). -/
def Core.unholdAll (c : Core) (slot : Nat) : Core :=
  if c.ctxs.all (fun e => e.2.hold.isEmpty) then c
  else c.mapCtxs (fun n x => if n < 6 && x.slot = slot then { x with hold := [] } else x)

/-- VCLAIM (R129). A strand of a service core, of which the rule says nothing, traps as a handler does (DESIGN CHOICE, log entry 85). -/
def State.vclaim (s : State) (rd : Reg) : State :=
  if !isCompute s.curCore || s.cur.st ≠ .strand then s.trap cILLEGAL_INSTR 0
  else
    let s := s.holds []
    let slot := s.cur.slot
    match s.here.heldBy slot with
    | some w => s.done rd (BitVec.ofNat 64 w)
    | none =>
      match (s.here.reservedFor slot).or s.here.freeWindow with
      | some w =>
        (s.modHere (fun c => (c.modWin w (fun x => { x with regs := [], vin := [], vout := [], holder := some slot })).unholdAll
          slot)).done rd (BitVec.ofNat 64 w)
      | none => s.done rd (-1)

/-- The window of a slot of core k is given up (R130): its contents and its reservation go, and strands of the group that
are blocked on a port trap ILLEGAL_INSTR. -/
def State.dropWindow (s : State) (k slot : Nat) : State :=
  let c := s.core k
  if (c.heldBy slot).isNone && (c.reservedFor slot).isNone then s
  else
    let s := s.modCore k (fun c => ((natsFrom 0 2).foldl (fun c w => c.modWin w (fun x =>
      if x.holder = some slot then Win.empty else if x.resv = some slot then { x with resv := none } else x)) c).unholdAll slot)
    -- the stream commands of the window end (R204)
    let s := if (s.core k).copyQ.isEmpty then s
      else s.modCore k (fun c => { c with copyQ := c.copyQ.map (fun (q : CopyCmd) =>
        if q.hd.slot = slot && q.hd.ctx < 6 then { q with released := true } else q) })
    let blocked := (natsFrom 0 6).filter (fun n =>
      (c.ctx n).st = .strand && (c.ctx n).slot = slot && (c.ctx n).wait = .vport)
    let s := blocked.foldl (fun s n => s.takeTrap k n cILLEGAL_INSTR 0 0 (s.ctx k n).pc) s
    (s.wakeUnits k).pokeDispatcher (chipOf k)

/-- VCLAIM (R129). -/
def execVclaim (rd : Reg) (s : State) : Host.Outcome State Fault Refusal := .next (s.vclaim rd)

/-- VRELEASE (R130): without a window it does nothing. -/
def execVrelease (s : State) : Host.Outcome State Fault Refusal :=
  .next ((match s.window with
    | some _ => s.dropWindow s.curCore s.cur.slot
    | none => s.holds []).complete)

/-! vsett (R80). -/

/-- VSETT (R80): the old vtype to rd, the new one checked. -/
def State.vsett (s : State) (rd : Reg) (v : Word) : State :=
  if vtypeOk v then (s.modCur (fun c => { c with vtype := v })).done rd s.cur.vtype else s.trap cILLEGAL_INSTR 0

/-- VSETT_IMM (R80). -/
def execVsettImm (rd : Reg) (imm : BitVec 12) (s : State) : Host.Outcome State Fault Refusal :=
  .next (s.vsett rd (imm.setWidth 64))

/-- VSETT_REG (R80). -/
def execVsettReg (rd rs1 : Reg) (s : State) : Host.Outcome State Fault Refusal := .next (s.vsett rd (s.rx rs1))

/-! Memory access (R155-R157). -/

/-- The first fault of a vector access whose address must be a multiple of 64: page faults before access faults (R105). -/
def State.vplaces (s : State) (acc : Acc) (va : Word) (aligned : Bool) : Except Flt (List Loc) :=
  match s.places s.whoCur acc va 64 with
  | .error f => if f.pageClass || aligned then .error f else .error { cause := acc.accessCause, addr := va, info := 0 }
  | .ok ls => if aligned then .ok ls else .error { cause := acc.accessCause, addr := va, info := 0 }

/-- The 64 bytes at a virtual address into vd (R155, R156) (DEDUCED, log entry 42). -/
def State.vload (s : State) (vd : VReg) (va : Word) (aligned : Bool) : State :=
  s.onWindow true [] (vd = 31) (fun w _ s =>
    s.watched [watchLoad] (addrsFrom va 64) (fun s => s.andThen (s.vplaces .load va aligned) (fun ls =>
      if s.waysOpen s.curCore ls then
        s.vdone w [] [] vd (BitVec.ofNat 512 (leNat (ls.map (s.seenByte s.curCore s.curCtx))))
      else s)))

/-- The first fault of the enabled bytes of a masked store (R156). -/
def State.maskedPlaces (s : State) (va : Word) (bs : List Nat) : Except Flt (List Loc) :=
  let rs := bs.map (fun b => match s.places s.whoCur .store (va + BitVec.ofNat 64 b) 1 with
    | .error f => .error f
    | .ok ls => match ls with
      | l :: _ => .ok l
      | [] => .error { cause := cSTORE_ACCESS, addr := va, info := 0 })
  match firstFlt rs with
  | some f => .error f
  | none => .ok (rs.filterMap (fun r => match r with
    | .ok l => some l
    | .error _ => none))

/-- VLD (R155); the offset counts 64-byte units (R80). -/
def execVld (vd : VReg) (rs1 : Reg) (imm : BitVec 12) (s : State) : Host.Outcome State Fault Refusal :=
  let va := s.rx rs1 + sx imm * 64
  .next (s.vload vd va (bits va 5 0 = 0))

/-- VLDU (R156). -/
def execVldu (vd : VReg) (rs1 : Reg) (s : State) : Host.Outcome State Fault Refusal := .next (s.vload vd (s.rx rs1) true)

/-- VST (R155); the offset counts 64-byte units (R80). -/
def execVst (vs : VReg) (rs1 : Reg) (imm : BitVec 12) (s : State) : Host.Outcome State Fault Refusal :=
  let va := s.rx rs1 + sx imm * 64
  .next (s.onWindow true [vs] false (fun w vals s =>
    s.watched [watchStore] (addrsFrom va 64) (fun s => s.andThen (s.vplaces .store va (bits va 5 0 = 0)) (fun ls =>
      let bs := leBytes 64 (vals.getD 0 0).toNat
      (((s.storeLocs s.curCore s.curCtx va (ls.zip bs)).popRows w [vs]).holds []).complete))))

/-- VSTU (R156): the mask enables bytes; with an all-zero mask it does nothing, so that it takes no row of vin either. -/
def execVstu (vs : VReg) (rs1 : Reg) (mn : MReg) (s : State) : Host.Outcome State Fault Refusal :=
  let va := s.rx rs1
  let m := s.cur.rm mn
  let srcs := if m = 0 then [] else [vs]
  .next (s.onWindow true srcs false (fun w vals s =>
    let idx := (natsFrom 0 64).filter m.getLsbD
    s.watched [watchStore] (idx.map (fun i => va + BitVec.ofNat 64 i)) (fun s => s.andThen (s.maskedPlaces va idx) (fun ls =>
      let bs := leBytes 64 (vals.getD 0 0).toNat
      (((s.storeLocs s.curCore s.curCtx va (ls.zip (idx.map (fun i => bs.getD i 0)))).popRows w srcs).holds []).complete))))

/-- The element addresses of VLDX and VSTX, or the access fault: the base in the window and a multiple of the element
size, every element in the window (R157). The sum of base and index does not wrap (DESIGN CHOICE, log entry 86). -/
def vindexed (acc : Acc) (base : Word) (wd : Nat) (idx : VWord) : Except Flt (List Nat) :=
  let sz := wd / 8
  let addr (i : Nat) : Nat := base.toNat + velem wd idx i * sz
  if !inWindow base || base.toNat % sz ≠ 0 then .error { cause := acc.accessCause, addr := addr 0 |> BitVec.ofNat 64, info := 0 }
  else
    match (natsFrom 0 (lanes wd)).find? (fun i => decide (65536 < addr i + sz)) with
    | some i => .error { cause := acc.accessCause, addr := BitVec.ofNat 64 (addr i), info := 0 }
    | none => .ok ((natsFrom 0 (lanes wd)).map addr)

/-- The places of a list of window offsets. -/
def State.windowLocs (s : State) (offs : List Nat) : List Loc :=
  let k := s.curCore
  offs.map (fun o => { kind := .own, key := lmemKey k o, die := dieOf k, clu := cluKey k, keyid := 0 })

/-- The offsets of the bytes of elements of sz bytes. -/
def elemOffs (sz : Nat) (addrs : List Nat) : List Nat := addrs.flatMap (fun a => natsFrom a sz)

/-- VLDX (R157). -/
def execVldx (vd vs2 : VReg) (rs1 : Reg) (s : State) : Host.Outcome State Fault Refusal :=
  let c := s.cur
  let wd := c.vt.ty.width
  let base := c.rx rs1
  .next (s.onWindow (okMove c.vt.ty) [vs2] (vd = 31) (fun w vals s =>
    s.andThen (vindexed .load base wd (vals.getD 0 0)) (fun addrs =>
      s.watched [watchLoad] ((elemOffs (wd / 8) addrs).map (BitVec.ofNat 64)) (fun s =>
      let ls := s.windowLocs (elemOffs (wd / 8) addrs)
      match (elemOffs (wd / 8) addrs).zip ls |>.find? (fun p => (s.dataError p.2).isSome) with
      | some p => s.trap cLOCAL_PARITY (BitVec.ofNat 64 p.1)
      | none => s.vdone w [vs2] [] vd (BitVec.ofNat 512 (leNat (ls.map (s.seenByte s.curCore s.curCtx))))))))

/-- VSTX (R157): the bytes are stored in element order, so the highest index stays. -/
def execVstx (vs vs2 : VReg) (rs1 : Reg) (s : State) : Host.Outcome State Fault Refusal :=
  let c := s.cur
  let wd := c.vt.ty.width
  let base := c.rx rs1
  .next (s.onWindow (okMove c.vt.ty) [vs, vs2] false (fun w vals s =>
    s.andThen (vindexed .store base wd (vals.getD 1 0)) (fun addrs =>
      s.watched [watchStore] ((elemOffs (wd / 8) addrs).map (BitVec.ofNat 64)) (fun s =>
      let ls := s.windowLocs (elemOffs (wd / 8) addrs)
      let bs := leBytes 64 (vals.getD 0 0).toNat
      (((s.storeLocs s.curCore s.curCtx base (ls.zip bs)).popRows w [vs, vs2]).holds []).complete))))

end Sys2Proof.Machine
end

