-- ==== Sys2Proof/Machine/Matrix.lean ====
section
/-! DEFINITION. The matrix unit (chapter 06): format records, operand rings, what ISSUE checks and what each command does,
retirement and VACC. -/

namespace Sys2Proof.Machine

/-! Format records (R163, R164). -/

def fmA (r : Rec) : Nat := rBits r 0 3 0
def fmB (r : Rec) : Nat := rBits r 0 7 4
def fmOut (r : Rec) : Nat := rBits r 1 3 0
def fmRound (r : Rec) : Nat := rBits r 1 6 4
def fmOscale (r : Rec) : Nat := rBytes r 2 2
def fmBandA (r : Rec) : Word := r.extractLsb' 64 64
def fmBandB (r : Rec) : Word := r.extractLsb' 128 64
def fmQscale (r : Rec) : Word := r.extractLsb' 192 64
def fmMode (r : Rec) : RMode := (RMode.ofCode (fmRound r)).getD .rne

/-- Is the pair of operand types an integer pair? -/
def fmInt (r : Rec) : Bool := fmA r = 0

/-- The pairs and the output types they permit. -/
def pairOk (a b o : Nat) : Bool :=
  if (a, b) ∈ [(8, 8), (10, 10), (11, 11), (10, 11), (12, 12)] then [9, 8, 10, 11, 12].contains o
  else if (a, b) ∈ [(0, 0), (0, 13)] then [2, 0, 9, 8].contains o
  else false

/-- A finite nonzero BF16 other than 0x8000. -/
def oscaleOk (v : Nat) : Bool := v % 2 ^ 15 / 2 ^ 7 ≠ 255 && v % 2 ^ 15 ≠ 0

/-- The address of a band table: 0, or canonical and even. -/
def bandOk (e2m1 : Bool) (a : Word) : Bool := a = 0 || (e2m1 && canonical a && !a.getLsbD 0)

/-- A valid format record (R164). -/
def fmtOk (r : Rec) : Bool :=
  pairOk (fmA r) (fmB r) (fmOut r) && decide (fmRound r < 5) && rBits r 1 7 7 = 0 &&
    (fmOscale r = 0 || (!fmInt r && oscaleOk (fmOscale r))) &&
    bandOk (fmA r = 12) (fmBandA r) && bandOk (fmA r = 12) (fmBandB r) &&
    (if fmOut r = 12 then fmQscale r ≠ 0 && canonical (fmQscale r) else fmQscale r = 0) &&
    rBytes r 4 4 = 0 && rBytes r 32 32 = 0

/-! Rings (R166-R170). -/

def Ring.slots (r : Ring) : Nat := r.lastslot + 1
def Ring.slotSize (r : Ring) : Nat := if r.side then 2560 else 2048

def Matrix.ring (m : Matrix) (i : Nat) : Ring := tget Ring.empty i m.rings
def Matrix.ringQ (m : Matrix) (i : Nat) : Ring := tget Ring.empty i m.ringsQ

def Core.modMat (c : Core) (f : Matrix → Matrix) : Core := { c with mat := f c.mat }
def State.modMat (s : State) (k : Nat) (f : Matrix → Matrix) : State := s.modCore k (fun c => c.modMat f)
def State.modRing (s : State) (k i : Nat) (f : Ring → Ring) : State :=
  s.modMat k (fun m => { m with rings := tset i (f (m.ring i)) m.rings })

/-- The key of the first byte of a slot: in local memory base is the window offset, otherwise the physical address. -/
def Ring.slotKey (r : Ring) (k n : Nat) : Nat :=
  (if r.carved then r.base else lmemKey k r.base) + n * r.slotSize

/-- The report of MRINGSTAT (R170). -/
def Ring.report (r : Ring) : Nat :=
  (if r.configured then 2 ^ 31 else 0) + (if r.side then 2 ^ 30 else 0) + (if r.revoked then 2 ^ 29 else 0) +
    r.lastslot * 2 ^ 24 + r.count * 2 ^ 16 + r.tail * 2 ^ 8 + r.head

/-- A slot leaves the ring at its head (R168). -/
def Ring.pop (r : Ring) : Ring := { r with head := (r.head + 1) % r.slots, count := r.count - 1 }

/-- A slot has been filled at the tail. -/
def Ring.push (r : Ring) : Ring := { r with tail := (r.tail + 1) % r.slots, count := r.count + 1 }

/-- Does an MMA read byte o of a slot: the first bytes of each stored row, and the scales where it uses them (R167)? -/
def slotReads (rowBytes : Nat) (scales : Bool) (o : Nat) : Bool :=
  if o < 2048 then decide (o % 64 < rowBytes) else scales && decide (o < 2560)

/-- The first byte read, of a slot from key lo on, that meets an error: parity in local memory, a bad or poisoned line elsewhere
(R175). -/
def State.slotBad (s : State) (carved : Bool) (lo : Nat) (reads : Nat → Bool) : Option Nat :=
  let hit (a : Nat) : Bool := decide (lo ≤ a) && reads (a - lo)
  if carved then (s.badLines ++ s.poison.map (·.1)).findSome? (fun l => (natsFrom (128 * l) 128).find? hit)
  else s.badParity.find? hit

/-- n bytes of a slot from a key on, as a command reads them: the stores in flight that its ISSUE or that of the ring's MCFGRING
released lie over memory (R169, R185). -/
def State.slotBytes (s : State) (k : Nat) (h : CmdHead) (r : Ring) (key n : Nat) : List Byte :=
  if s.reqs.isEmpty then Memory.bytes s.mem key n
  else
    let loc (a : Nat) : Loc :=
      { kind := if r.carved then .carved else .own, key := a, die := dieOf k, clu := cluKey k, keyid := 0 }
    (natsFrom key n).map (fun a => s.seenBy (fun q => q.core = k && (h.sees.contains q.id || r.sees.contains q.id)) (loc a))

/-! Fields of commands (R171). -/

def mAcc (w : CmdWord) : Nat := cBits w 1 1 0
def mRing (w : CmdWord) : Nat := cBits w 1 2 0
def mRingA (w : CmdWord) : Nat := cBits w 1 4 2
def mRingB (w : CmdWord) : Nat := cBits w 1 7 5
def mRowA (w : CmdWord) : Nat := cBits w 2 15 0
def mRowB (w : CmdWord) : Nat := cBits w 2 31 16
def mLast (w : CmdWord) : Nat := cBits w 1 7 3
def mSide (w : CmdWord) : Bool := cBits w 1 8 8 = 1
def mStride (w : CmdWord) : Int := (w.extractLsb' 128 32).toInt

def isMma (op : Nat) : Bool := decide (0x28 ≤ op) && decide (op ≤ 0x2E)

/-- The accumulator a command targets, if it has one (R174, R185). -/
def mTarget (w : CmdWord) : Option Nat :=
  let op := cOpcode w
  if op = 0x21 || op = 0x22 || op = 0x23 || isMma op then some (mAcc w) else none

/-- Step 4 for a matrix command: the header bits it defines (R171). -/
def matHeaderOk (w : CmdWord) : Bool :=
  let op := cOpcode w
  headerOk w false (op = 0x23 || op = 0x2D || op = 0x2E) (if isMma op then 3 else if op = 0x23 || op = 0x24 then 1 else 0) true

/-- Step 6 for a matrix command: reserved operand bits, ranges and alignments (R170, R171, R179). -/
def matWordOk (w : CmdWord) : Bool :=
  let op := cOpcode w
  let zero (l : List Nat) : Bool := l.all (fun i => cOp w i = 0)
  match op with
  | 0x20 => zero [3, 4, 5, 6] && canonical (cAddr w 1)
  | 0x21 => zero [2, 3, 4, 5, 6] && cBits w 1 31 2 = 0
  | 0x22 => zero [5, 6] && cBits w 1 31 2 = 0 && canonical (cAddr w 2) && cOp w 2 % 4 = 0 && cOp w 4 % 4 = 0
  | 0x23 => zero [6] && cBits w 1 31 2 = 0 && canonical (cAddr w 2)
  | 0x24 => zero [4, 5, 6] && cBits w 1 31 9 = 0 && canonical (cAddr w 2)
  | 0x25 => zero [2, 3, 4, 5, 6, 7] && cBits w 1 31 3 = 0 && cNotify w
  | _ =>
    zero [3, 4, 5, 6] && cBits w 1 31 8 = 0 &&
      (if op = 0x2C then mRowA w % 32 = 0 && mRowB w % 32 = 0 else cOp w 2 = 0)

/-! ISSUE of a matrix command (R172). -/

/-- The local-memory slice of the group in a residency slot: its first byte and its length (R305) (DEDUCED, log entry 47). -/
def State.sliceOf (s : State) (k slot : Nat) : Nat × Nat :=
  match tfind slot (s.core k).slots with
  | none => (0, 0)
  | some r =>
    match tfind r.kid s.kernels with
    | none => (0, 0)
    | some q => (q.base + r.k * (8 * rBits q.desc 14 13 0), 8 * rBits q.desc 14 13 0)

/-- The pair of types that an MMA form needs (R176). -/
def mmaPair (op : Nat) : Nat × Nat :=
  match op with
  | 0x28 => (8, 8) | 0x29 => (10, 10) | 0x2A => (11, 11) | 0x2B => (10, 11) | 0x2C => (12, 12) | 0x2D => (0, 0)
  | _ => (0, 13)

/-- The bytes of one output element, 1 for the 4-bit type (R180). -/
def outBytes (o : Nat) : Nat := if o = 9 || o = 2 then 4 else if o = 8 then 2 else 1

/-- The configuration that an MCFGRING establishes. -/
def Ring.make (w : CmdWord) (base : Nat) (carved : Bool) : Ring :=
  { configured := true, carved := carved, revoked := false, side := mSide w, lastslot := mLast w, head := 0, tail := 0,
    count := if cFlag w 0 then mLast w + 1 else 0, base := base, sees := [] }

/-- The placement of a ring (R166, R169): its base and whether it lies in carved L2; a fault, or none for RING_CONFIG. -/
def State.ringPlace (s : State) (w : CmdWord) : Except (Option Flt) (Nat × Bool) :=
  let a := cAddr w 2
  let len := (mLast w + 1) * (if mSide w then 2560 else 2048)
  if bits a 5 0 ≠ 0 then .error none
  else if inWindow a then
    let sl := s.sliceOf s.curCore s.cur.slot
    if sl.1 ≤ a.toNat && a.toNat + len ≤ sl.1 + sl.2 && a.toNat + len ≤ 65536 then .ok (a.toNat, false) else .error none
  else
    match s.xlate s.whoCur .load a with
    | .error f => .error (if f.pageClass then some f else none)
    | .ok l =>
      if l.kind = .carved && l.clu = cluKey s.curCore && bits a 15 0 + len ≤ 65536 then .ok (l.key, true) else .error none

/-- Steps 7-14 of R172 and the acceptance; va is the address of the command word (DEDUCED, log entry 45) (DEDUCED, log entry 46). -/
def State.issueMatrix (s : State) (va : Word) (w : CmdWord) : State :=
  let k := s.curCore
  let op := cOpcode w
  let m := s.here.mat
  let bad (s : State) : State := s.trap cFORMAT_CONTEXT_INVALID va
  let accept (s : State) (fmt : Rec) (base : Nat) (carved : Bool) (seed : BitVec 32) : State :=
    let m := s.here.mat
    if 4 ≤ m.queue.length then s.queueFull w
    else
      let h := s.newHead w m.seq
      let s := s.issued w
      let q : MatCmd := { hd := h, fmt := fmt, base := base, carved := carved, seed := seed, st := .waiting, row := 0, bad := 0,
                          badAddr := 0, unread := false, payload := 0, requeued := false, revoked := false, lines := [] }
      ((s.modMat k (fun m => { m with queue := m.queue ++ [q], seq := (m.seq + 1) % 65536 })).planCmd k h).complete
  if s.cur.st ≠ .strand || (m.holder.isNone && op ≠ 0x20) then bad s
  else if m.holder.isSome && m.holder ≠ some s.cur.slot then (if op = 0x20 then s.issueWaits w .matrix else bad s)
  else if m.queue.any (·.unread) then s.queueFull w
  else
    s.orUnitPending [.matrix] (fun s =>
      if op = 0x20 then
        s.loadThen (cAddr w 1) 64 (fun bs =>
          let r : Rec := BitVec.ofNat 512 (leNat bs)
          if bits (cAddr w 1) 5 0 ≠ 0 || !fmtOk r then bad s
          else if 4 ≤ m.queue.length then s.queueFull w
          else
            let s := if m.holder.isNone then s.modMat k (fun _ => { Matrix.free with holder := some s.cur.slot }) else s
            accept (s.modMat k (fun m => { m with fmtQ := some r })) r 0 false 0)
      else if isMma op then
        match m.fmtQ with
        | none => bad s
        | some r =>
          if (fmA r, fmB r) ≠ mmaPair op then bad s
          else
            let a := m.ringQ (mRingA w)
            let b := m.ringQ (mRingB w)
            if mRingA w = mRingB w || !a.configured || !b.configured || (op = 0x2C && (!a.side || !b.side)) then
              s.trap cRING_CONFIG va
            else accept s 0 0 false 0
      else if op = 0x24 then
        match s.ringPlace w with
        | .error (some f) => s.fault f
        | .error none => s.trap cRING_CONFIG va
        | .ok (base, carved) =>
          if 4 ≤ m.queue.length then s.queueFull w
          else accept (s.modMat k (fun m => { m with ringsQ := tset (mRing w) (Ring.make w base carved) m.ringsQ })) 0 base carved 0
      else if op = 0x22 || op = 0x23 then
        match m.fmtQ with
        | none => bad s
        | some r =>
          let n := outBytes (fmOut r)
          if op = 0x23 && (cOp w 2 % n ≠ 0 || cOp w 4 % n ≠ 0 || (fmOut r ≠ 12 && cOp w 5 ≠ 0)) then s.trap cRESERVED_FIELD va
          else if op = 0x23 && (fmMode r).isRst && m.queue.length < 4 then
            let seed := s.cur.rndseed
            accept (s.modCur (fun c => { c with rndseed := (xsStates 1024 seed).2 })) 0 0 false seed
          else accept s 0 0 false 0
      else accept s 0 0 false 0)

/-! Execution. -/

/-- The elements of an accumulator. -/
def Matrix.accAt (m : Matrix) (n i j : Nat) : BitVec 32 := tget 0 (1024 * n + 32 * i + j) m.acc

/-- An accumulator with all its elements given in row-major order. -/
def Matrix.setAcc (m : Matrix) (n : Nat) (vals : List (BitVec 32)) : Matrix :=
  let lo := 1024 * n
  let new := ((natsFrom lo 1024).zip vals).filter (fun e => e.2 ≠ 0)
  { m with acc := m.acc.filter (fun e => decide (e.1 < lo)) ++ new ++ m.acc.filter (fun e => decide (lo + 1024 ≤ e.1)) }

/-- Row i of an accumulator replaced. -/
def Matrix.setRow (m : Matrix) (n i : Nat) (vals : List (BitVec 32)) : Matrix :=
  m.setAcc n ((natsFrom 0 1024).map (fun x => if x / 32 = i then vals.getD (x % 32) 0 else m.accAt n (x / 32) (x % 32)))

/-- The oldest command of a core that has not finished. -/
def Matrix.oldest (m : Matrix) : Option MatCmd :=
  match m.queue with
  | q :: _ => (match q.st with
    | .done _ => none
    | _ => some q)
  | [] => none

/-- Is the oldest command of core k ready to start (R173)? An MMA on a ring that a restore has left UNCONFIGURED is, and ends with
an error (DESIGN CHOICE, log entry 88). A stopped core's unit has stopped (R259). -/
def State.matReady (s : State) (k : Nat) : Bool :=
  let m := (s.core k).mat
  match m.oldest with
  | none => false
  | some q =>
    !(s.core k).stopped &&
    let w := q.hd.word
    let full (i : Nat) : Bool := !(m.ring i).configured || (m.ring i).count ≠ 0
    (match q.st with
     | .held _ => false
     | _ => true) && decide (m.undelivered < 4) && s.released q.hd && (!isMma (cOpcode w) || (full (mRingA w) && full (mRingB w)))

/-- Is it core k's turn: no ready core comes before it in the round of R173? -/
def State.matTurn (s : State) (k : Nat) : Bool :=
  let clu := cluKey k
  let last := (s.cluster clu).matTurn
  let order := (natsFrom 1 16).map (fun i => k / 17 * 17 + (last + i) % 16)
  match order.find? s.matReady with
  | some j => j = k
  | none => false

/-- Change the oldest command. -/
def State.modOldest (s : State) (k : Nat) (f : MatCmd → MatCmd) : State :=
  s.modMat k (fun m => { m with queue := match m.queue with
    | q :: r => f q :: r
    | [] => [] })

/-- The oldest command has finished with a status; it retires next. -/
def State.matFinish (s : State) (k status : Nat) : State :=
  (s.modOldest k (fun q => { q with st := .done status })).plan (.matrixCommandRetire k)

/-- The poison bit of an accumulator; whole writes of its elements clear it and renew its parity. -/
def Matrix.setPoison (m : Matrix) (n : Nat) (b : Bool) : Matrix :=
  { m with poison := if b then m.poison ||| (1#4 <<< n) else m.poison &&& ~~~(1#4 <<< n),
           accBad := if b then m.accBad else m.accBad &&& ~~~(1#4 <<< n) }

/-- The oldest command ends with a deferred error (R175). -/
def State.matFail (s : State) (k : Nat) (q : MatCmd) (cause : Nat) (addr : Word) : State :=
  let op := cOpcode q.hd.word
  let acc := (mTarget q.hd.word).getD 0
  let s := if isMma op || op = 0x21 || op = 0x22 then s.modMat k (fun m => m.setPoison acc true) else s
  (s.recordMatErr k cause addr (cmdInfo op q.hd.seq acc)).matFinish k 1

/-- What the unit does when an access of the oldest command stops (R175, R361). -/
def State.matStop (s : State) (k : Nat) (q : MatCmd) (e : EngErr) : State :=
  match e.stop with
  | .again => s.planCmd k q.hd
  | .hold h => (s.modOldest k (fun q => { q with st := .held h })).faultMessage k 1 q.hd.ctx h
  | .park va =>
    let s := if q.st = .parked then s else (s.modOldest k (fun q => { q with st := .parked })).svcLog k cMIGRATE_WAIT va.toNat
    s.planCmd k q.hd
  | .fail c a => s.matFail k q (if c = cLOCAL_PARITY then cMATRIX_DATA_ERROR else c) a

/-- A requeued command whose record or base has to be read again is read once those before it have been (R186). A miss is held
as any engine miss (R361); a fault, a bad record, or a ring outside the cluster's carved L2 ends the command with that cause
when it reaches the head. -/
def State.matReread (s : State) (k : Nat) (q : MatCmd) : State :=
  let w := q.hd.word
  let set (s : State) (f : MatCmd → MatCmd) : State :=
    s.modMat k (fun m => { m with queue := m.queue.map (fun (x : MatCmd) => if x.hd.seq = q.hd.seq then f x else x) })
  let bad (s : State) (c : Nat) (a : Word) : State :=
    ((set s (fun x => { x with bad := c, badAddr := a, unread := false, st := .waiting })).planCmd k q.hd).wakeUnits k
  let stop (e : EngErr) : State := match e.stop with
    | .again => s.planCmd k q.hd
    | .hold h => (set s (fun x => { x with st := .held h })).faultMessage k 1 q.hd.ctx h
    | .park va =>
      let s := if q.st = .parked then s else (set s (fun x => { x with st := .parked })).svcLog k cMIGRATE_WAIT va.toNat
      s.planCmd k q.hd
    | .fail c a => bad s c a
  match q.st with
  | .held _ => s
  | .failed c a => bad s c a
  | _ =>
    if ((s.core k).mat.queue.takeWhile (fun x => x.hd.seq != q.hd.seq)).any (·.unread) then s.planCmd k q.hd
    else if cOpcode w = 0x20 then
      match s.engRec k q.hd (cAddr w 1) with
      | .ok r =>
        if bits (cAddr w 1) 5 0 = 0 && fmtOk r then
          (((set s (fun x => { x with fmt := r, unread := false, st := .waiting })).modMat k (fun m =>
            { m with fmtQ := some r })).planCmd k q.hd).wakeUnits k
        else bad s cFORMAT_CONTEXT_INVALID 0
      | .error e => stop e
    else
      match s.engPlaces k q.hd .load (cAddr w 2) 1 with
      | .ok ls =>
        (match ls.head? with
         | some l =>
           if l.kind = .carved && l.clu = cluKey k then
             (((set s (fun x => { x with base := l.key, unread := false, st := .waiting })).modMat k (fun m =>
               { m with ringsQ := tset (mRing w) (Ring.make w l.key true) m.ringsQ })).planCmd k q.hd).wakeUnits k
           else bad s cRING_CONFIG 0
         | none => bad s cRING_CONFIG 0)
      | .error e => stop e

/-- Work on a command: only the oldest of its core, when it is ready and has its turn (R173); otherwise it is tried
again. -/
def State.matRun (s : State) (r : CmdRef) (work : MatCmd → State → State) : State :=
  let k := r.core
  match (s.core k).mat.queue.find? (fun q => q.hd.seq = r.seq) with
  | none => s
  | some q =>
    if q.unread then (if (s.core k).stopped then s else s.matReread k q)
    else match q.st with
    | .done _ => s
    | .held _ => s
    | .failed c a => s.matFail k q c a
    | _ =>
      if !((s.core k).mat.oldest = some q && s.matReady k && s.matTurn k) then s.planCmd k q.hd
      else
        let s := s.modCluster (cluKey k) (fun c => { c with matTurn := idxOf k })
        match mTarget q.hd.word with
        | some n =>
          let reads : Bool := isMma (cOpcode q.hd.word) || cOpcode q.hd.word = 0x23
          if (s.core k).mat.poison.getLsbD n && reads then s.matFinish k 2
          else if (s.core k).mat.accBad.getLsbD n && reads then s.matFail k q cMATRIX_DATA_ERROR 0
          else work q s
        | none => work q s

/-! The multiply (R56-R58, R177). -/

/-- Elements of a stored row of 64 bytes. -/
def rowElems (w : Nat) (bs : List Byte) : List Nat :=
  let v := leNat bs
  (natsFrom 0 (8 * bs.length / w)).map (fun i => v / 2 ^ (w * i) % 2 ^ w)

/-- The rows of a tile. -/
def tileRows (w bytes : Nat) (data : List Byte) : List (List Nat) :=
  (natsFrom 0 32).map (fun r => rowElems w ((data.drop (64 * r)).take bytes))

/-- One exact slice of a dot product (R56). -/
def sliceSum (ta tb : ElemTy) (a b : List Nat) : FV :=
  FV.sum ((a.zip b).map (fun p => (fval ta p.1).mul (fval tb p.2)))

/-- A slice added to an accumulator element: acc := rne32(acc + rne32(t)). -/
def accAdd (acc : BitVec 32) (t : FV) : BitVec 32 :=
  BitVec.ofNat 32 (rne32 (FV.add .rne (fval .f32 acc.toNat) (fval .f32 (rne32 t))))

/-- A float element of the result, slice by slice of 32 products. -/
def mmaFloat (ta tb : ElemTy) (a b : List Nat) (acc : BitVec 32) : BitVec 32 :=
  (natsFrom 0 (a.length / 32)).foldl (fun acc sl => accAdd acc (sliceSum ta tb ((a.drop (32 * sl)).take 32) ((b.drop (32 * sl)).take 32))) acc

/-- An element of the FP4 block form: four scaled blocks to a slice, then the band scales (R56, R57). -/
def mmaBlock (bandA bandB : FV) (a b sa sb : List Nat) (acc : BitVec 32) : BitVec 32 :=
  (natsFrom 0 4).foldl (fun acc sl =>
    let terms := (natsFrom (4 * sl) 4).map (fun blk =>
      ((fval .e3m5 (sa.getD blk 0)).mul (fval .e3m5 (sb.getD blk 0))).mul
        (sliceSum .e2m1 .e2m1 ((a.drop (8 * blk)).take 8) ((b.drop (8 * blk)).take 8)))
    accAdd acc ((bandA.mul bandB).mul (FV.sum terms))) acc

/-- An integer element (R58). -/
def mmaInt (tb : ElemTy) (sat : Bool) (a b : List Nat) (acc : BitVec 32) : BitVec 32 :=
  (natsFrom 0 (a.length / 32)).foldl (fun acc sl =>
    let t := (((a.drop (32 * sl)).take 32).zip ((b.drop (32 * sl)).take 32)).foldl (fun (t : Int) p => t + ival .i8 p.1 * ival tb p.2) 0
    BitVec.ofNat 32 (intCode .i32 sat (acc.toInt + t))) acc

/-- A band scale: 1.0 when there is no table, otherwise entry row ÷ 64 (R163, R177). -/
def State.bandScale (s : State) (k : Nat) (h : CmdHead) (table : Word) (row : Nat) : Except EngErr FV :=
  if table = 0 then .ok (.fin false 1 0)
  else (s.engRead k h (table + BitVec.ofNat 64 (2 * (row / 64))) 2).map (fun bs => fval .bf16 (leNat bs))

/-- The result of an MMA form on two tiles, for one accumulator. -/
def mmaTile (op : Nat) (sat : Bool) (bandA bandB : FV) (da db sa sb : List Byte) (acc : Nat → Nat → BitVec 32) : List (BitVec 32) :=
  let wa := if op = 0x28 then 16 else if op = 0x2C then 4 else 8
  let wb := if op = 0x2E then 4 else wa
  let ra := tileRows wa 64 da
  let rb := tileRows wb (if op = 0x2E then 32 else 64) db
  let side (bs : List Byte) (r : Nat) : List Nat := ((bs.drop (16 * r)).take 16).map (·.toNat)
  (natsFrom 0 32).flatMap (fun i => (natsFrom 0 32).map (fun j =>
    let a := ra.getD i []
    let b := rb.getD j []
    match op with
    | 0x28 => mmaFloat .bf16 .bf16 a b (acc i j)
    | 0x29 => mmaFloat .e4m3 .e4m3 a b (acc i j)
    | 0x2A => mmaFloat .e5m2 .e5m2 a b (acc i j)
    | 0x2B => mmaFloat .e4m3 .e5m2 a b (acc i j)
    | 0x2C => mmaBlock bandA bandB a b (side sa i) (side sb j) (acc i j)
    | 0x2D => mmaInt .i8 sat a b (acc i j)
    | _ => mmaInt .i4 sat a b (acc i j)))

/-- The eaddr that names the byte at a key: in local memory its window offset (R175). -/
def slotAddr (k key : Nat) : Word := BitVec.ofNat 64 (if isCompute k && key / 2 ^ 40 % 64 = 0 then key % 65536 else key)

/-- An MMA command (R177). A ring that a restore has left UNCONFIGURED ends it with RING_CONFIG and eaddr 0 (DESIGN CHOICE, log entry
88). -/
def State.mma (s : State) (k : Nat) (q : MatCmd) : State :=
  let w := q.hd.word
  let op := cOpcode w
  let m := (s.core k).mat
  let a := m.ring (mRingA w)
  let b := m.ring (mRingB w)
  let fm := m.fmt.getD 0
  if !a.configured || !b.configured then s.matFail k q cRING_CONFIG 0
  else if a.revoked || b.revoked then
    let r := if a.revoked then a else b
    s.matFail k q cCARVE_REVOKED (slotAddr k (r.slotKey k r.head))
  else
    let ka := a.slotKey k a.head
    let kb := b.slotKey k b.head
    let scales := decide (op = 0x2C)
    match (s.slotBad a.carved ka (slotReads 64 scales)).or (s.slotBad b.carved kb (slotReads (if op = 0x2E then 32 else 64) scales)) with
    | some key => s.matFail k q cMATRIX_DATA_ERROR (slotAddr k key)
    | none =>
      let bands : Except EngErr (FV × FV) :=
        if op = 0x2C then
          match s.bandScale k q.hd (fmBandA fm) (mRowA w), s.bandScale k q.hd (fmBandB fm) (mRowB w) with
          | .ok x, .ok y => .ok (x, y)
          | .error e, _ => .error e
          | _, .error e => .error e
        else .ok (.fin false 1 0, .fin false 1 0)
      match bands with
      | .error e => s.matStop k q e
      | .ok (ba, bb) =>
        let n := mAcc w
        let vals := mmaTile op (cSat w) ba bb (s.slotBytes k q.hd a ka 2048) (s.slotBytes k q.hd b kb 2048)
          (s.slotBytes k q.hd a (ka + 2048) 512) (s.slotBytes k q.hd b (kb + 2048) 512) (fun i j => m.accAt n i j)
        (s.modMat k (fun m => m.setAcc n vals)).matFinish k 0

/-! MSTACC (R180-R183). -/

/-- v ÷ c, exact enough for every rounding to a format of a few bits: the quotient to 96 more bits and a sticky bit. -/
def FV.quot (v : FV) (mant : Nat) (exp : Int) : FV :=
  match v with
  | .fin neg m e =>
    let n := m * 2 ^ 96
    .fin neg (n / mant * 2 + (if n % mant = 0 then 0 else 1)) (e - exp - 97)
  | x => x

/-- The block scale for a largest magnitude (R183): the smallest E3M5 code of at least amax ÷ 6, or 0xFF. -/
def blockScale (amax : FV) : Nat :=
  if amax.isZero then 0
  else ((natsFrom 0 256).find? (fun c => !((fval .e3m5 c).mul (.fin false 6 0)).lt amax)).getD 255

/-- The largest magnitude of the values that are not NaN. -/
def blockMax (vs : List FV) : FV := (vs.filter (fun v => !v.isNan)).foldl (fun m v => m.max v.abs) (.fin false 0 0)

/-- An element of a block, under its scale (R183). -/
def blockElem (mode : RMode) (rnd : BitVec 32) (scale : Nat) (v : FV) : Nat :=
  if scale = 0 then (if v.isNan then 0 else if v.sign then 8 else 0)
  else match fval .e3m5 scale with
    | .fin _ m e => roundF .e2m1 mode false rnd (v.quot m e)
    | _ => 0

/-- The value of an accumulator element that is converted (R181). -/
def accValue (fm : Rec) (a : BitVec 32) : FV :=
  if fmOscale fm = 0 then fval .f32 a.toNat else (fval .f32 a.toNat).mul (fval .bf16 (fmOscale fm))

/-- One converted element, for every output type but E2M1 (R181). -/
def accOut (fm : Rec) (sat : Bool) (rnd : BitVec 32) (a : BitVec 32) : Nat :=
  let o := (ElemTy.ofCode (fmOut fm)).getD .f32
  if fmInt fm then (if fmOut fm = 2 then a.toNat else convCode .i32 o (fmMode fm) sat rnd a.toNat)
  else if fmOut fm = 9 && fmOscale fm = 0 then a.toNat
  else roundF o (fmMode fm) sat rnd (accValue fm a)

/-- The bytes of row i of the stored tile. -/
def accRow (fm : Rec) (sat : Bool) (rnds : List (BitVec 32)) (row : List (BitVec 32)) : List Byte :=
  let ps := row.zip (rnds ++ List.replicate 32 0)
  if fmOut fm = 12 then
    let es := (natsFrom 0 4).flatMap (fun b =>
      let blk := (ps.drop (8 * b)).take 8
      let sc := blockScale (blockMax (blk.map (fun p => accValue fm p.1)))
      blk.map (fun p => blockElem (fmMode fm) p.2 sc (accValue fm p.1)))
    leBytes 16 (es.foldr (fun e r => e + 16 * r) 0)
  else
    ps.flatMap (fun p => leBytes (outBytes (fmOut fm)) (accOut fm sat p.2 p.1))

/-- The scale bytes of a row. -/
def accScales (fm : Rec) (row : List (BitVec 32)) : List Byte :=
  (natsFrom 0 4).map (fun b => BitVec.ofNat 8 (blockScale (blockMax (((row.drop (8 * b)).take 8).map (accValue fm)))))

/-- The rows of MSTACC from row i on, n of them, in row order (R180). One that faults part-way leaves its accumulator, cf0 set or not
(DESIGN CHOICE, log entry 89); soff is added as an unsigned number (DESIGN CHOICE, log entry 90). -/
def State.mstaccRows (s : State) (k : Nat) (q : MatCmd) (fm : Rec) : Nat → State
  | 0 =>
    let n := mAcc q.hd.word
    let m := (s.core k).mat
    let finish (s : State) : State :=
      (if cFlag q.hd.word 0 then s.modMat k (fun m => m.setAcc n []) else s).matFinish k 0
    if fmOut fm = 12 then
      let bs := (natsFrom 0 32).flatMap (fun i => accScales fm ((natsFrom 0 32).map (m.accAt n i)))
      match s.engWrite k q.hd (fmQscale fm + BitVec.ofNat 64 (cOp q.hd.word 5)) bs with
      | .ok s => finish s
      | .error e => (s.modOldest k (fun q => { q with row := 32 })).matStop k q e
    else finish s
  | left + 1 =>
    let i := 31 - left
    let n := mAcc q.hd.word
    let m := (s.core k).mat
    let rnds := if (fmMode fm).isRst then ((xsStates 1024 q.seed).1.drop (32 * i)).take 32 else []
    let va := BitVec.ofInt 64 (vaInt (cAddr q.hd.word 2) + (i : Int) * mStride q.hd.word)
    match s.engWrite k q.hd va (accRow fm (cSat q.hd.word) rnds ((natsFrom 0 32).map (m.accAt n i))) with
    | .ok s => s.mstaccRows k q fm left
    | .error e => (s.modOldest k (fun q => { q with row := i })).matStop k q e

/-- The rows of MLDACC (R179). -/
def State.mldaccRows (s : State) (k : Nat) (q : MatCmd) : Nat → State
  | 0 => (s.modMat k (fun m => m.setPoison (mAcc q.hd.word) false)).matFinish k 0
  | left + 1 =>
    let i := 31 - left
    let va := BitVec.ofInt 64 (vaInt (cAddr q.hd.word 2) + (i : Int) * mStride q.hd.word)
    match s.engRead k q.hd va 128 with
    | .ok bs =>
      let vals := (natsFrom 0 32).map (fun j => (BitVec.ofNat 32 (leNat ((bs.drop (4 * j)).take 4))))
      (s.modMat k (fun m => m.setRow (mAcc q.hd.word) i vals)).mldaccRows k q left
    | .error e => (s.modOldest k (fun q => { q with row := i })).matStop k q e

/-! The commands. -/

/-- MFMT (R165): the record read at ISSUE becomes the format context; a bad one of R186 ends with its cause. -/
def execMfmt (r : CmdRef) (s : State) : Host.Outcome State Fault Refusal :=
  .next (s.matRun r (fun q s =>
    if q.bad ≠ 0 then s.matFail r.core q q.bad q.badAddr
    else (s.modMat r.core (fun m => { m with fmt := some q.fmt })).matFinish r.core 0))

/-- MZERO (R178). -/
def execMzero (r : CmdRef) (s : State) : Host.Outcome State Fault Refusal :=
  .next (s.matRun r (fun q s =>
    (s.modMat r.core (fun m => (m.setAcc (mAcc q.hd.word) []).setPoison (mAcc q.hd.word) false)).matFinish r.core 0))

/-- MLDACC (R179): it goes on at the row where it stopped. -/
def execMldacc (r : CmdRef) (s : State) : Host.Outcome State Fault Refusal :=
  .next (s.matRun r (fun q s => s.mldaccRows r.core q (32 - q.row)))

/-- MSTACC (R180). -/
def execMstacc (r : CmdRef) (s : State) : Host.Outcome State Fault Refusal :=
  .next (s.matRun r (fun q s => s.mstaccRows r.core q ((s.core r.core).mat.fmt.getD 0) (32 - q.row)))

/-- MCFGRING (R168, R169). -/
def execMcfgring (r : CmdRef) (s : State) : Host.Outcome State Fault Refusal :=
  .next (s.matRun r (fun q s =>
    if q.bad ≠ 0 then s.matFail r.core q q.bad q.badAddr
    else (s.modRing r.core (mRing q.hd.word) (fun _ =>
      { Ring.make q.hd.word q.base q.carved with revoked := q.revoked, sees := q.hd.sees })).matFinish r.core 0))

/-- MRINGSTAT (R170): the report as it stands now. -/
def execMringstat (r : CmdRef) (s : State) : Host.Outcome State Fault Refusal :=
  .next (s.matRun r (fun q s =>
    let rep := ((s.core r.core).mat.ring (mRing q.hd.word)).report
    (s.modOldest r.core (fun q => { q with payload := rep })).matFinish r.core 0))

/-- MMA_BF16 (R177). -/
def execMmaBf16 (r : CmdRef) (s : State) : Host.Outcome State Fault Refusal := .next (s.matRun r (fun q s => s.mma r.core q))

/-- MMA_E4M3 (R177). -/
def execMmaE4m3 (r : CmdRef) (s : State) : Host.Outcome State Fault Refusal := .next (s.matRun r (fun q s => s.mma r.core q))

/-- MMA_E5M2 (R177). -/
def execMmaE5m2 (r : CmdRef) (s : State) : Host.Outcome State Fault Refusal := .next (s.matRun r (fun q s => s.mma r.core q))

/-- MMA_E4E5 (R177). -/
def execMmaE4e5 (r : CmdRef) (s : State) : Host.Outcome State Fault Refusal := .next (s.matRun r (fun q s => s.mma r.core q))

/-- MMA_E2M1 (R177). -/
def execMmaE2m1 (r : CmdRef) (s : State) : Host.Outcome State Fault Refusal := .next (s.matRun r (fun q s => s.mma r.core q))

/-- MMA_I8 (R177). -/
def execMmaI8 (r : CmdRef) (s : State) : Host.Outcome State Fault Refusal := .next (s.matRun r (fun q s => s.mma r.core q))

/-- MMA_I8W4 (R177). -/
def execMmaI8w4 (r : CmdRef) (s : State) : Host.Outcome State Fault Refusal := .next (s.matRun r (fun q s => s.mma r.core q))

/-- The oldest matrix command of a core retires (R168, R174): an MMA pops its rings, a completion word is sent, and the next
command may start. -/
def State.matRetire (s : State) (k : Nat) : State :=
  match (s.core k).mat.queue with
  | [] => s
  | q :: rest =>
    match q.st with
    | .done status =>
      if (s.core k).stopped then s else
      let w := q.hd.word
      let pop (s : State) (i : Nat) (keep : Bool) : State := if keep then s else s.modRing k i Ring.pop
      let s := if isMma (cOpcode w) then
          pop (pop s (mRingA w) (cFlag w 0)) (mRingB w) (cFlag w 1) else s
      let s := s.modMat k (fun m => { m with queue := rest, undelivered := m.undelivered + if cNotify w then 1 else 0 })
      let payload := if cOpcode w = 0x25 then q.payload else cOp w 7
      ((s.sendCompletion k q.hd payload status ((mTarget w).getD 0) q.lines).wakeUnits k).settleMatrix k
    | _ => s

/-- MATRIX_COMMAND_RETIRE (R174). -/
def execMatrixCommandRetire (core : Nat) (s : State) : Host.Outcome State Fault Refusal := .next (s.matRetire core)

/-! VACC (R158). -/

/-- Must a VACC of accumulator n by context c wait for a command: an earlier one of the context, one requeued without its context
(DESIGN CHOICE, log entry 87), or one that is part-way through a load of the accumulator? -/
def MatCmd.holdsBack (q : MatCmd) (c n : Nat) : Bool :=
  mTarget q.hd.word = some n && (q.hd.ctx = c || q.requeued || (cOpcode q.hd.word = 0x22 && q.row ≠ 0))

/-- VACC (R158, R162, R175). An accumulator whose parity fails reads as a poisoned one (DESIGN CHOICE, log entry 95). -/
def State.vacc (s : State) (vd : VReg) (acc : BitVec 2) (rs1 : Reg) : State :=
  s.onWindowDue [.matrix] true [] (vd = 31) (fun w _ s =>
    let p := (s.rx rs1).toNat
    let m := s.here.mat
    if !s.holdsMatrix then s.trap cFORMAT_CONTEXT_INVALID 0
    else if 63 < p then s.trap cACC_INDEX_INVALID 0
    else if m.queue.any (fun q => q.holdsBack s.curCtx acc.toNat) then s.block .matrix
    else if m.poison.getLsbD acc.toNat || m.accBad.getLsbD acc.toNat then s.trap cMATRIX_DATA_ERROR 0
    else
      s.vdone w [] [] vd (vpack 32 ((natsFrom 0 16).map (fun e => (m.accAt acc.toNat (p / 2) (16 * (p % 2) + e)).toNat))))

/-- VACC (R158). -/
def execVacc (vd : VReg) (acc : BitVec 2) (rs1 : Reg) (s : State) : Host.Outcome State Fault Refusal := .next (s.vacc vd acc rs1)

end Sys2Proof.Machine
end

