-- ==== Sys2Proof/Machine/Page.lean ====
section
/-! DEFINITION. Pages (chapter 14): TLB entries and their checks, frame records, TLBW, TLBINV, TLBPROBE, SHOOT, pins,
carves, and the fault words of the pager's tree. -/

namespace Sys2Proof.Machine

/-! TLB entries (R358, R359). -/

/-- The entry held in 16 bytes. -/
def TlbEntry.ofNat (v : Nat) : TlbEntry :=
  let w : BitVec 128 := BitVec.ofNat 128 v
  { keyid := bits w 125 120, frame := bits w 119 76, sset := bits w 71 64, vpn := bits w 56 16, size := bits w 15 13,
    vis := w.extractLsb' 10 3, r := w.getLsbD 8, w := w.getLsbD 7, x := w.getLsbD 6, u := w.getLsbD 5, t := w.getLsbD 4,
    p := w.getLsbD 3, members := [] }

/-- The reserved bits of an image are zero (R358). -/
def tlbReservedOk (v : Nat) : Bool :=
  let w : BitVec 128 := BitVec.ofNat 128 v
  bits w 127 126 = 0 && bits w 75 72 = 0 && bits w 63 57 = 0 && bits w 9 9 = 0 && bits w 2 0 = 0

/-- Is a physical address on a DRAM die of the module? -/
def isDramPa (pa : Nat) : Bool := decide (512 ≤ pa / 2 ^ 46) && decide (pa / 2 ^ 46 < 576) && pa / 2 ^ 36 % 2 ^ 10 = 0

/-- The kinds of place a frame may lie in (R359). -/
inductive FrameKind where
  | dram | carved | lmem | mmio | none
deriving DecidableEq, Repr

/-- The kind of a frame: its die and space valid at the current grade (R217, R218). -/
def State.frameKind (s : State) (pa : Nat) : FrameKind :=
  match s.paLoc pa 0 with
  | .ok l => (match l.kind with
    | .dram => .dram
    | .carved => .carved
    | .lmem _ => .lmem
    | .mmio _ => .mmio
    | _ => .none)
  | .error .revoked => .carved
  | .error .invalid => .none

/-- The checks of R359, for a core whose chiplet holds the stripe sets. -/
def State.entryOk (s : State) (k : Nat) (v : Nat) : Bool :=
  let e := TlbEntry.ofNat v
  let pa := e.frame * 4096
  tlbReservedOk v && decide (e.size < 4) && e.vis ≠ 0 && (!e.t || !e.w) && e.vpn ≠ 0 &&
    (e.keyid = 0 || (tfind e.keyid s.trust.keys).isSome) &&
    (match e.size with
     | 0 =>
       e.sset = 0 && pa % 2 ^ 16 = 0 &&
         (match s.frameKind pa with
          | .dram => true
          | .carved => e.keyid = 0
          | .lmem => !e.x && e.keyid = 0
          | .mmio => !e.x && e.keyid = 0
          | .none => false)
     | 1 => e.sset = 0 && e.vpn % 32 = 0 && pa % 2 ^ 21 = 0 && s.frameKind pa = .dram
     | 2 => e.sset = 0 && e.vpn % 16384 = 0 && pa % 2 ^ 30 = 0 && s.frameKind pa = .dram
     | _ => e.vpn % 32 = 0 && isDramPa pa && !e.x && (s.chip (dieOf k)).stripeValid e.sset)

/-- First address of an entry's range and the one past it. -/
def TlbEntry.lo (e : TlbEntry) : Nat := e.vpn * 2 ^ 16 / 2 ^ e.shift * 2 ^ e.shift
def TlbEntry.hi (e : TlbEntry) : Nat := e.lo + 2 ^ e.shift

/-- Does an entry overlap a range of virtual addresses (bits 56:0)? -/
def TlbEntry.overlaps (e : TlbEntry) (lo hi : Nat) : Bool := decide (e.lo < hi) && decide (lo < e.hi)

/-! Frame records (R368-R370). -/

/-- The address of the record of a frame, when the records of its region are in use. A management core, whose chiplet has no
DISP_FTAB, goes by that of the frame's home chiplet (DESIGN CHOICE, log entry 97). -/
def State.recordOf (s : State) (k pa : Nat) : Option Nat :=
  let die := if dieOf k < 512 then dieOf k else (s.locOfKey pa 0).clu / 132
  let t := tget 0 (pa / 2 ^ 46 - 512) (s.chip die).ftab
  if isDramPa pa && t.getLsbD 0 then some (bits t 55 6 * 64 + 8 * (pa % 2 ^ 36 / 2 ^ 16)) else none

/-- The places of the eight bytes of a record. -/
def State.recordLocs (s : State) (rec : Nat) : List Loc := (natsFrom rec 8).map (fun a => s.locOfKey a 0)

def State.readRecord (s : State) (rec : Nat) : Word :=
  BitVec.ofNat 64 (leNat ((s.recordLocs rec).map s.byteAt))

/-- A strong atomic update of a record at its home (R369). -/
def State.writeRecord (s : State) (rec : Nat) (v : Word) : State :=
  s.perform s.curCore s.curCtx ((s.recordLocs rec).zip (leBytes 8 v.toNat))

def recState (v : Word) : Nat := bits v 2 0
def recCarved (v : Word) : Bool := v.getLsbD 3
def recPins (v : Word) : Nat := bits v 23 8
def recSetState (v : Word) (st : Nat) : Word := (v &&& ~~~7) ||| BitVec.ofNat 64 st
def recSetPins (v : Word) (n : Nat) : Word := (v &&& ~~~0xFFFF00) ||| BitVec.ofNat 64 (n * 256)
def recSetCarved (v : Word) (b : Bool) : Word := (v &&& ~~~8) ||| (if b then 8 else 0)

/-- Does a page accept a pin (R370): RESIDENT, fewer than 65,535 pins, its records in use? -/
def State.pinAccepted (s : State) (k pa : Nat) : Bool :=
  match s.recordOf k pa with
  | some r => recState (s.readRecord r) = 1 && decide (recPins (s.readRecord r) < 65535)
  | none => false

/-- Add to, or take from, the pin count of a page. -/
def State.addPin (s : State) (k pa : Nat) (up : Bool) : State :=
  match s.recordOf k pa with
  | some r =>
    let v := s.readRecord r
    s.writeRecord r (recSetPins v (if up then recPins v + 1 else recPins v - 1))
  | none => s

/-! The TLB of a core. -/

/-- Loads performed early by translations of a core that go away are over. -/
def Core.forgetEarly (c : Core) : Core :=
  if c.ctxs.all (fun e => e.2.early.isEmpty) then c else c.mapCtxs (fun _ x => { x with early := [] })

/-- Accesses in flight of cores that p names, by virtual addresses of a range (R364, R371) (DEDUCED, log entry 98). -/
def State.inFlight (s : State) (p : Nat → Bool) (hit : Nat → Nat → Bool) : Bool :=
  s.reqs.any (fun r => p r.core && !r.kind.keys.isEmpty && hit (bits r.va 56 0) (bits r.va 56 0 + 128))

/-- Remove the entries that satisfy p from a core's TLB; writers parked at a transitional page try again (R364, R372). -/
def State.dropEntries (s : State) (k : Nat) (p : TlbEntry → Bool) : State :=
  let gone := (s.core k).tlb.filter (fun e => p e.2)
  if gone.isEmpty then s
  else
    let s := s.modCore k (fun c => ({ c with tlb := c.tlb.filter (fun e => !p e.2) }).forgetEarly)
    if gone.any (fun e => e.2.t) then s.wakeWhere k (fun w => w = .migrate) else s

/-- An armed monitor of a restored context is registered again, at once or when its line translates again (R342). -/
def State.rearm (s : State) (k n : Nat) : State :=
  let c := s.ctx k n
  let s := s.disarm k n
  if !c.armed then s
  else match s.xlate (s.who k n) .load c.monLine with
    | .ok l => (s.modCtx k n (fun c => { c with monPa := lineOf l.key, monDue := false })).registerMonitor k n l.clu (lineOf l.key)
    | .error _ => s.modCtx k n (fun c => { c with monDue := true })

/-- The monitors of a core that wait for a translation (R342). -/
def State.rearmDue (s : State) (k : Nat) : State :=
  ((s.core k).ctxs.filter (fun e => e.2.monDue && e.2.armed)).foldl (fun s e => s.rearm k e.1) s

/-- Insert an entry into a free place, else over one with p = 0, else over any (R363); which one is free (log entry 15, DESIGN CHOICE).
Writers parked at one that is replaced try again (R372). -/
def State.insertEntry (s : State) (k : Nat) (e : TlbEntry) : State :=
  let tlb := (s.core k).tlb
  let free := (natsFrom 0 64).filter (fun i => (tfind i tlb).isNone)
  let soft := (tlb.filter (fun x => !x.2.p)).map (·.1)
  let from_ := if !free.isEmpty then free else if !soft.isEmpty then soft else tlb.map (·.1)
  let i := from_.getD (Config.victim s.clock % from_.length) 0
  let old : Option TlbEntry := tfind i tlb
  let s := (s.modCore k (fun c =>
    let c : Core := { c with tlb := tset i e c.tlb }
    if old.isSome then c.forgetEarly else c)).tick
  let s := match old with
    | some x => if x.t then s.wakeWhere k (fun w => w = Wait.migrate) else s
    | none => s
  s.rearmDue k

/-- A residency slot is freed: its visibility bit goes from every entry (R357). -/
def State.clearVis (s : State) (k slot : Nat) : State :=
  let b : BitVec 3 := 1#3 <<< (slot % 2)
  s.modCore k (fun c => { c with tlb := c.tlb.filterMap (fun (x : Nat × TlbEntry) =>
    let e : TlbEntry := { x.2 with vis := x.2.vis &&& ~~~b }
    if e.vis = 0 then none else some (x.1, e)) })

/-! TLBW (R363). -/

/-- Place the notice of a trapped context in the buffer again, and repeat the messages of its engine commands (R363). -/
def State.refuseFill (s : State) (t : Target) : State :=
  let c := s.ctx t.core t.ctx
  let s :=
    if c.st = .trapped && !((s.core t.core).notices.any (fun e => e.1 = t.ctx)) then
      s.notice t.core t.ctx (s.supervisor t.core { c with st := c.prior } c.ecause.toNat)
        (noticeWord t.core c.noticeKind c.tseq c.ecause.toNat t.ctx)
    else s
  s.repeatFaults t.core t.ctx

/-- A trap of kind W that the fault path has not passed on (R257, R361). -/
def Ctx.onFaultPath (c : Ctx) : Bool := c.st = .trapped && c.onPath

/-- fail_ctx (R363) (DEDUCED, log entry 41). -/
def State.failCtx (s : State) (t : Target) (cause : Nat) : State :=
  let c := s.ctx t.core t.ctx
  let s :=
    if c.onFaultPath then
      let code := if cause = 0 then c.ecause.toNat else cause
      let s := s.withdrawNotice t.core t.ctx
      let due := c.policyDue || (c.prior = .strand && isCompute t.core)
      let s := s.setCtx t.core t.ctx
        { c with ecause := BitVec.ofNat 64 code, einfo := c.einfo ||| 16, onPath := false, cause := code, policyDue := due }
      (s.notice t.core t.ctx (s.supervisor t.core { c with st := c.prior } 0)
        (noticeWord t.core c.noticeKind c.tseq code t.ctx)).pokeDispatcher (chipOf t.core)
    else s
  s.settleHeld t.core t.ctx (fun h => .failed (if cause = 0 then h.cause else cause) h.va)

/-- The record check of TLBW: a DRAM frame whose records are in use must be RESIDENT, or MIGRATING under t = 1. -/
def State.fillAllowed (s : State) (k : Nat) (e : TlbEntry) : Bool :=
  if e.size = 3 then true
  else
    match s.recordOf k (e.frame * 4096) with
    | none => true
    | some r => recState (s.readRecord r) = 1 || (recState (s.readRecord r) = 2 && e.t)

/-- A STRIPE entry with the members of its set as they are now (R367). -/
def TlbEntry.taken (e : TlbEntry) (c : Chip) : TlbEntry :=
  if e.size = 3 then { e with members := (natsFrom 0 (c.stripeSize e.sset)).map (c.stripeMember e.sset) } else e

def State.tlbw (s : State) (rs1 rs2 : Reg) : State :=
  let d := s.rx rs1
  match s.designate d with
  | .error (c, a) => s.trap c a
  | .ok t =>
    let action := bits d 10 9
    if action = 2 then
      (if s.chkOk d t then s.failCtx t (bits d 63 58) else s).complete
    else
      let a := s.rx rs2
      if bits a 3 0 ≠ 0 then s.trap cLOAD_ACCESS a
      else
        s.loadThen a 16 (fun bs =>
          let v := leNat bs
          let e := TlbEntry.ofNat v
          if !s.entryOk t.core v then s.trap cSECURITY_VIOLATION a
          else if !s.fillAllowed s.curCore e then (s.refuseFill t).complete
          else
            let s := s.dropEntries t.core (fun x => x.overlaps e.lo e.hi && (x.vis &&& e.vis) ≠ 0)
            let s := s.insertEntry t.core (e.taken (s.chip (dieOf t.core)))
            let s :=
              if action = 1 then
                (if s.chkOk d t then s.resume t.core t.ctx else s).settleHeld t.core t.ctx (fun _ => .waiting)
              else s
            s.complete)

/-! TLBINV and TLBPROBE (R364, R365). -/

def State.tlbinv (s : State) (rs1 rs2 : Reg) : State :=
  let d := s.rx rs1
  match s.designate d with
  | .error (c, a) => s.trap c a
  | .ok t =>
    let v := s.rx rs2
    let mask : BitVec 3 := v.extractLsb' 2 3
    let hit (e : TlbEntry) : Bool := mask = 0 || (e.vis &&& mask) ≠ 0
    let lo := bits v 56 16 * 2 ^ 16
    let goes (e : TlbEntry) : Bool :=
      match bits v 1 0 with
      | 0 => e.overlaps lo (lo + 65536) && hit e
      | 2 => hit e
      | _ => true
    -- what uses the entries has completed (R364)
    if s.inFlight (· = t.core) (fun a b => (s.core t.core).tlb.any (fun e => goes e.2 && e.2.overlaps a b)) then s
    else (s.dropEntries t.core goes).complete

/-- The fields that TLBPROBE reads from the entry at an index (R365). -/
def probeWord (i : Nat) (e : TlbEntry) (va : Word) (multi : Bool) : Word :=
  let pa := if e.size = 3 then (e.stripePlace va).2 else e.pa va
  let member := if e.size = 3 then bits va 20 12 % e.members.length else 0
  BitVec.ofNat 64 (2 ^ 63 + (if multi then 2 ^ 62 else 0) + e.keyid * 2 ^ 56 + pa / 4096 % 2 ^ 44 * 2 ^ 12 +
    member * 2 ^ 8 + i)

def State.tlbprobe (s : State) (rd rs1 rs2 : Reg) : State :=
  match s.designate (s.rx rs1) with
  | .error (c, a) => s.trap c a
  | .ok t =>
    let v := s.rx rs2
    let mask : BitVec 3 := v.extractLsb' 2 3
    match (s.core t.core).tlb.filter (fun e => e.2.covers v && (mask = 0 || (e.2.vis &&& mask) ≠ 0)) with
    | [] => s.done rd 0
    | e :: r => s.done rd (probeWord e.1 e.2 v (!r.isEmpty))

/-! SHOOT (R371, R374). -/

/-- The rings of a cluster's cores that lie in its carve become revoked, those of queued MCFGRINGs and of groups saved there with
them (R168, R376). -/
def State.revokeRings (s : State) (clu : Nat) : State :=
  let mark (t : Tbl Ring) : Tbl Ring := t.map (fun (e : Nat × Ring) => (e.1, if e.2.carved then { e.2 with revoked := true } else e.2))
  let queued (l : List MatCmd) : List MatCmd := l.map (fun (q : MatCmd) => if q.carved then { q with revoked := true } else q)
  let lost (l : List SavedSlot) : List SavedSlot := l.map (fun (x : SavedSlot) => if x.clu = clu then { x with lost := true } else x)
  { s with
    cores := s.cores.map (fun (e : Nat × Core) =>
      (e.1, if cluKey e.1 = clu && isCompute e.1 then
        { e.2 with mat := { e.2.mat with rings := mark e.2.mat.rings, ringsQ := mark e.2.mat.ringsQ, queue := queued e.2.mat.queue } }
        else e.2)),
    kernels := s.kernels.map (fun (e : Nat × Kernel) => (e.1, { e.2 with slots := lost e.2.slots })) }

/-- The carve under a merge buffer is revoked: its bound slots go to ERROR (R417). -/
def State.revokeMerge (s : State) (clu : Nat) : State :=
  s.modCluster clu (fun c => { c with merge := { c.merge with
    slots := c.merge.slots.map (fun (e : Nat × QSlot) => (e.1, if e.2.st = .bound then { e.2 with st := .error cCARVE_REVOKED } else e.2)),
    entries := [] } })

/-- A merge buffer is released with its slots; the coordinators of their sweeps are told (R417, R410). -/
def State.releaseMerge (s : State) (clu : Nat) : State :=
  let slots := (s.cluster clu).merge.slots
  let sweeps := slots.foldl (fun (t : Tbl Sweep) e => match tfind e.2.sweep t with
    | some w => tset e.2.sweep { w with bound := w.bound - 1 } t
    | none => t) s.sweeps
  let clear (m : Merge) : Merge := { Merge.none with nacks := m.nacks, dropped := m.dropped, merges := m.merges }
  ({ s with sweeps := sweeps }.modCluster clu (fun c => { c with merge := clear c.merge })).plans
    (slots.map (fun (e : Nat × QSlot) => .sweepClosedDone e.2.sweep))

/-- The actions of a force unmap on a page of len bytes at pa (R374): its pinned lines become poisoned and lose their
pins, and a carve that it backs is revoked. -/
def State.forcePage (s : State) (pa len : Nat) : State :=
  let inPage (line : Nat) : Bool := decide (pa ≤ line * 128) && decide (line * 128 < pa + len)
  let pinned := (s.pinNests.filter (fun e => inPage e.1 && e.2 ≠ 0)).map (·.1)
  let s := { s with pinNests := s.pinNests.filter (fun e => !inPage e.1),
                    poison := pinned.foldl (fun t l => tset l (2 ^ 128 - 1) t) s.poison }
  let backed := (s.clusters.filter (fun e => e.2.carve.state = 1 && decide (pa ≤ e.2.carve.backing) &&
    decide (e.2.carve.backing < pa + len))).map (·.1)
  backed.foldl (fun s c => ((s.modCluster c (fun x => { x with carve := { x.carve with state := 2 } })).revokeRings c).revokeMerge c) s

/-- The change of a frame record that an operation of SHOOT makes (R370): none where it is refused. -/
def shootChange (op : Nat) (v : Word) : Option Word :=
  let st := recState v
  let free := recPins v = 0
  match op with
  | 1 => if st = 1 && free then some (recSetState v 2) else none
  | 2 => if st = 2 then some (recSetState v 0) else none
  | 3 => if st = 1 && free then some (recSetState v 3) else none
  | 4 => if st = 1 && free then some (recSetState v 0) else none
  | 5 => if st ≠ 0 then some (recSetCarved (recSetPins (recSetState v 0) 0) false) else none
  | 6 => if st = 2 then some (recSetState v 1) else none
  | _ => some v

/-- The lines of a frame leave a core's L1s. -/
def Core.dropFrame (c : Core) (lo hi : Nat) : Core :=
  let keep (l : L1Line) : Bool := !(decide (lo ≤ l.line * 128) && decide (l.line * 128 < hi))
  { c with l1d := c.l1d.filter keep, l1i := c.l1i.filter keep }

/-- What SHOOT does at every core for a range of virtual addresses (R371). -/
def State.shootCores (s : State) (op lo hi : Nat) : State :=
  (s.cores.map (·.1)).foldl (fun s k =>
    let hit := ((s.core k).tlb.filter (fun e => e.2.overlaps lo hi)).map (·.2)
    if hit.isEmpty then s
    else if op = 1 then
      s.modCore k (fun c => { c with tlb := c.tlb.map (fun (e : Nat × TlbEntry) =>
        (e.1, if e.2.overlaps lo hi then { e.2 with w := false, t := true } else e.2)) })
    else
      let s := s.dropEntries k (fun e => e.overlaps lo hi)
      s.modCore k (fun c => hit.foldl (fun c e => c.dropFrame (e.frame * 4096) (e.frame * 4096 + 2 ^ e.shift)) c)) s

/-- Is an access in flight by a virtual address of a range, or not yet acknowledged: SHOOT waits until none is (R371)? -/
def State.underWay (s : State) (lo hi : Nat) : Bool := s.inFlight (fun _ => true) (fun a b => decide (a < hi) && decide (lo < b))

/-- DESIGN CHOICE, log entry 20. -/
def State.shoot (s : State) (rd rs1 rs2 : Reg) : State :=
  s.supervised (fun s =>
    let a := s.rx rs1
    let f := s.rx rs2
    let size := bits a 1 0
    let op := bits f 2 0
    let shift := if size = 0 then 16 else if size = 1 then 21 else 30
    let pa := bits f 55 16 * 2 ^ 16
    let lo := bits a 56 16 * 2 ^ 16
    if size = 3 || op = 7 || bits a 15 2 ≠ 0 || !canonical a || bits f 15 3 ≠ 0 || bits f 63 56 ≠ 0 ||
        lo % 2 ^ shift ≠ 0 || pa % 2 ^ shift ≠ 0 || !isDramPa pa then s.done rd 3
    else
      s.awaitAcks (fun s =>
        let go (s : State) : State := ((s.shootCores op lo (lo + 2 ^ shift)).acquire .mod).done rd 0
        if op = 0 then (if s.underWay lo (lo + 2 ^ shift) then s else go s)
        else
          match s.recordOf s.curCore pa with
          | none => s.done rd 2
          | some r =>
            let v := s.readRecord r
            match shootChange op v with
            | none => s.done rd (if recPins v = 0 then 2 else 1)
            | some v' =>
              if s.underWay lo (lo + 2 ^ shift) then s
              else
                let s := s.writeRecord r v'
                -- the page is migrated, evicted or unmapped (R340)
                let s := if op = 6 then s else s.endMonitors (fun l => decide (pa ≤ 128 * l) && decide (128 * l < pa + 2 ^ shift))
                go (if op = 5 then s.forcePage pa (2 ^ shift) else s)))

/-! Pins (R375). -/

/-- The slot of a line in its home slice: the cluster and the set (R222). -/
def State.lineHome (s : State) (line : Nat) : Nat × Nat := ((s.locOfKey (128 * line) 0).clu, line % 2 ^ 29 % 1024)

/-- May a line be pinned: fewer than four other lines of its set are pinned, and its nest has room? -/
def State.mayPin (s : State) (line : Nat) : Bool :=
  let n := tget 0 line s.pinNests
  if n ≠ 0 then decide (n < 255)
  else
    let h := s.lineHome line
    decide ((s.pinNests.filter (fun e => e.2 ≠ 0 && e.1 % 1024 = line % 1024 && s.lineHome e.1 = h)).length < 4)

/-- Pin one line through a page at pa (R375): none when it stops. -/
def State.pinLine (s : State) (k page line : Nat) : Option State :=
  if s.mayPin line && s.pinAccepted k page then
    some ({ s with pinNests := tset line (tget 0 line s.pinNests + 1) s.pinNests }.addPin k page true)
  else none

/-- Release one pin of a line, if it has any. -/
def State.unpinLine (s : State) (k page line : Nat) : Option State :=
  let n := tget 0 line s.pinNests
  if n = 0 then none
  else some ({ s with pinNests := if n = 1 then tdel line s.pinNests else tset line (n - 1) s.pinNests }.addPin k page false)

/-- The first address of the frame that the entry for an address names, and the address's own (R375). -/
def State.pageOf (s : State) (w : Who) (va : Word) : Option (Nat × Nat) :=
  match s.tlbMatch w va with
  | [e] => if e.size = 3 then none else if isDramPa (e.pa va) then some (e.frame * 4096, e.pa va) else none
  | _ => none

/-- The first addresses, within a range, of the 64 KiB granules it touches. -/
def granules (va : Word) (len : Nat) : List Word :=
  va :: (natsFrom 1 (len / 65536 + 1)).filterMap (fun i =>
    let b := va.toNat / 65536 * 65536 + i * 65536
    if b < va.toNat + len then some (BitVec.ofNat 64 b) else none)

/-- The fault of a pin's range: every page is translated, then judged (R375). -/
def State.pinFault (s : State) (va : Word) (len : Nat) : Option Flt :=
  match firstFlt ((granules va len).map (fun a => s.xlate s.whoCur .load a)) with
  | some f => some f
  | none => ((granules va len).find? (fun a => inWindow a || (s.pageOf s.whoCur a).isNone)).map
      (fun a => { cause := cLOAD_ACCESS, addr := a, info := 0 })

/-- Pin or unpin the lines of a range in ascending order: the state, how many changed, and whether it stopped. -/
def State.pinRange (s : State) (pin : Bool) (va : Word) : Nat → Nat → State × Nat × Bool
  | 0, n => (s, n, false)
  | left + 1, n =>
    match s.pageOf s.whoCur va with
    | none => (s, n, true)
    | some (page, pa) =>
      if pin then
        (match s.pinLine s.curCore page (lineOf pa) with
         | some s => s.pinRange pin (va + 128) left (n + 1)
         | none => (s, n, true))
      else
        (match s.unpinLine s.curCore page (lineOf pa) with
         | some s => s.pinRange pin (va + 128) left (n + 1)
         | none => s.pinRange pin (va + 128) left n)

def State.lockLines (s : State) (pin : Bool) (rd rs1 rs2 : Reg) : State :=
  let va := s.rx rs1
  let len := (s.rx rs2).toNat
  if len = 0 then s.done rd 0
  else if 65536 < len then s.done rd 0x8000000000000000
  else
    match s.pinFault va len with
    | some f => s.fault f
    | none =>
      let lines := (bits va 6 0 + len + 127) / 128
      let r := s.pinRange pin (va &&& ~~~127) lines 0
      if pin && r.2.2 && r.2.1 = 0 then s.trap cPIN_LIMIT va
      else r.1.done rd (BitVec.ofNat 64 (r.2.1 + if r.2.2 then 2 ^ 63 else 0))

/-! Carves (R376). -/

/-- Memory with len bytes from src copied to dst, which is cleared first. -/
def moveCells (src dst len : Nat) (m : List Host.Cell) : List Host.Cell :=
  let cells := m.filter (fun c => decide (src ≤ c.1) && decide (c.1 < src + len))
  let rest := m.filter (fun c => !(decide (dst ≤ c.1) && decide (c.1 < dst + len)))
  cells.foldl (fun m c => Memory.setByte (c.1 - src + dst) c.2 m) rest

/-- Memory with len bytes from dst cleared. -/
def clearCells (dst len : Nat) (m : List Host.Cell) : List Host.Cell :=
  m.filter (fun c => !(decide (dst ≤ c.1) && decide (c.1 < dst + len)))

/-- The first key of a cluster's carved window (R218). -/
def carveKey (clu : Nat) : Nat := clu / 132 * 2 ^ 46 + 2 ^ 40 + clu % 132 * 2 ^ 20

/-- CARVE (R376) (DEDUCED, log entry 51). -/
def State.carveSlice (s : State) (rd rs1 rs2 : Reg) : State :=
  s.supervised (fun s =>
    let v := s.rx rs1
    let n := bits v 3 0
    let clu := cluKey s.curCore
    let va := s.rx rs2
    if (s.cluster clu).carve.state ≠ 0 then s.done rd 1
    else if n = 0 || 8 < n || bits v 63 5 ≠ 0 || isMgmt s.curCore then s.done rd 6
    else
      s.andThen (s.xlate s.whoCur .store va) (fun l =>
        match s.tlbMatch s.whoCur va with
        | [e] =>
          let page := e.frame * 4096
          if e.size ≠ 1 || bits va 20 0 ≠ 0 || l.kind ≠ .dram then s.done rd 6
          else
            match s.recordOf s.curCore page with
            | none => s.done rd 2
            | some r =>
              let x := s.readRecord r
              if recState x ≠ 1 then s.done rd 2
              else if recCarved x then s.done rd 3
              else if recPins x = 65535 then s.trap cPIN_LIMIT va
              else if s.pinNests.any (fun p => p.2 ≠ 0 && (s.lineHome p.1).1 = clu && decide (12 - n ≤ Config.pinWay p.1 % 12)) then
                s.done rd 4
              else
                let s := s.writeRecord r (recSetCarved (recSetPins x (recPins x + 1)) true)
                let len := n * 131072
                let s := { s with mem := if v.getLsbD 4 then moveCells page (carveKey clu) len s.mem
                                         else clearCells (carveKey clu) len s.mem }
                (s.modCluster clu (fun c => { c with carve := { state := 1, ways := n, backing := page } })).done rd 0
        | _ => s.done rd 6))

/-- UNCARVE (R376). -/
def State.uncarveSlice (s : State) (rd rs1 : Reg) : State :=
  s.supervised (fun s =>
    let wb := (s.rx rs1).getLsbD 0
    let clu := cluKey s.curCore
    let cv := (s.cluster clu).carve
    if cv.state = 0 then s.done rd 1
    else
      let len := cv.ways * 131072
      let lo := carveKey clu
      let drop (s : State) : State := (s.cores.map (·.1)).foldl (fun s k => (s.dropEntries k (fun e =>
        e.size = 0 && decide (lo ≤ e.frame * 4096) && decide (e.frame * 4096 < lo + len))).modCore k (fun c => c.dropFrame lo (lo + len))) s
      let close (s : State) : State := (s.releaseMerge clu).modCluster clu (fun c => { c with carve := { state := 0, ways := 0, backing := 0 } })
      if s.reqs.any (fun r => r.kind.keys.any (fun a => decide (lo ≤ a) && decide (a < lo + len))) then s
      else if cv.state = 2 then (close (drop s)).done rd (if wb then 2 else 0)
      else
        let s := if wb then { s with mem := moveCells lo cv.backing len s.mem } else s
        let s := match s.recordOf s.curCore cv.backing with
          | some r =>
            let x := s.readRecord r
            s.writeRecord r (recSetCarved (recSetPins x (recPins x - 1)) false)
          | none => s
        (close (drop s)).done rd 0)

/-! Fault words (R377, R378). -/

/-- The logical cluster at a physical site of a chiplet. -/
def State.cluAt (s : State) (chip site : Nat) : Option Nat :=
  let l := (s.trust.layout (s.trust.siteOfChip chip)).getD cleanLayout
  (l.findIdx? (fun p => p = site)).map (fun i => chip * 132 + i)

/-- The granule and the op of a fault word. -/
def fwGranule (w : Word) : Nat := bits w 56 16
def fwOp (w : Word) : Nat := bits w 5 4

/-- The edge die of a granule's pager (R377). -/
def pagerDie (g : Nat) : Nat := 576 + g % 32

/-- A fault word enters the window of the core that executed FWAKE, or waits for room (R469). -/
def State.sendFault (s : State) (k n dst : Nat) (f : FaultWord) : State :=
  ({ s with faultWords := s.faultWords ++ [f] }.tick).sendHw k n dst 27 f.words (.fault f.id)

/-- FWAKE (R378). -/
def State.fwake (s : State) (rs1 rs2 : Reg) : State :=
  s.supervised (fun s =>
    let w := s.rx rs1
    let v := s.rx rs2
    if bits w 63 57 ≠ 0 || bits w 7 6 ≠ 0 || bits w 3 2 ≠ 0 || fwOp w = 3 then s.complete
    else if fwOp w = 0 then
      if !isService s.curCore then s.trap cPRIVILEGE 0
      else
        s.release .mod (fun s =>
          (s.sendFault s.curCore s.curCtx (mgmtKey (pagerDie (fwGranule w)))
            { id := s.clock, word := w, origin := s.curCore, merged := 0, donated := v,
              path := s.routerPath (cluKey s.curCore) { die := pagerDie (fwGranule w), px := 0, py := 0 },
              port := 0, down := false, core := s.curCore }).complete)
    else if !isMgmt s.curCore then s.trap cPRIVILEGE 0
    else
      match coreOfIdent s.grade (bits v 31 0) with
      | some k =>
        if !isService k then s.trap cDEAD_DESTINATION v
        else
          s.release .mod (fun s =>
            (s.sendFault s.curCore s.curCtx k
              { id := s.clock, word := w, origin := k, merged := 0, donated := 0,
                path := (s.routerPath (cluKey k) { die := dieOf s.curCore, px := 0, py := 0 }).reverse,
                port := 0, down := true, core := s.curCore }).complete)
      | none => s.trap cDEAD_DESTINATION v)

/-- Change a fault word under way. -/
def State.modFw (s : State) (id : Nat) (f : FaultWord → FaultWord) : State :=
  { s with faultWords := updFirst (fun x => x.id = id) f s.faultWords }

/-- The recorded ports of a granule at a router. -/
def State.fwPorts (s : State) (r g : Nat) : Option (List Nat) :=
  ((tget [] r s.routers).find? (fun e => e.1 = g)).map (·.2)

def State.modRouter (s : State) (r : Nat) (f : List (Nat × List Nat) → List (Nat × List Nat)) : State :=
  { s with routers := tset r (f (tget [] r s.routers)) s.routers }

/-- The window entry of a fault word. -/
def State.fwMsg (s : State) (f : FaultWord) : Option Msg :=
  (s.core f.core).window.find? (fun m => m.frm = .fault f.id)

/-- A fault word has passed its last router: its message goes to the destination, from where it is acknowledged, returned or NACKed
like any other (R469). -/
def State.fwLand (s : State) (f : FaultWord) : State :=
  match s.fwMsg f with
  | none => s
  | some m =>
    (s.modMsg f.core m.uid (fun m => { m with st := if m.grant then .granted else .sent })).plan (.messageDelivery f.core m.uid)

/-- A fault word goes no further: its entry leaves the window, and what was granted for it is free again. -/
def State.fwAbsorb (s : State) (f : FaultWord) : State :=
  match s.fwMsg f with
  | none => s
  | some m =>
    let s := if m.grant then
        (s.modChan m.dst m.chan (fun q => { q with grantResv := q.grantResv - m.words.length })).roomMade m.dst m.chan
      else s
    s.leaveWindow f.core m.uid

/-- A raise reaches the next router on its path, or has passed the last (R377). -/
def State.raiseAtRouter (s : State) (id : Nat) : State :=
  match s.faultWords.find? (fun x => x.id = id && !x.down) with
  | none => s
  | some fw =>
    let g := fwGranule fw.word
    match fw.path with
    | [] => s.fwLand fw
    | r :: rest =>
      let on (s : State) : State :=
        (s.modFw id (fun x => { x with path := rest, port := r + 1 })).plan (.faultRaiseAtRouter id)
      if fw.donated ≠ 0 then on s
      else
        match s.fwPorts r g with
        | some ports =>
          let s := s.modRouter r (fun t => t.map (fun e => if e.1 = g then (g, ports ++ [fw.port]) else e))
          let s := s.fwAbsorb fw
          { s with faultWords := updFirst (fun x => !x.down && fwGranule x.word = g && !x.path.contains r)
                     (fun (x : FaultWord) => { x with merged := x.merged + fw.merged + 1 }) s.faultWords }
        | none =>
          if (tget [] r s.routers).length < 16 then on (s.modRouter r (fun t => t ++ [(g, [fw.port])])) else on s

/-- The service core at a router. -/
def State.svcAt (s : State) (r : Nat) : Option Nat := (s.cluAt (r / 144) (r % 144)).map svcOfClu

/-- A wake or fail reaches the next router on its way down (R378): where the granule is held, the word goes on by every recorded port, by
the one toward its origin as it is and by the others as further words. -/
def State.wordDown (s : State) (id : Nat) : State :=
  match s.faultWords.find? (fun x => x.id = id && x.down) with
  | none => s
  | some fw =>
    let g := fwGranule fw.word
    match fw.path with
    | [] => s.fwLand fw
    | r :: rest =>
      let on (s : State) : State := (s.modFw id (fun x => { x with path := rest })).plan (.faultWordDown id)
      match s.fwPorts r g with
      | none => on s
      | some ports =>
        let main (p : Nat) : Bool := if p = 0 then s.svcAt r = some fw.origin else rest.head? = some (p - 1)
        let s := s.modRouter r (fun t => t.filter (fun e => e.1 != g))
        let s := (ports.filter (fun p => !main p)).foldl (fun s p =>
          let dst := if p = 0 then (s.svcAt r).getD fw.origin else fw.origin
          s.sendFault fw.core 8 dst { fw with id := s.clock, origin := dst, path := if p = 0 then [] else [p - 1] }) s
        if ports.any main then on s else s.fwAbsorb fw

/-! The instructions. The word of each group is one; the operand register names the operation (log entry 9, DEDUCED). -/

/-- TLBW_WRITE (R363). -/
def execTlbwWrite (rs1 rs2 : Reg) (s : State) : Host.Outcome State Fault Refusal := .next (s.tlbw rs1 rs2)

/-- TLBW_RESUME (R363). -/
def execTlbwResume (rs1 rs2 : Reg) (s : State) : Host.Outcome State Fault Refusal := .next (s.tlbw rs1 rs2)

/-- TLBW_FAIL (R363). -/
def execTlbwFail (rs1 rs2 : Reg) (s : State) : Host.Outcome State Fault Refusal := .next (s.tlbw rs1 rs2)

/-- TLBINV_GRANULE (R364). -/
def execTlbinvGranule (rs1 rs2 : Reg) (s : State) : Host.Outcome State Fault Refusal := .next (s.tlbinv rs1 rs2)

/-- TLBINV_ALL (R364). -/
def execTlbinvAll (rs1 rs2 : Reg) (s : State) : Host.Outcome State Fault Refusal := .next (s.tlbinv rs1 rs2)

/-- TLBINV_MASK (R364). -/
def execTlbinvMask (rs1 rs2 : Reg) (s : State) : Host.Outcome State Fault Refusal := .next (s.tlbinv rs1 rs2)

/-- TLBPROBE (R365). -/
def execTlbprobe (rd rs1 rs2 : Reg) (s : State) : Host.Outcome State Fault Refusal := .next (s.tlbprobe rd rs1 rs2)

/-- LPIN (R375). -/
def execLpin (rd rs1 rs2 : Reg) (s : State) : Host.Outcome State Fault Refusal := .next (s.lockLines true rd rs1 rs2)

/-- LUNPIN (R375). -/
def execLunpin (rd rs1 rs2 : Reg) (s : State) : Host.Outcome State Fault Refusal := .next (s.lockLines false rd rs1 rs2)

/-- CARVE (R376). -/
def execCarve (rd rs1 rs2 : Reg) (s : State) : Host.Outcome State Fault Refusal := .next (s.carveSlice rd rs1 rs2)

/-- UNCARVE (R376). -/
def execUncarve (rd rs1 : Reg) (s : State) : Host.Outcome State Fault Refusal := .next (s.uncarveSlice rd rs1)

/-- SHOOT_ONLY (R371). -/
def execShootOnly (rd rs1 rs2 : Reg) (s : State) : Host.Outcome State Fault Refusal := .next (s.shoot rd rs1 rs2)

/-- SHOOT_MIGRATE (R371). -/
def execShootMigrate (rd rs1 rs2 : Reg) (s : State) : Host.Outcome State Fault Refusal := .next (s.shoot rd rs1 rs2)

/-- SHOOT_FLIP (R371). -/
def execShootFlip (rd rs1 rs2 : Reg) (s : State) : Host.Outcome State Fault Refusal := .next (s.shoot rd rs1 rs2)

/-- SHOOT_EVICT (R371). -/
def execShootEvict (rd rs1 rs2 : Reg) (s : State) : Host.Outcome State Fault Refusal := .next (s.shoot rd rs1 rs2)

/-- SHOOT_UNMAP (R371). -/
def execShootUnmap (rd rs1 rs2 : Reg) (s : State) : Host.Outcome State Fault Refusal := .next (s.shoot rd rs1 rs2)

/-- SHOOT_FORCE (R374). -/
def execShootForce (rd rs1 rs2 : Reg) (s : State) : Host.Outcome State Fault Refusal := .next (s.shoot rd rs1 rs2)

/-- SHOOT_ABORT (R371). -/
def execShootAbort (rd rs1 rs2 : Reg) (s : State) : Host.Outcome State Fault Refusal := .next (s.shoot rd rs1 rs2)

/-- FWAKE_RAISE (R378). -/
def execFwakeRaise (rs1 rs2 : Reg) (s : State) : Host.Outcome State Fault Refusal := .next (s.fwake rs1 rs2)

/-- FWAKE_WAKE (R378). -/
def execFwakeWake (rs1 rs2 : Reg) (s : State) : Host.Outcome State Fault Refusal := .next (s.fwake rs1 rs2)

/-- FWAKE_FAIL (R378). -/
def execFwakeFail (rs1 rs2 : Reg) (s : State) : Host.Outcome State Fault Refusal := .next (s.fwake rs1 rs2)

/-- FAULT_RAISE_AT_ROUTER (R377). -/
def execFaultRaiseAtRouter (id : Nat) (s : State) : Host.Outcome State Fault Refusal := .next (s.raiseAtRouter id)

/-- FAULT_WORD_DOWN (R378). -/
def execFaultWordDown (id : Nat) (s : State) : Host.Outcome State Fault Refusal := .next (s.wordDown id)

end Sys2Proof.Machine
end

