-- ==== Sys2Proof/Machine/Copy.lean ====
section
/-! DEFINITION. The copy engine (chapter 07): what ISSUE checks of copy and stream commands (R191-R193, R198), how their rows
are carried out, notifies and errors (R194-R196), and the copy commands (R199-R205). -/

namespace Sys2Proof.Machine

/-! Command words (R198, R206). -/

/-- The opcodes that send notifies to destinations. -/
def isNotifying (op : Nat) : Bool := op = 0x02 || op = 0x05 || op = 0x06

/-- Step 4 for a copy or stream command: cf0 and cf1 are defined for CPYN and MCAST only. -/
def copyHeaderOk (w : CmdWord) : Bool :=
  headerOk w false false (if isNotifying (cOpcode w) then 3 else 0) false

/-- The fn field of SMAP and SBIN (R207). -/
def streamFn (w : CmdWord) : Nat := if cOpcode w = 0x50 then cBits w 5 5 0 else cBits w 7 5 0

def isBinFn (fn : Nat) : Bool := [0, 1, 2, 5, 6, 9, 10, 11, 12, 16, 17, 18].contains fn
def isUnFn (fn : Nat) : Bool := [7, 8, 24, 25].contains fn
def isMapFn (fn : Nat) : Bool := fn = 44 || fn = 45 || fn = 46

/-- A finite FP32 code that is not negative (R210) (DEDUCED, log entry 54). -/
def epsOk (v : Nat) : Bool := v / 2 ^ 23 % 256 ≠ 255 && (v / 2 ^ 31 = 0 || v % 2 ^ 31 = 0)

/-- Step 6 for a copy or stream command: reserved bits and values, canonical addresses, the form of a notify (DEDUCED, log entry 53). -/
def copyWordOk (w : CmdWord) : Bool :=
  let zero (l : List Nat) : Bool := l.all (fun i => cOp w i = 0)
  let can (i : Nat) : Bool := canonical (cAddr w i)
  let cast : Bool := cBits w 3 31 21 = 0
  match cOpcode w with
  | 0x01 => can 1 && can 3 && zero [5, 6]
  | 0x02 =>
    can 1 && can 3 && (cFlag w 0 != cFlag w 1) &&
      (if cFlag w 0 then cBits w 5 31 31 = 0 && cBits w 6 31 5 = 0 else can 5 && cBits w 5 2 0 = 0)
  | 0x03 => can 1 && can 3 && can 5
  | 0x04 => can 1 && can 3 && can 5
  | 0x05 => can 1 && cast
  | 0x06 => can 1 && cast && can 4 && cBits w 6 31 7 = 0
  | 0x07 => can 1 && zero [5, 6]
  | 0x08 => can 1 && cBits w 3 31 8 = 0 && cBits w 3 3 3 = 0 && decide (cBits w 3 7 4 < 14) && can 4 && zero [6]
  | 0x09 => can 1 && cBits w 3 31 4 = 0 && decide (cBits w 3 3 0 < 13) && zero [4, 5, 6]
  | 0x0A => can 1 && cBits w 3 31 4 = 0 && decide (cBits w 3 3 0 < 13) && zero [4, 5, 6]
  | 0x0C => can 1 && zero [3, 4, 5, 6]
  | 0x50 =>
    let fn := streamFn w
    can 1 && can 3 && cBits w 5 31 6 = 0 && (isBinFn fn || isUnFn fn || isMapFn fn) && (isBinFn fn || cOp w 6 = 0)
  | 0x51 => can 1 && can 3 && can 5 && isBinFn (streamFn w)
  | 0x52 => can 1 && can 3 && cBits w 5 31 2 = 0 && decide (cBits w 5 1 0 < 3) && zero [6]
  | 0x53 => can 1 && can 3 && can 5
  | 0x54 => can 1 && can 3 && epsOk (cOp w 5) && zero [6]
  | 0x55 => can 1 && can 3 && can 5
  | _ => false

/-- A channel that a user-level command may not name: nchan above q24 (R277). -/
def copyUserBad (w : CmdWord) : Bool :=
  let op := cOpcode w
  (op = 0x02 && cFlag w 0 && decide (24 < cBits w 6 4 0)) ||
    ((op = 0x05 || op = 0x06) && cFlag w 0 && decide (24 < cBits w 3 20 16))

/-- The addresses of the records a command names, in slot order. -/
def copyRecs (w : CmdWord) : List Word :=
  match cOpcode w with
  | 0x01 => [cAddr w 1, cAddr w 3]
  | 0x02 => [cAddr w 1, cAddr w 3]
  | 0x03 => [cAddr w 1, cAddr w 3, cAddr w 5]
  | 0x04 => [cAddr w 1, cAddr w 3, cAddr w 5]
  | 0x08 => if cAddr w 4 = 0 then [cAddr w 1] else [cAddr w 1, cAddr w 4]
  | 0x50 => [cAddr w 1, cAddr w 3]
  | 0x51 => [cAddr w 1, cAddr w 3, cAddr w 5]
  | 0x52 => [cAddr w 1, cAddr w 3]
  | 0x53 => [cAddr w 1, cAddr w 3, cAddr w 5]
  | 0x54 => [cAddr w 1, cAddr w 3]
  | 0x55 => [cAddr w 1, cAddr w 3, cAddr w 5]
  | _ => [cAddr w 1]

/-! Types and extents (R192, R193). -/

/-- A type of R134 that the operation fn of SMAP or SBIN accepts. -/
def fnType (fn : Nat) (t : ElemTy) : Bool :=
  if [0, 1, 2, 5, 6, 7, 8].contains fn then okArith t
  else if [9, 10, 11, 12].contains fn then okMove t
  else if isMapFn fn then okFloat t
  else okInt t

/-- An index record: one dimension, .n16 or .n32. -/
def idxOk (r : Rec) : Bool := shDims r = 1 && (shTypeCode r = 5 || shTypeCode r = 6)

/-- Is record i of a command legal for its role, given all of them (R192 and the command's rule)? -/
def roleOk (w : CmdWord) (rs : List Rec) (i : Nat) : Bool :=
  let r := rs.getD i 0
  let ty := shTypeCode r
  let four (l : List Nat) : Bool := decide (ty < 13) || (ty = 13 && l.all (fun j => shTypeCode (rs.getD j 0) = 13))
  let num : Bool := decide (ty < 13)
  match cOpcode w with
  | 0x01 => four [0, 1]
  | 0x02 => four [0, 1]
  | 0x03 => if i = 2 then idxOk r else four [0, 1] && (i ≠ 0 || shDims r = 2)
  | 0x04 => if i = 2 then idxOk r else four [0, 1] && (i ≠ 0 || shDims r = 2)
  | 0x05 => four [0]
  | 0x06 => four [0]
  | 0x07 => four [0]
  | 0x08 => if i = 1 then ty = 14 else decide (ty < 14) && ((ty = 13) = (cBits w 3 7 4 = 13))
  | 0x50 => num && (i ≠ 0 || (fnType (streamFn w) (shType r) && shRoundCode r ≠ 4))
  | 0x51 =>
    num && (i ≠ 0 || (fnType (streamFn w) (shType r) && shRoundCode r ≠ 4)) && (i ≠ 1 || ty = shTypeCode (rs.getD 0 0))
  | 0x52 => num && (i ≠ 0 || (okArith (shType r) && shRoundCode r ≠ 4))
  | 0x53 => if i = 0 then okFloat (shType r) && shRoundCode r ≠ 4 else if i = 1 then ty = 12 else ty = 14
  | 0x54 => num && (i ≠ 0 || (okFloat (shType r) && shRoundCode r ≠ 4))
  | 0x55 => if i = 2 then idxOk r else num && (i ≠ 0 || (okMove (shType r) && shRoundCode r ≠ 4))
  | _ => num

/-- A raw constant fits the type: no bit above its width, except that it is extended to 64-bit types (R202, R207). -/
def fitsType (t : ElemTy) (v : Nat) : Bool := decide (64 ≤ t.width) || v / 2 ^ t.width = 0

/-- The check between steps 9 and 10: the pattern of FILL (R202) and the constant of SMAP (R207), for which the spec names no step
(DESIGN CHOICE, log entry 91). -/
def constOk (w : CmdWord) (rs : List Rec) : Bool :=
  let t := shType (rs.getD 0 0)
  match cOpcode w with
  | 0x07 => fitsType t (cAddr w 3).toNat
  | 0x50 => fitsType t (cOp w 6)
  | _ => true

/-- Elements of a row of 64 bytes of a type; a ring's INT4 row has 64 (R203). -/
def ringElems (code : Nat) : Nat := if code = 13 then 64 else 512 / ((ElemTy.ofCode code).getD .i8).width

/-- Bytes of the packed elements of a record (R201). -/
def packedLen (r : Rec) : Nat := (shCount r * (shType r).width + 7) / 8

/-- The extent of an MCAST at its destinations (R201) (DEDUCED, log entry 52). -/
def castFits (w : CmdWord) (r : Rec) : Bool :=
  let e := cBits w 3 15 0 + packedLen r
  decide ((if cFlag w 1 then (e + 7) / 8 * 8 + 8 else e) ≤ 65536)

/-- The counts that a command's rule demands (step 10). -/
def countsOk (grade : Nat) (w : CmdWord) (rs : List Rec) : Bool :=
  let r (i : Nat) : Rec := rs.getD i 0
  let n (i : Nat) : Nat := shCount (r i)
  match cOpcode w with
  | 0x01 => n 0 = n 1
  | 0x02 => n 0 = n 1
  | 0x03 => n 1 = n 2 * shSize (r 0) 0
  | 0x04 => n 1 = n 2 * shSize (r 0) 0
  | 0x05 =>
    let wd := cBits w 5 15 0
    let ht := cBits w 5 31 16
    wd ≠ 0 && ht ≠ 0 && castFits w (r 0) && decide (cOp w 4 + (ht - 1) * cOp w 6 + (wd - 1) < grade * 2112)
  | 0x06 => decide (1 ≤ cBits w 6 6 0) && decide (cBits w 6 6 0 ≤ 64) && cOp w 4 % 4 = 0 && castFits w (r 0)
  | 0x08 => n 0 = 32 * ringElems (cBits w 3 7 4) && (rs.length = 1 || n 1 = 512)
  | 0x0C => !inWindow (shBase (r 0))
  | 0x50 => n 0 = n 1
  | 0x51 => n 0 = n 1 && n 0 = n 2
  | 0x52 => n 1 = n 0 / shSize (r 0) 0
  | 0x53 => n 0 = n 1 && shSize (r 0) 0 % 8 = 0 && n 2 = n 0 / 8
  | 0x54 => n 0 = n 1
  | 0x55 => shSize (r 2) 0 = shSize (r 1) 0 && (natsFrom 1 3).all (fun d => shLen (r 0) d = shLen (r 1) d)
  | _ => true

/-! Conversion (R192). -/

/-- The conversion a command makes: the types read and written, the governing round and saturate, and the number of
elements written. -/
structure Conv where
  src : ElemTy
  dst : ElemTy
  mode : RMode
  sat : Bool
  n : Nat

def Conv.of (src dst gov : Rec) (n : Nat) : Conv :=
  { src := shType src, dst := shType dst, mode := shRound gov, sat := shSat gov, n := n }

/-- The type that a code in an operand slot names. -/
def typeOf (code : Nat) : ElemTy := (ElemTy.ofCode code).getD .i8

def copyConv (w : CmdWord) (rs : List Rec) : Option Conv :=
  let r (i : Nat) : Rec := rs.getD i 0
  match cOpcode w with
  | 0x01 => some (Conv.of (r 0) (r 1) (r 1) (shCount (r 1)))
  | 0x02 => some (Conv.of (r 0) (r 1) (r 1) (shCount (r 1)))
  | 0x03 => some (Conv.of (r 0) (r 1) (r 1) (shCount (r 1)))
  | 0x04 => some (Conv.of (r 1) (r 0) (r 0) (shCount (r 1)))
  | 0x08 => some { Conv.of (r 0) (r 0) (r 0) (shCount (r 0)) with dst := typeOf (cBits w 3 7 4) }
  | 0x09 => some { Conv.of (r 0) (r 0) (r 0) (shCount (r 0)) with dst := typeOf (cBits w 3 3 0) }
  | 0x0A => some { Conv.of (r 0) (r 0) (r 0) (shCount (r 0)) with src := typeOf (cBits w 3 3 0) }
  | 0x50 => some (Conv.of (r 0) (r 1) (r 1) (shCount (r 1)))
  | 0x51 => some (Conv.of (r 0) (r 2) (r 2) (shCount (r 2)))
  | 0x52 => some (Conv.of (r 0) (r 1) (r 1) (shCount (r 1)))
  | 0x53 => some (Conv.of (r 0) (r 1) (r 1) (shCount (r 1)))
  | 0x54 => some { Conv.of (r 0) (r 1) (r 1) (shCount (r 1)) with src := .f32 }
  | 0x55 => some (Conv.of (r 0) (r 1) (r 1) (shCount (r 1)))
  | _ => none

/-- How many random values the conversion draws. -/
def Conv.draws (c : Conv) : Nat := if c.src ≠ c.dst && c.mode.isRst then c.n else 0

/-- One element, with its random value; equal types move as raw bits. -/
def Conv.elem (c : Conv) (rnd : BitVec 32) (v : Nat) : Nat :=
  if c.src = c.dst then v else convCode c.src c.dst c.mode c.sat rnd v

/-- The random values of elements k, k + 1, ... of a command. -/
def Conv.rnds (c : Conv) (seed : BitVec 32) (k n : Nat) : List (BitVec 32) :=
  if c.draws = 0 then [] else ((xsStates (k + n) seed).1.drop k).take n

/-- The elements from k on, converted. -/
def Conv.elems (c : Conv) (seed : BitVec 32) (k : Nat) (vs : List Nat) : List Nat :=
  let rs := c.rnds seed k vs.length
  ((natsFrom 0 vs.length).zip vs).map (fun p => c.elem (rs.getD p.1 0) p.2)

/-- The conversion of a command; its absence never arises where it is used. -/
def CopyCmd.conv (q : CopyCmd) : Conv :=
  (copyConv q.hd.word q.recs).getD { src := .i8, dst := .i8, mode := .rne, sat := false, n := 0 }

/-! ISSUE (R191). -/

/-- The records at a list of addresses, read as weak loads that never use the L1. -/
def State.readRecs (s : State) : List Word → Except Flt (List Rec)
  | [] => .ok []
  | a :: r =>
    match s.readRange s.whoCur s.curCtx a 64 with
    | .error f => .error f
    | .ok bs =>
      match s.readRecs r with
      | .error f => .error f
      | .ok rs => .ok (BitVec.ofNat 512 (leNat bs) :: rs)

/-- The command enters the queue with its snapshot; rndseed advances for a stochastic conversion. -/
def State.acceptCopy (s : State) (w : CmdWord) (rs : List Rec) : State :=
  if 2 ≤ s.here.copyQ.length then s.queueFull w
  else
    let h := s.newHead w s.here.copySeq
    let s := s.issued w
    let q : CopyCmd := { hd := h, recs := rs, seed := s.cur.rndseed, st := .waiting, row := 0, notifies := 0, marks := [],
                         badAt := none, released := false, lines := [] }
    let n := ((copyConv w rs).map Conv.draws).getD 0
    let s := s.modHere (fun c => { c with copyQ := c.copyQ ++ [q], copySeq := (c.copySeq + 1) % 65536 })
    ((s.modCur (fun c => { c with rndseed := (xsStates n c.rndseed).2 })).planCmd s.curCore h).complete

/-- Step 11: the ring of RINGPUT, the window of STREAMIN and STREAMOUT; the cause of a trap. -/
def State.copyResource (s : State) (w : CmdWord) : Option Nat :=
  match cOpcode w with
  | 0x08 =>
    let ring := s.here.mat.ringQ (cBits w 3 2 0)
    if !s.holdsMatrix then some cFORMAT_CONTEXT_INVALID
    else if !ring.configured || ring.side != decide (cAddr w 4 ≠ 0) then some cRING_CONFIG
    else none
  | 0x09 => if s.window.isNone then some cILLEGAL_INSTR else none
  | 0x0A => if s.window.isNone then some cILLEGAL_INSTR else none
  | _ => none

/-- Steps 7-12 of R191; va is the address of the command word. -/
def State.issueCopy (s : State) (va : Word) (w : CmdWord) : State :=
  s.orUnitPending [.copy] (fun s =>
    let addrs := copyRecs w
    s.andThen (s.readRecs addrs) (fun rs =>
      let is := natsFrom 0 rs.length
      let addr (i : Nat) : Word := addrs.getD i 0
      match is.find? (fun i => !(shapeOk (addr i) (fun _ => true) (rs.getD i 0) && roleOk w rs i)) with
      | some i => s.trap cSHAPE_RECORD_INVALID (addr i)
      | none =>
        if !constOk w rs then s.trap cRESERVED_FIELD va
        else
          match is.find? (fun i => !extentOk (rs.getD i 0)) with
          | some i => s.trap cCOPY_BOUNDS (addr i)
          | none =>
            if !countsOk s.grade w rs then s.trap cCOPY_BOUNDS va
            else
              match s.copyResource w with
              | some c => s.trap c va
              | none => s.acceptCopy w rs))

/-! Work on a command. -/

/-- How the work on one row ends. -/
inductive RowEnd where
  /-- The row is done and others follow. -/
  | go (s : State)
  /-- The last row is done. -/
  | fin (s : State)
  | err (e : EngErr)
  /-- The command ends with an error (R196). -/
  | bad (s : State) (cause : Nat) (addr : Word)
  /-- Nothing can be done now. -/
  | wait (s : State)

def State.modCopy (s : State) (k seq : Nat) (f : CopyCmd → CopyCmd) : State :=
  s.modCore k (fun c => { c with copyQ := updFirst (fun (q : CopyCmd) => q.hd.seq = seq) f c.copyQ })

/-- The command has finished with a status; it retires once its stores and notifies are home (R188). -/
def State.copyFinish (s : State) (r : CmdRef) (status : Nat) : State :=
  (s.modCopy r.core r.seq (fun q => { q with st := .done status })).plan (.copyCommandRetire r)

/-- The command ends with a pending copy error of its context (R196). -/
def State.copyFail (s : State) (r : CmdRef) (q : CopyCmd) (cause : Nat) (addr : Word) : State :=
  (s.recordCopyErr r.core q.hd.ctx cause addr (cmdInfo (cOpcode q.hd.word) q.hd.seq 0)).copyFinish r 1

/-- An access of the command stops (R361, R372). -/
def State.copyStop (s : State) (r : CmdRef) (q : CopyCmd) (e : EngErr) : State :=
  match e.stop with
  | .again => s.planCmd r.core q.hd
  | .hold h => (s.modCopy r.core r.seq (fun q => { q with st := .held h })).faultMessage r.core 0 q.hd.ctx h
  | .park va =>
    let s := if q.st = .parked then s
      else (s.modCopy r.core r.seq (fun q => { q with st := .parked })).svcLog r.core cMIGRATE_WAIT va.toNat
    s.planCmd r.core q.hd
  | .fail c a => s.copyFail r q c a

/-- Is the command in one of the two entries, and the oldest of its context in the queue (R188)? Restored commands beyond the two
wait their turn for an entry. -/
def Core.copyFirst (c : Core) (q : CopyCmd) : Bool :=
  (c.copyQ.take 2).any (fun x => x.hd.seq = q.hd.seq) && !(c.copyQ.takeWhile (fun x => x.hd.seq != q.hd.seq)).any (fun x => x.hd.ctx = q.hd.ctx)

/-- Work on the next row of a command when it may run (R188, R190) (DESIGN CHOICE, log entry 72). -/
def State.copyRun (s : State) (r : CmdRef) (work : CopyCmd → State → RowEnd) : State :=
  match (s.core r.core).copyQ.find? (fun q => q.hd.seq = r.seq) with
  | none => s
  | some q =>
    match q.st with
    | .done _ => s
    | .held _ => s
    | .failed c a => s.copyFail r q c a
    | _ =>
      if (s.core r.core).stopped then s
      else if !((s.core r.core).copyFirst q && s.released q.hd) then s.planCmd r.core q.hd
      else
        match work q s with
        | .go s => (s.modCopy r.core r.seq (fun q => { q with row := q.row + 1, st := .waiting })).planCmd r.core q.hd
        | .fin s => s.copyFinish r 0
        | .err e => s.copyStop r q e
        | .bad s c a => s.copyFail r q c a
        | .wait s => s.planCmd r.core q.hd

/-- The row of a record's elements that starts at row m: first element and length. -/
def rowOf (r : Rec) (m : Nat) : Nat × Nat := (m * shLen r 0, shLen r 0)

/-- The number of rows of a record. -/
def rowsOf (r : Rec) : Nat := shCount r / shLen r 0

/-- A state reached, as the end of row m of rows. -/
def rowNext (m rows : Nat) (s : State) : RowEnd := if m + 1 < rows then .go s else .fin s

/-- A write that may fail, as the end of row m of rows. -/
def rowPut (m rows : Nat) : Except EngErr State → RowEnd
  | .ok s => rowNext m rows s
  | .error e => .err e

/-- The elements of F in row q.row, converted and written to the elements of T with the same numbers. -/
def State.copyRow (s : State) (k : Nat) (q : CopyCmd) (f t : Rec) : Except EngErr State :=
  let p := rowOf f q.row
  match s.engElems k q.hd f p.1 p.2 with
  | .error e => .error e
  | .ok vs => s.engPuts k q.hd t ((natsFrom p.1 p.2).zip (q.conv.elems q.seed p.1 vs))

/-- CPY, and CPYN before its notify (R199). -/
def State.cpyWork (s : State) (k : Nat) (q : CopyCmd) (last : Bool) : RowEnd :=
  let f := q.recs.getD 0 0
  match s.copyRow k q f (q.recs.getD 1 0) with
  | .error e => .err e
  | .ok s => if last then rowNext q.row (rowsOf f) s else .go s

/-! Notifies (R195). -/

/-- The word of a message notify. -/
def notifyWord (k tag : Nat) : Word := BitVec.ofNat 64 (tag * 2 ^ 32 + mhartid k % 2 ^ 32)

/-- A notify message to a core. -/
def State.sendNotify (s : State) (k : Nat) (q : CopyCmd) (dst chan : Nat) : State :=
  let s := s.modCopy k q.hd.seq (fun q => { q with notifies := q.notifies + 1 })
  s.sendHwWith k q.hd.ctx dst chan [notifyWord k (cOp q.hd.word 7)] (.notify q.hd.seq) q.lines

/-- A full-empty notify to the word with a key. -/
def State.sendFeNotify (s : State) (k : Nat) (q : CopyCmd) (word : Nat) : State :=
  let s := s.modCopy k q.hd.seq (fun q => { q with notifies := q.notifies + 1 })
  let r : FeReq := { id := s.clock, word := word, op := feNOTIFY, core := k, ctx := q.hd.ctx, rd := 0,
                     data := BitVec.ofNat 64 (cOp q.hd.word 7), scope := scopeOf (cScope q.hd.word),
                     remote := ownerOf word != k, nacks := 0, tag := q.hd.seq, sub := SubName.zero, st := 0,
                     since := 0, lines := q.lines }
  ({ s with fes := s.fes ++ [r] }.tick).plan (.fullEmptyRequest r.id)

/-- The notify of CPYN, sent once its payload is home. -/
def State.cpynNotify (s : State) (k : Nat) (q : CopyCmd) : RowEnd :=
  let w := q.hd.word
  if !s.engHome k then .wait s
  else if cFlag w 0 then
    match coreOfIdent s.grade (cOp w 5) with
    | some d => .fin (s.sendNotify k q d (cBits w 6 4 0))
    | none => .bad s cDEAD_DESTINATION 0
  else
    let va := cAddr w 5
    match s.engPlaces k q.hd .store va 8 with
    | .error e => .err e
    | .ok ls =>
      match ls with
      | l :: _ =>
        (match l.kind with
         | .own => .fin (s.sendFeNotify k q l.key)
         | .lmem _ => .fin (s.sendFeNotify k q l.key)
         | _ => .bad s cSTORE_ACCESS va)
      | [] => .wait s

/-! Packed rows (R43, R201, R203, R204). -/

/-- n bytes that hold elements of a width packed from the first. -/
def packBytes (w n : Nat) (vs : List Nat) : List Byte := leBytes n (vs.foldr (fun e r => e % 2 ^ w + 2 ^ w * r) 0)

/-- The places of n bytes from a key on this module. -/
def State.keyLocs (s : State) (key n : Nat) : List Loc := (natsFrom key n).map (fun a => s.locOfKey a 0)

/-- The destinations of an MCAST, and the list entry that ends it (R201). -/
def castDests (grade : Nat) (w : CmdWord) (entries : List Nat) : List Nat × Option Word :=
  if cOpcode w = 0x05 then
    ((natsFrom 0 (cBits w 5 31 16)).flatMap (fun y => (natsFrom 0 (cBits w 5 15 0)).map (fun x => cOp w 4 + y * cOp w 6 + x)), none)
  else
    let good := entries.takeWhile (fun e => decide (e < grade * 2112))
    (good, if good.length < entries.length then some (cAddr w 4 + BitVec.ofNat 64 (4 * good.length)) else none)

/-- The entries of an MCAST's list. -/
def State.castList (s : State) (k : Nat) (q : CopyCmd) : Except EngErr (List Nat) :=
  let w := q.hd.word
  if cOpcode w = 0x05 then .ok []
  else
    let n := cBits w 6 6 0
    (s.engRead k q.hd (cAddr w 4) (4 * n)).map (fun bs => (natsFrom 0 n).map (fun i => leNat ((bs.drop (4 * i)).take 4)))

/-- MCAST (R201): the payload goes to every destination, then, when it is home, the notifies. -/
def State.mcast (s : State) (k : Nat) (q : CopyCmd) : RowEnd :=
  let w := q.hd.word
  let f := q.recs.getD 0 0
  let len := packedLen f
  if q.row = 0 then
    match s.engElems k q.hd f 0 (shCount f), s.castList k q with
    | .ok vs, .ok es =>
      let bytes := packBytes (shType f).width len vs
      let d := castDests s.grade w es
      let s := d.1.foldl (fun s rank =>
        s.storeFrom k 8 (some q.hd.name) (BitVec.ofNat 64 (cBits w 3 15 0))
          ((s.keyLocs (lmemKey (coreOfRank rank) (cBits w 3 15 0)) len).zip bytes)) s
      .go (s.modCopy k q.hd.seq (fun q => { q with marks := d.1, badAt := d.2 }))
    | .error e, _ => .err e
    | _, .error e => .err e
  else if !s.engHome k then .wait s
  else
    let s := q.marks.foldl (fun s rank =>
      let d := coreOfRank rank
      let s := if cFlag w 0 then s.sendNotify k q d (cBits w 3 20 16) else s
      if cFlag w 1 then s.sendFeNotify k q (lmemKey d ((cBits w 3 15 0 + len + 7) / 8 * 8)) else s) s
    match q.badAt with
    | some a => .bad s cCOPY_BOUNDS a
    | none => .fin s

/-! The other copy commands. -/

/-- GATHER and SCATTER (R200): one row of the table. -/
def State.gatherRow (s : State) (k : Nat) (q : CopyCmd) (gather : Bool) : RowEnd :=
  let tb := q.recs.getD 0 0
  let d := q.recs.getD 1 0
  let ix := q.recs.getD 2 0
  let m := q.row
  match s.engElem k q.hd ix m with
  | .error e => .err e
  | .ok r =>
    if shSize tb 1 ≤ r then .bad s cCOPY_BOUNDS (shAddr ix (shIdx ix m))
    else
      let c := shSize tb 0
      let src := if gather then tb else d
      let dst := if gather then d else tb
      let from_ := if gather then c * r else m * c
      let to_ := if gather then m * c else c * r
      match s.engElems k q.hd src from_ c with
      | .error e => .err e
      | .ok vs => rowPut m (shCount ix) (s.engPuts k q.hd dst ((natsFrom to_ c).zip (q.conv.elems q.seed (m * c) vs)))

/-- FILL (R202). -/
def State.fillRow (s : State) (k : Nat) (q : CopyCmd) : RowEnd :=
  let t := q.recs.getD 0 0
  let p := rowOf t q.row
  let v := (cAddr q.hd.word 3).toNat % 2 ^ (shType t).width
  rowPut q.row (rowsOf t) (s.engPuts k q.hd t ((natsFrom p.1 p.2).map (fun e => (e, v))))

/-- The bytes of the tile of a RINGPUT: 32 rows of 64 bytes (R203). -/
def ringBytes (code : Nat) (vs : List Nat) : List Byte :=
  let n := ringElems code
  (natsFrom 0 32).flatMap (fun r => packBytes (typeOf code).width 64 ((vs.drop (n * r)).take n))

/-- Does a ring have the geometry that a RINGPUT names (R203)? -/
def Ring.fits (r : Ring) (side : Bool) : Bool := r.configured && r.side = side

/-- RINGPUT (R168, R203). While the MCFGRING that gives the ring its geometry is still queued, it waits. -/
def State.ringPut (s : State) (k : Nat) (q : CopyCmd) : RowEnd :=
  let w := q.hd.word
  let i := cBits w 3 2 0
  let ring := (s.core k).mat.ring i
  let f := q.recs.getD 0 0
  let side := decide (q.recs.length = 2)
  if !ring.fits side then (if ((s.core k).mat.ringQ i).fits side then .wait s else .bad s cRING_CONFIG 0)
  else if ring.revoked then .bad s cCARVE_REVOKED (slotAddr k (ring.slotKey k ring.tail))
  else if ring.slots ≤ ring.count then .wait s
  else
    match s.engElems k q.hd f 0 (shCount f), (if ring.side then s.engElems k q.hd (q.recs.getD 1 0) 0 512 else .ok []) with
    | .error e, _ => .err e
    | _, .error e => .err e
    | .ok vs, .ok side =>
      let data := ringBytes (cBits w 3 7 4) (q.conv.elems q.seed 0 vs) ++ packBytes 8 side.length side
      let s := s.perform k 8 ((s.keyLocs (ring.slotKey k ring.tail) data.length).zip data)
      .fin (s.modRing k i Ring.push)

/-- STREAMIN (R204): one row into vin. -/
def State.streamIn (s : State) (k : Nat) (q : CopyCmd) : RowEnd :=
  let f := q.recs.getD 0 0
  let ty := typeOf (cBits q.hd.word 3 3 0)
  let e := 512 / ty.width
  let lo := q.row * e
  let n := if shCount f - lo < e then shCount f - lo else e
  match (if q.released then none else (s.core k).heldBy q.hd.slot) with
  | none => .fin s
  | some w =>
    if 4 ≤ ((s.core k).win w).vin.length then .wait s
    else
      match s.engElems k q.hd f lo n with
      | .error x => .err x
      | .ok vs =>
        let row : VWord := BitVec.ofNat 512 (leNat (packBytes ty.width 64 (q.conv.elems q.seed lo vs)))
        let s := (s.modCore k (fun c => c.modWin w (fun x => { x with vin := x.vin ++ [row] }))).wakeUnits k
        rowNext q.row ((shCount f + e - 1) / e) s

/-- STREAMOUT (R204): one row of vout. -/
def State.streamOut (s : State) (k : Nat) (q : CopyCmd) : RowEnd :=
  let t := q.recs.getD 0 0
  let ty := typeOf (cBits q.hd.word 3 3 0)
  let e := 512 / ty.width
  let lo := q.row * e
  let n := if shCount t - lo < e then shCount t - lo else e
  match (if q.released then none else (s.core k).heldBy q.hd.slot) with
  | none => .fin s
  | some w =>
    match ((s.core k).win w).vout with
    | [] => .wait s
    | row :: rest =>
      let vs := (natsFrom 0 n).map (velem ty.width row)
      match s.engPuts k q.hd t ((natsFrom lo n).zip (q.conv.elems q.seed lo vs)) with
      | .error x => .err x
      | .ok s =>
        let s := (s.modCore k (fun c => c.modWin w (fun x => { x with vout := rest }))).wakeUnits k
        rowNext q.row ((shCount t + e - 1) / e) s

/-- Pin the lines of a list of bytes, each at an address, that the command has not pinned yet (R205). -/
def State.pinBytes (s : State) (k : Nat) (q : CopyCmd) : List (Word × Loc) → RowEnd
  | [] => .go s
  | (va, l) :: r =>
    let pins := (((s.core k).copyQ.find? (fun x => x.hd.seq = q.hd.seq)).map (·.marks)).getD []
    if pins.contains (lineOf l.key) then s.pinBytes k q r
    else
      match s.pageOf (engWho k q.hd) va with
      | none => .bad s cLOAD_ACCESS va
      | some (page, _) =>
        match s.pinLine k page (lineOf l.key) with
        | none => .bad s cPIN_LIMIT va
        | some s => (s.modCopy k q.hd.seq (fun q => { q with marks := lineOf l.key :: q.marks })).pinBytes k q r

/-- The bytes of the elements of a row that are not padding, with their places. -/
def State.rowBytes (s : State) (k : Nat) (h : CmdHead) (r : Rec) : List Nat → Except EngErr (List (Word × Loc))
  | [] => .ok []
  | e :: es =>
    match s.rowBytes k h r es with
    | .error x => .error x
    | .ok rest =>
      let idx := shIdx r e
      if shPadding r idx then .ok rest
      else
        let va := shAddr r idx
        (s.engPlaces k h .load va (shBytes r)).map (fun ls =>
          ((natsFrom 0 ls.length).map (fun i => va + BitVec.ofNat 64 i)).zip ls ++ rest)

/-- L2PINFILL (R205): the lines of one row. -/
def State.pinFill (s : State) (k : Nat) (q : CopyCmd) : RowEnd :=
  let f := q.recs.getD 0 0
  let p := rowOf f q.row
  match s.rowBytes k q.hd f (natsFrom p.1 p.2) with
  | .error e => .err e
  | .ok bs =>
    match s.pinBytes k q bs with
    | .go s => rowNext q.row (rowsOf f) s
    | x => x

/-- CPY (R199). -/
def execCpy (r : CmdRef) (s : State) : Host.Outcome State Fault Refusal :=
  .next (s.copyRun r (fun q s => s.cpyWork r.core q true))

/-- CPYN (R199): a CPY, then its notify. -/
def execCpyn (r : CmdRef) (s : State) : Host.Outcome State Fault Refusal :=
  .next (s.copyRun r (fun q s =>
    if q.row < rowsOf (q.recs.getD 0 0) then s.cpyWork r.core q false else s.cpynNotify r.core q))

/-- GATHER (R200). -/
def execGather (r : CmdRef) (s : State) : Host.Outcome State Fault Refusal :=
  .next (s.copyRun r (fun q s => s.gatherRow r.core q true))

/-- SCATTER (R200). -/
def execScatter (r : CmdRef) (s : State) : Host.Outcome State Fault Refusal :=
  .next (s.copyRun r (fun q s => s.gatherRow r.core q false))

/-- MCAST_RECT (R201). -/
def execMcastRect (r : CmdRef) (s : State) : Host.Outcome State Fault Refusal := .next (s.copyRun r (fun q s => s.mcast r.core q))

/-- MCAST_LIST (R201). -/
def execMcastList (r : CmdRef) (s : State) : Host.Outcome State Fault Refusal := .next (s.copyRun r (fun q s => s.mcast r.core q))

/-- FILL (R202). -/
def execFill (r : CmdRef) (s : State) : Host.Outcome State Fault Refusal := .next (s.copyRun r (fun q s => s.fillRow r.core q))

/-- RINGPUT (R203). -/
def execRingput (r : CmdRef) (s : State) : Host.Outcome State Fault Refusal := .next (s.copyRun r (fun q s => s.ringPut r.core q))

/-- STREAMIN (R204). -/
def execStreamin (r : CmdRef) (s : State) : Host.Outcome State Fault Refusal := .next (s.copyRun r (fun q s => s.streamIn r.core q))

/-- STREAMOUT (R204). -/
def execStreamout (r : CmdRef) (s : State) : Host.Outcome State Fault Refusal :=
  .next (s.copyRun r (fun q s => s.streamOut r.core q))

/-- L2PINFILL (R205). -/
def execL2pinfill (r : CmdRef) (s : State) : Host.Outcome State Fault Refusal := .next (s.copyRun r (fun q s => s.pinFill r.core q))

/-- A finished copy or stream command retires once its stores are home and its notifies acted on; its completion word is
sent (R188, R194). -/
def State.copyRetire (s : State) (r : CmdRef) : State :=
  match (s.core r.core).copyQ.find? (fun q => q.hd.seq = r.seq) with
  | none => s
  | some q =>
    match q.st with
    | .done status =>
      if q.notifies ≠ 0 || (s.core r.core).stopped then s
      else if !s.engHome r.core then s.plan (.copyCommandRetire r)
      else
        let s := s.modCore r.core (fun c => { c with copyQ := dropFirst (fun (x : CopyCmd) => x.hd.seq = r.seq) c.copyQ })
        (s.sendCompletion r.core q.hd (cOp q.hd.word 7) status 0 q.lines).wakeUnits r.core
    | _ => s

/-- COPY_COMMAND_RETIRE (R188). -/
def execCopyCommandRetire (r : CmdRef) (s : State) : Host.Outcome State Fault Refusal := .next (s.copyRetire r)

end Sys2Proof.Machine
end

