-- ==== Sys2Proof/Machine/Collective.lean ====
section
/-! DEFINITION. Collectives (R350-R354, R403): what ISSUE checks, contributions and abort markers, combining, results. -/

namespace Sys2Proof.Machine

/-! Collective records (R350). -/

def crIn (r : Rec) : Word := r.extractLsb' 0 64
def crOut (r : Rec) : Word := r.extractLsb' 64 64
def crRank0 (r : Rec) : Nat := rBits r 16 20 0
def crN (r : Rec) : Nat := rBits r 20 20 0
def crRoot (r : Rec) : Nat := rBits r 24 20 0
def crCid (r : Rec) : Nat := rBytes r 28 2
def crType (r : Rec) : Nat := rBits r 30 3 0
def crOp (r : Rec) : Nat := rBits r 30 5 4
def crLines (r : Rec) : Nat := rBits r 31 5 0 + 1

/-- The number that stands for (rank0, n, cid) (R352). -/
def crKey (r : Rec) : Nat := crRank0 r + crN r * 2 ^ 21 + crCid r * 2 ^ 42

def opNRED : Nat := 0xC0
def opNALLRED : Nat := 0xC1
def opNBCAST : Nat := 0xC2
def opNBAR : Nat := 0xC3

/-- Steps 4 and 6 for a collective command (R351): cf0 is defined; op3-op6 are reserved; the record is aligned. -/
def collHeaderOk (w : CmdWord) : Bool := headerOk w false false 1 false
def collWordOk (w : CmdWord) : Bool := [3, 4, 5, 6].all (fun i => cOp w i = 0) && cBits w 1 5 0 = 0

/-- Step 9 of R351. -/
def collRecOk (w : CmdWord) (r : Rec) : Bool :=
  let op := cOpcode w
  let bar := op = opNBAR
  rBits r 16 31 21 = 0 && rBits r 20 31 21 = 0 && rBits r 24 31 21 = 0 && rBits r 30 7 6 = 0 && rBits r 31 7 6 = 0 &&
    rBytes r 32 32 = 0 && bits (crIn r) 5 0 = 0 && bits (crOut r) 5 0 = 0 && crN r ≠ 0 && decide (crRoot r < crN r) &&
    crOp r ≠ 3 && (cScope w = 2 || cScope w = 3) && (op ≠ opNBCAST || crOp r = 0) &&
    ((op ≠ opNALLRED && !bar) || crRoot r = 0) && (!bar || (crIn r = 0 && crOut r = 0 && crLines r = 1))

/-- The members' stripe set that makes a cid a domain collective's, if one does (R403). -/
def Chip.xset (c : Chip) (cid : Nat) : Option Nat :=
  (c.xcol.find? (fun e => e.2.getLsbD 16 && bits e.2 15 0 = cid)).map (fun e => bits e.2 31 24)

/-- The modules that take part, by member index: this one alone unless the cid is a domain collective's. -/
def Chip.xmembers (c : Chip) (cid : Nat) : List Nat :=
  match c.xset cid with
  | none => [c.selfModule]
  | some n => (natsFrom 0 (c.stripeSize n)).map (c.stripeMember n)

/-- Step 10 of R351 and the checks of R403; a scope other than .mod takes their trap (DEDUCED, log entry 105). -/
def State.collPlaceOk (s : State) (w : CmdWord) (r : Rec) : Bool :=
  let k := s.curCore
  let chip := s.chip (dieOf k)
  let last := crRank0 r + crN r - 1
  [2, 8, 9].contains (crType r) && isCompute k && decide (crRank0 r ≤ rankOf k) && decide (rankOf k ≤ last) &&
    decide (last < s.grade * 2112) && (cScope w ≠ 2 || crRank0 r / 2112 = last / 2112) &&
    (match chip.xset (crCid r) with
     | none => true
     | some _ => (cOpcode w = opNALLRED || cOpcode w = opNBAR) && cScope w = 3 && (chip.xmembers (crCid r)).all (fun m => chip.domain.contains m))

/-- Steps 7-11 of R351; va is the address of the command word. -/
def State.issueColl (s : State) (va : Word) (w : CmdWord) : State :=
  s.orUnitPending [.copy] (fun s =>
    s.loadThen (cAddr w 1) 64 (fun bs =>
      let r : Rec := BitVec.ofNat 512 (leNat bs)
      if !collRecOk w r then s.trap cRESERVED_FIELD va
      else if !s.collPlaceOk w r then s.trap cREDUCE_TYPE_MISMATCH va
      else if 2 ≤ s.here.collQ.length then s.queueFull w
      else
        let h := s.newHead w s.here.collSeq
        let s := s.issued w
        let q : CollCmd := { hd := h, rcd := r, st := .waiting, sent := false, bytes := [], cause := 0, addr := 0,
                             lines := if cOpcode w = opNBAR then [allLines (cScope w)] else [], back := none }
        ((s.modHere (fun c => { c with collQ := c.collQ ++ [q], collSeq := (c.collSeq + 1) % 65536 })).planCmd s.curCore h).complete))

/-! Contributions (R352, R353). -/

def State.modColl (s : State) (k seq : Nat) (f : CollCmd → CollCmd) : State :=
  s.modCore k (fun c => { c with collQ := updFirst (fun (q : CollCmd) => q.hd.seq = seq) f c.collQ })

def State.coll? (s : State) (r : CmdRef) : Option CollCmd := (s.core r.core).collQ.find? (fun q => q.hd.seq = r.seq)

/-- The participant index of a core in a collective. -/
def collIdx (r : Rec) (k : Nat) : Nat := rankOf k - crRank0 r

/-- Does a command's participant contribute input? -/
def collReads (q : CollCmd) (k : Nat) : Bool :=
  let op := cOpcode q.hd.word
  op = opNRED || op = opNALLRED || (op = opNBCAST && collIdx q.rcd k = crRoot q.rcd)

/-- The contribution leaves the unit for the router of its cluster. -/
def State.sendContribution (s : State) (r : CmdRef) (f : CollCmd → CollCmd) : State :=
  (s.modColl r.core r.seq (fun q => { f q with sent := true, st := .waiting })).plan
    (.collectiveContribution r (cluKey r.core))

/-- An access of a collective command stops (R361, R372); fail says what a failure does. -/
def State.collStop (s : State) (r : CmdRef) (q : CollCmd) (e : EngErr) (fail : Nat → Word → State → State) : State :=
  match e.stop with
  | .again => s.planCmd r.core q.hd
  | .hold h => (s.modColl r.core r.seq (fun q => { q with st := .held h })).faultMessage r.core 2 q.hd.ctx h
  | .park va =>
    let s := if q.st = .parked then s
      else (s.modColl r.core r.seq (fun q => { q with st := .parked })).svcLog r.core cMIGRATE_WAIT va.toNat
    s.planCmd r.core q.hd
  | .fail c a => fail c a s

/-- The command ends with a pending error of its context, in status 0b01 (R352, R196). -/
def State.collError (s : State) (r : CmdRef) (q : CollCmd) (cause : Nat) (addr info : Word) : State :=
  ((s.recordCopyErr r.core q.hd.ctx cause addr info).modColl r.core r.seq (fun q => { q with st := .done 1 })).plan
    (.collectiveComplete r)

/-- Work on a collective command: its input is read after its release, and its contribution sent (R352, R354). -/
def State.collRun (s : State) (r : CmdRef) : State :=
  match s.coll? r with
  | none => s
  | some q =>
    let info := cmdInfo (cOpcode q.hd.word) q.hd.seq 0
    match q.st with
    | .done _ => s
    | .held _ => s
    | .failed c a =>
      if q.sent then s.collError r q c a info
      else s.sendContribution r (fun q => { q with cause := c, addr := a })
    | _ =>
      if (s.core r.core).stopped then s
      else if q.sent then s.plan (.collectiveComplete r)
      else if !s.released q.hd then s.planCmd r.core q.hd
      else if collReads q r.core then
        match s.engRead r.core q.hd (crIn q.rcd) (64 * crLines q.rcd) with
        | .ok bs => s.sendContribution r (fun q => { q with bytes := bs })
        | .error e => s.collStop r q e (fun c a s => s.sendContribution r (fun q => { q with cause := c, addr := a }))
      else s.sendContribution r id

/-- NRED (R351). -/
def execNred (r : CmdRef) (s : State) : Host.Outcome State Fault Refusal := .next (s.collRun r)

/-- NALLRED (R351). -/
def execNallred (r : CmdRef) (s : State) : Host.Outcome State Fault Refusal := .next (s.collRun r)

/-- NBCAST (R351). -/
def execNbcast (r : CmdRef) (s : State) : Host.Outcome State Fault Refusal := .next (s.collRun r)

/-- NBAR (R351). -/
def execNbar (r : CmdRef) (s : State) : Host.Outcome State Fault Refusal := .next (s.collRun r)

/-- A collective with nothing contributed yet, as the first command of it describes it. -/
def Coll.start (q : CollCmd) : Coll :=
  { rank0 := crRank0 q.rcd, n := crN q.rcd, cid := crCid q.rcd, opcode := cOpcode q.hd.word, root := crRoot q.rcd,
    ty := crType q.rcd, op := crOp q.rcd, lines := crLines q.rcd, opportunistic := cFlag q.hd.word 0,
    scope := cScope q.hd.word, parts := [], aborted := none, done := [], draw := 0 }

def Coll.key (c : Coll) : Nat := c.rank0 + c.n * 2 ^ 21 + c.cid * 2 ^ 42

/-- Do a command and the collective under way agree (R352)? -/
def Coll.agrees (c : Coll) (q : CollCmd) : Bool :=
  let d := Coll.start q
  c.opcode = d.opcode && c.opportunistic = d.opportunistic && c.scope = d.scope && c.root = d.root && c.ty = d.ty &&
    c.op = d.op && c.lines = d.lines

/-- Is a collective that of a key for participant i: one that i is not through with? A participant may issue the key again
when its own completion has come, before the others' has (R352). -/
def Coll.isFor (c : Coll) (key i : Nat) : Bool := c.key = key && !c.done.contains i

def State.collOf (s : State) (key i : Nat) : Option Coll := s.colls.find? (fun c => c.isFor key i)

/-- Change the collective of participant i's command, which is created when it is not there. -/
def State.withColl (s : State) (q : CollCmd) (i : Nat) (f : Coll → Coll) : State :=
  match s.collOf (crKey q.rcd) i with
  | some _ => { s with colls := updFirst (fun (c : Coll) => c.isFor (crKey q.rcd) i) f s.colls }
  | none => { s with colls := s.colls ++ [f (Coll.start q)] }

/-- All contributions are in, or one was an abort marker. -/
def Coll.ready (c : Coll) : Bool := c.aborted.isSome || c.parts.length = c.n

/-- The commands whose contribution to a collective has been sent. -/
def State.collMembers (s : State) (key : Nat) : List CmdRef :=
  s.cores.flatMap (fun e => (e.2.collQ.filter (fun q => crKey q.rcd = key && q.sent)).map (fun q => { core := e.1, seq := q.hd.seq }))

/-- The results travel once the collective is ready; its combining entries are free again (R353). -/
def State.settleColl (s : State) (key i : Nat) : State :=
  match s.collOf key i with
  | none => s
  | some c =>
    if c.ready then
      let s := { s with
        clusters := s.clusters.map (fun (e : Nat × Cluster) => (e.1, { e.2 with combining := e.2.combining.filter (· != key) })),
        colls := updFirst (fun (c : Coll) => c.isFor key i) (fun (c : Coll) => { c with draw := s.clock }) s.colls }.tick
      s.plans ((s.collMembers key).map .collectiveComplete)
    else s

/-- A contribution or abort marker is combined (R352, R353). -/
def State.combine (s : State) (r : CmdRef) (q : CollCmd) : State :=
  let i := collIdx q.rcd r.core
  let same := match s.collOf (crKey q.rcd) i with
    | some c => c.agrees q
    | none => true
  let s :=
    if q.cause ≠ 0 then
      s.withColl q i (fun c => { c with aborted := c.aborted.or (some (i, cREDUCE_TYPE_MISMATCH)), parts := tset i [] c.parts })
    else if !same then
      (s.modColl r.core r.seq (fun q => { q with cause := cREDUCE_TYPE_MISMATCH })).withColl q i (fun c =>
        { c with aborted := c.aborted.or (some (i, cREDUCE_TYPE_MISMATCH)), parts := tset i [] c.parts })
    else s.withColl q i (fun c => { c with parts := tset i q.bytes c.parts })
  s.settleColl (crKey q.rcd) i

/-- Has the gap passed since a contribution was returned (R353)? -/
def State.contributionDue (s : State) (r : CmdRef) : Bool :=
  match (s.coll? r).bind (·.back) with
  | some t => s.feGapOver r.core t
  | none => false

/-- A contribution reaches a router: a combining entry takes it, or it is returned when all 32 are used (R353). -/
def State.contribute (s : State) (r : CmdRef) (router : Nat) : State :=
  match s.coll? r with
  | none => s
  | some q =>
    let key := crKey q.rcd
    let held := (s.cluster router).combining
    let there := match s.collOf key (collIdx q.rcd r.core) with
      | some c => (tfind (collIdx q.rcd r.core) c.parts).isSome
      | none => false
    if !q.sent || there || q.back.isSome then s
    else if held.contains key then s.combine r q
    else if 32 ≤ held.length then s.modColl r.core r.seq (fun q => { q with back := some (s.cycleOf r.core) })
    else (s.modCluster router (fun c => { c with combining := held ++ [key] })).combine r q

/-- COLLECTIVE_CONTRIBUTION (R353). -/
def execCollectiveContribution (r : CmdRef) (router : Nat) (s : State) : Host.Outcome State Fault Refusal :=
  .next (s.contribute r router)

/-- A contribution that has been returned goes to its router again after the gap (R353). -/
def State.contributeAgain (s : State) (r : CmdRef) : State :=
  if s.contributionDue r then
    (s.modColl r.core r.seq (fun q => { q with back := none })).plan (.collectiveContribution r (cluKey r.core))
  else s

/-- COLLECTIVE_CONTRIB_RESEND (R353). -/
def execCollectiveContribResend (r : CmdRef) (s : State) : Host.Outcome State Fault Refusal := .next (s.contributeAgain r)

/-! Results (R353, R354). -/

/-- One combine of two elements, rounded to the element type by RNE (R353, R61, R62). -/
def combineElem (t : ElemTy) (op a b : Nat) : Nat :=
  let v : VT := { ty := t, mode := .rne, sat := false }
  match op with
  | 0 => arith2 (· + ·) FV.add v 0 0 a b
  | 1 => minE v 0 0 a b
  | _ => maxE v 0 0 a b

def combineRow (t : ElemTy) (op : Nat) (a b : List Nat) : List Nat := (a.zip b).map (fun p => combineElem t op p.1 p.2)

/-- Some binary tree over a list: which two values combine next is free (log entry 16, DESIGN CHOICE). -/
def freeTree {α : Type} (op : α → α → α) (clock : Nat) : Nat → List α → List α
  | 0, l => l
  | n + 1, l =>
    match l[Config.order clock % l.length]? with
    | none => l
    | some x =>
      let rest := l.eraseIdx (Config.order clock % l.length)
      match rest[Config.order (clock + 1) % rest.length]? with
      | none => l
      | some y => freeTree op (clock + 2) n (op x y :: rest.eraseIdx (Config.order (clock + 1) % rest.length))

/-- The combined rows of a list of values in index order. -/
def combineAll (free : Bool) (clock : Nat) (t : ElemTy) (op : Nat) (rows : List (List Nat)) : List Nat :=
  ((if free then freeTree (combineRow t op) clock rows.length rows else treeFold (combineRow t op) 22 rows)).headD []

/-- The result of a collective as bytes (R353), one for all its participants; its members' values combined in a domain (R403). -/
def State.collResult (s : State) (k : Nat) (c : Coll) : List Byte :=
  if c.opcode = opNBCAST then tget [] c.root c.parts
  else if c.opcode = opNBAR then []
  else
    let t := typeOf c.ty
    let chip := s.chip (dieOf k)
    let mine := combineAll c.opportunistic c.draw t c.op (c.parts.map (fun e => rowElems t.width e.2))
    let len := 64 * c.lines
    let rows := (chip.xmembers c.cid).map (fun m =>
      if m = chip.selfModule then mine
      else rowElems t.width ((natsFrom 0 len).map (Config.peerByte c.draw m)))
    packBytes t.width len (combineAll c.opportunistic c.draw t c.op rows)

/-- A participant is through; the collective ends with the last one (R352). -/
def State.collThrough (s : State) (key i : Nat) : State :=
  let s := { s with colls := updFirst (fun (c : Coll) => c.isFor key i) (fun (c : Coll) => { c with done := insertNat i c.done }) s.colls }
  { s with colls := s.colls.filter (fun (c : Coll) => !(c.key = key && c.done.length = c.n)) }

/-- The command retires: its completion word is sent when its stores are home (R354). -/
def State.collRetire (s : State) (r : CmdRef) (q : CollCmd) (status : Nat) : State :=
  if !s.engHome r.core then s.plan (.collectiveComplete r)
  else
    let s := s.modCore r.core (fun c => { c with collQ := dropFirst (fun (x : CollCmd) => x.hd.seq = r.seq) c.collQ })
    let s := s.collThrough (crKey q.rcd) (collIdx q.rcd r.core)
    (s.sendCompletion r.core q.hd (cOp q.hd.word 7) status 0 q.lines).wakeUnits r.core

/-- A participant's result is written at its output (R351), unless another module of the domain is lost or aborts (R403). -/
def State.collDeliver (s : State) (r : CmdRef) (q : CollCmd) (c : Coll) : State :=
  let k := r.core
  let info := cmdInfo (cOpcode q.hd.word) q.hd.seq 0
  let chip := s.chip (dieOf k)
  let peers := (chip.xmembers c.cid).filter (· != chip.selfModule)
  if peers.any s.peerDown then s.collError r q cDEAD_DESTINATION 0 info
  else match peers.findSome? (Config.peerAborts c.draw) with
  | some i => s.collError r q cREDUCE_TYPE_MISMATCH 0 (i.setWidth 64)
  | none =>
    let writes := c.opcode = opNALLRED || c.opcode = opNBCAST || (c.opcode = opNRED && collIdx q.rcd k = c.root)
    let finish (s : State) : State :=
      (s.modColl k r.seq (fun q => { q with st := .done 0 })).plan (.collectiveComplete r)
    if !writes then finish s
    else
      match s.engWrite k q.hd (crOut q.rcd) (s.collResult k c) with
      | .ok s => finish s
      | .error e => s.collStop r q e (fun x a s => s.collError r q x a info)

/-- The result, or the abort, of a collective reaches a participant (R352, R354). -/
def State.collComplete (s : State) (r : CmdRef) : State :=
  match s.coll? r with
  | none => s
  | some q =>
    if (s.core r.core).stopped then s else
    match q.st with
    | .done status => s.collRetire r q status
    | .held _ => s
    | .failed _ _ => s
    | _ =>
      match s.collOf (crKey q.rcd) (collIdx q.rcd r.core) with
      | none => s
      | some c =>
        if !q.sent || !c.ready then s
        else
          match c.aborted with
          | some (i, cause) =>
            if q.cause ≠ 0 then s.collError r q q.cause q.addr (cmdInfo (cOpcode q.hd.word) q.hd.seq 0)
            else s.collError r q cause 0 (BitVec.ofNat 64 i)
          | none => s.collDeliver r q c

/-- COLLECTIVE_COMPLETE (R354). -/
def execCollectiveComplete (r : CmdRef) (s : State) : Host.Outcome State Fault Refusal := .next (s.collComplete r)

/-- A participant's command is discarded (R352): its core or proxy sends the abort marker in its stead, and the others record
DEAD_DESTINATION, unless its contribution has been combined (DEDUCED, log entry 70). -/
def State.collDiscard (s : State) (k : Nat) (q : CollCmd) : State :=
  let i := collIdx q.rcd k
  let key := crKey q.rcd
  let s := s.modCore k (fun c => { c with collQ := dropFirst (fun (x : CollCmd) => x.hd.seq = q.hd.seq) c.collQ })
  let combined : Bool := match s.collOf key i with
    | some c => (tfind i c.parts).isSome
    | none => false
  if combined then s.collThrough key i
  else
    let s := s.withColl q i (fun c => { c with aborted := c.aborted.or (some (i, cDEAD_DESTINATION)), parts := tset i [] c.parts })
    (s.settleColl key i).collThrough key i

end Sys2Proof.Machine
end

