-- ==== Sys2Proof/Machine/Sweep.lean ====
section
/-! DEFINITION. The attention sweep (chapter 16): the six commands, subscriptions, pages and deliveries, partials and merge
buffers. A broadcast takes effect at every controller at once (log entry 13, DESIGN CHOICE). -/

namespace Sys2Proof.Machine

/-! Fields of the commands (R406). -/

def swNum (w : CmdWord) : Nat := cBits w 1 7 0
def swIdx (w : CmdWord) : Nat := cBits w 1 19 8
def swQs (w : CmdWord) : Nat := cBits w 2 23 0
def swPa (w : CmdWord) : Nat := (cAddr w 3).toNat
def swOff (w : CmdWord) : Nat := cBits w 5 15 0
def swLast (w : CmdWord) : Bool := cFlag w 0
def swTag (w : CmdWord) : Nat := cBits w 7 23 0

/-- The subscription that a command names. -/
def swName (w : CmdWord) : SubName := { sweep := swNum w, page := { qs := swQs w, idx := swIdx w } }

/-- The cluster and the slot that qs names (R405). -/
def qsClu (qs : Nat) : Nat := qs / 128
def qsSlot (qs : Nat) : Nat := qs % 128

def opASOPEN : Nat := 0xA0
def opASUB : Nat := 0xA1
def opASCLOSE : Nat := 0xA2
def opAPART : Nat := 0xA3
def opAMCFG : Nat := 0xA4
def opAMREAD : Nat := 0xA5

/-- Step 4 for a sweep command. -/
def sweepHeaderOk (w : CmdWord) : Bool :=
  let op := cOpcode w
  headerOk w (op = opASOPEN) false (if op = opASUB || op = opAMREAD then 1 else 0) false

/-- Step 6 for a sweep command: reserved bits, ranges, alignments, and a notify that must be 1 (R406, R407 step 9). -/
def State.sweepWordOk (s : State) (w : CmdWord) : Bool :=
  let zero (l : List Nat) : Bool := l.all (fun i => cOp w i = 0)
  let low (i b : Nat) : Bool := cOp w i / 2 ^ b = 0
  low 7 24 && cOp w 6 = 0 &&
    (match cOpcode w with
     | 0xA0 =>
       let pblk := cBits w 2 9 0
       let hd := cBits w 3 8 0
       low 1 8 && low 2 10 && cBits w 3 15 9 = 0 && low 3 22 && zero [4, 5] && cNotify w && decide (1 ≤ pblk) &&
         decide (pblk ≤ 512) && decide (16 ≤ hd) && decide (hd ≤ 256) && hd % 16 = 0
     | 0xA1 =>
       low 1 20 && low 2 24 && low 4 24 && low 5 16 && swOff w % 64 = 0 && cNotify w && swPa w % 128 = 0 &&
         isDramPa (swPa w) && s.regionAlive (swPa w / 2 ^ 46 - 512)
     | 0xA2 => low 1 8 && zero [2, 3, 4, 5]
     | 0xA3 => low 1 20 && low 2 24 && zero [3, 4] && low 5 16 && swOff w % 64 = 0
     | 0xA4 =>
       let n := cBits w 2 7 0
       let e := cBits w 2 24 16
       low 1 13 && cBits w 2 15 8 = 0 && low 2 25 && low 3 9 && zero [4, 5] && decide (n ≤ 128) && decide (n ≤ e) && decide (e ≤ 448)
     | _ =>
       low 1 24 && low 3 24 && cOp w 2 % 64 = 0 && (cOp w 4 = 8 || cOp w 4 = 9) && cOp w 5 = 0 && cNotify w)

/-! Slots of merge buffers (R417, R418). -/

def State.merge (s : State) (clu : Nat) : Merge := (s.cluster clu).merge
def State.modMerge (s : State) (clu : Nat) (f : Merge → Merge) : State := s.modCluster clu (fun c => { c with merge := f c.merge })
def State.modQSlot (s : State) (qs : Nat) (f : QSlot → QSlot) : State :=
  s.modMerge (qsClu qs) (fun m => match tfind (qsSlot qs) m.slots with
    | some q => { m with slots := tset (qsSlot qs) (f q) m.slots }
    | none => m)

/-- The slot qs, unless it is FREE. -/
def State.qslot (s : State) (qs : Nat) : Option QSlot := tfind (qsSlot qs) (s.merge (qsClu qs)).slots

/-- A BOUND slot goes to ERROR, and its entries are freed (R418). -/
def State.slotError (s : State) (qs sweep cause : Nat) : State :=
  match s.qslot qs with
  | some q =>
    if q.st = .bound && q.sweep = sweep then
      (s.modQSlot qs (fun q => { q with st := .error cause })).modMerge (qsClu qs) (fun m =>
        { m with entries := m.entries.filter (fun (e : MEntry) => e.slot != qsSlot qs) })
    else s
  | none => s

/-- The count of slots bound to a sweep changes at its coordinator (R410). -/
def State.boundBy (s : State) (sweep : Nat) (up : Bool) : State :=
  match tfind sweep s.sweeps with
  | some w => { s with sweeps := tset sweep { w with bound := if up then w.bound + 1 else w.bound - 1 } s.sweeps }
  | none => s

/-- A slot becomes FREE; its coordinator is told (R418). -/
def State.freeSlot (s : State) (qs : Nat) : State :=
  match s.qslot qs with
  | some q =>
    let s := s.modMerge (qsClu qs) (fun m =>
      { m with slots := tdel (qsSlot qs) m.slots, entries := m.entries.filter (fun (e : MEntry) => e.slot != qsSlot qs) })
    (s.boundBy q.sweep false).plan (.sweepClosedDone q.sweep)
  | none => s

/-! ISSUE (R407, R408). -/

/-- The reasons of R408 that the issuing core's own controller decides; 0 for none. -/
def State.sweepReason (s : State) (w : CmdWord) : Nat :=
  let op := cOpcode w
  let clu := cluKey s.curCore
  if op = opASUB || op = opAPART then
    match tfind (swNum w) s.sweeps with
    | none => 1
    | some x =>
      if op = opASUB then
        (if 65536 < swOff w + 64 * x.pblk + 8 then 7 else if 64 ≤ s.here.subs.length then 8 else 0)
      else if !s.here.subs.any (fun u => u.name = swName w && u.st = .delivered) ||
          65536 < swOff w + 64 + 4 * x.hd then 9
      else 0
  else if op = opAMCFG then
    let c := (s.cluster clu).carve
    let hd := cBits w 3 8 0
    let size := 128 * cBits w 1 12 0 + cBits w 2 7 0 * (576 + 4 * hd) + cBits w 2 24 16 * (64 + 4 * hd)
    if !(s.merge clu).slots.isEmpty || c.state ≠ 1 || c.ways * 131072 < size then 10 else 0
  else 0

/-- ATTN_SUBSCRIBE_INVALID with its reason (R408). -/
def State.attnTrap (s : State) (reason : Nat) : State := s.trapInfo cATTN_SUBSCRIBE_INVALID 0 (BitVec.ofNat 64 reason)

/-- A command's entry in the queue of the executing core. -/
def sweepEntry (h : CmdHead) : SweepCmd :=
  { hd := h, entry := true, st := .waiting, result := 0, since := 0, registered := false, lines := [] }

/-- Steps 7-13 of R407; va is the address of the command word. An ASUB waits for its round trip under a number of its own
and takes its sequence number when it is accepted. -/
def State.issueSweep (s : State) (va : Word) (w : CmdWord) : State :=
  s.orUnitPending [.copy] (fun s =>
    let op := cOpcode w
    if (op = opASOPEN || op = opAMCFG) && !s.cur.super then s.trap cPRIVILEGE va
    else
      let reason := s.sweepReason w
      if reason ≠ 0 then s.attnTrap reason
      else if op = opASUB && s.cur.st = .firing then s.trap cHANDLER_BLOCKED 0
      else if 2 ≤ (s.here.sweepQ.filter (·.entry)).length then s.queueFull w
      else if op = opASUB then
        let h := s.newHead w (65536 + s.clock)
        let s := s.issued w
        ((({ s with clock := s.clock + 1 }.modHere (fun c => { c with sweepQ := c.sweepQ ++ [sweepEntry h] })).block (.asub h.seq)).plan
          (.subscriptionAtSlot { core := s.curCore, seq := h.seq }))
      else
        let h := s.newHead w s.here.sweepSeq
        let s := s.issued w
        ((s.modHere (fun c => { c with sweepQ := c.sweepQ ++ [sweepEntry h], sweepSeq := (c.sweepSeq + 1) % 65536 })).planCmd
          s.curCore h).complete)

/-! Completion (R409). -/

def State.sweep? (s : State) (r : CmdRef) : Option SweepCmd := (s.core r.core).sweepQ.find? (fun q => q.hd.seq = r.seq)
def State.modSweep (s : State) (r : CmdRef) (f : SweepCmd → SweepCmd) : State :=
  s.modCore r.core (fun c => { c with sweepQ := updFirst (fun (q : SweepCmd) => q.hd.seq = r.seq) f c.sweepQ })

/-- The command gives its entry back: another may be issued. -/
def State.handOver (s : State) (r : CmdRef) : State := (s.modSweep r (fun q => { q with entry := false })).wakeUnits r.core

/-- The command ends: its completion word carries result and tag. -/
def State.sweepEnd (s : State) (r : CmdRef) (q : SweepCmd) (status result : Nat) : State :=
  let lines := ((s.sweep? r).map (·.lines)).getD []
  let s := s.modCore r.core (fun c => { c with sweepQ := dropFirst (fun (x : SweepCmd) => x.hd.seq = r.seq) c.sweepQ })
  (s.sendCompletion r.core q.hd (result * 2 ^ 24 + swTag q.hd.word) status 0 lines).wakeUnits r.core

/-- The command ends in status 0b01 with a deferred error. -/
def State.sweepFail (s : State) (r : CmdRef) (q : SweepCmd) (cause : Nat) (addr : Word) : State :=
  (s.recordCopyErr r.core q.hd.ctx cause addr (cmdInfo (cOpcode q.hd.word) q.hd.seq 0)).sweepEnd r q 1 0

/-- Work on a command when those of its context before it have been handed over, and its release is satisfied (R409,
R190). -/
def State.sweepRun (s : State) (r : CmdRef) (work : SweepCmd → State → State) : State :=
  match s.sweep? r with
  | none => s
  | some q =>
    match q.st with
    | .held _ => s
    | .failed c a => s.sweepFail r q c a
    | _ =>
      let before := (s.core r.core).sweepQ.takeWhile (fun x => x.hd.seq != r.seq)
      if (s.core r.core).stopped then s
      else if (q.entry && before.any (fun x => x.hd.ctx = q.hd.ctx && x.entry)) || !s.released q.hd then s.planCmd r.core q.hd
      else work q s

/-! Sweeps (R410). -/

/-- ASOPEN (R410). -/
def execAsopen (r : CmdRef) (s : State) : Host.Outcome State Fault Refusal :=
  .next (s.sweepRun r (fun q s =>
    let w := q.hd.word
    let s := s.handOver r
    match tfind (swNum w) s.sweeps with
    | some _ => s.sweepEnd r q 0 1
    | none =>
      let x : Sweep := { st := .opened, pblk := cBits w 2 9 0, hd := cBits w 3 8 0, keyid := cBits w 3 21 16, det := cDet w,
                         bound := 0, closer := none }
      ({ s with sweeps := tset (swNum w) x s.sweeps }).sweepEnd r q 0 0))

/-- ASCLOSE (R410, R413): every controller fetches its OPEN pages of the sweep. -/
def execAsclose (r : CmdRef) (s : State) : Host.Outcome State Fault Refusal :=
  .next (s.sweepRun r (fun q s =>
    let n := swNum q.hd.word
    let s := s.handOver r
    match tfind n s.sweeps with
    | some x =>
      if q.st ≠ .waiting then s
      else if x.st ≠ .opened then s.sweepEnd r q 0 1
      else
        let s := s.modSweep r (fun q => { q with st := .parked })
        let s := { s with sweeps := tset n { x with st := .sweeping, closer := some r } s.sweeps }
        let opens := s.clusters.flatMap (fun (e : Nat × Cluster) =>
          (e.2.pages.filter (fun (p : KvPage) => p.sweep = n && p.st = KvState.opened)).map (fun (p : KvPage) => (e.1, p.pa)))
        let s := { s with clusters := s.clusters.map (fun (e : Nat × Cluster) => (e.1, { e.2 with pages := e.2.pages.map (fun (p : KvPage) =>
          if p.sweep = n && p.st = KvState.opened then { p with st := .fetching } else p) })) }
        (s.plans (opens.map (fun (p : Nat × Nat) => Instr.pageReadComplete p.1 n p.2))).plan (.sweepClosedDone n)
    | none => s.sweepEnd r q 0 1))

/-- The accepted ASUBs whose subscription has still to enter its page's list. -/
def State.asubsAtPage (s : State) (p : CmdWord → Bool) : List Instr :=
  s.cores.flatMap (fun e => (e.2.sweepQ.filter (fun q => q.registered && cOpcode q.hd.word = opASUB && p q.hd.word)).map (fun q =>
    Instr.subscriptionAtPage { core := e.1, seq := q.hd.seq }))

/-- A sweep all of whose pages are SENT is CLOSED_DONE; one that no slot is bound to is then FREE (R410). -/
def State.sweepDone (s : State) (n : Nat) : State :=
  match tfind n s.sweeps with
  | none => s
  | some x =>
    let s :=
      if x.st = .sweeping && !s.clusters.any (fun e => e.2.pages.any (fun p => p.sweep = n)) then
        let s := { s with sweeps := tset n { x with st := .closedDone, closer := none } s.sweeps }
        match x.closer with
        | some r => (match s.sweep? r with
          | some q => s.sweepEnd r q 0 0
          | none => s)
        | none => s
      else s
    match tfind n s.sweeps with
    | some y =>
      if y.st = .closedDone && y.bound = 0 then
        let s := { s with
          sweeps := tdel n s.sweeps
          clusters := s.clusters.map (fun (e : Nat × Cluster) => (e.1,
            { e.2 with pages := e.2.pages.filter (fun p => p.sweep != n), marks := e.2.marks.filter (fun p => p.1 != n),
                       waitingSubs := e.2.waitingSubs.filter (fun p => p.2.1 != n),
                       deliveries := e.2.deliveries.filter (fun d => d.sweep != n) })) }
        s.plans (s.asubsAtPage (fun w => swNum w = n))
      else s
    | none => s

/-- SWEEP_CLOSED_DONE (R410). -/
def execSweepClosedDone (sweep : Nat) (s : State) : Host.Outcome State Fault Refusal := .next (s.sweepDone sweep)

/-! Subscriptions (R412, R413). -/

/-- Reasons 2-6 of R408 at the controller of qs. -/
def State.slotReason (s : State) (w : CmdWord) (x : Sweep) (core : Nat) : Nat :=
  let m := s.merge (qsClu (swQs w))
  let i := swIdx w
  let last := swLast w
  if s.grade * 132 ≤ qsClu (swQs w) || m.nslots = 0 || m.nslots ≤ qsSlot (swQs w) || (s.cluster (qsClu (swQs w))).carve.state ≠ 1 then 2
  else
    let r := match s.qslot (swQs w) with
      | none => 0
      | some q =>
        let past : Bool := match q.n with
          | some n => decide (n ≤ i) || last
          | none => false
        if q.sweep ≠ swNum w then 3
        else if q.idxs.contains i || past || (last && q.idxs.any (fun j => decide (i < j))) then 4
        else if 8 ≤ q.ranks.length && !q.ranks.contains core then 5
        else 0
    if r ≠ 0 then r else if m.hd ≠ x.hd then 6 else 0

/-- A fresh slot bound to a sweep (R418). -/
def QSlot.bind (sweep hd : Nat) : QSlot :=
  { st := .bound, sweep := sweep, m := 0xFF800000, l := 0, o := List.replicate hd 0, next := 0, n := none, count := 0,
    ranks := [], idxs := [] }

/-- The ASUB is accepted: it takes its sequence number, and its instruction completes. -/
def State.acceptAsub (s : State) (r : CmdRef) : State × CmdRef :=
  let seq := (s.core r.core).sweepSeq
  let s := s.modSweep r (fun q => { q with hd := { q.hd with seq := seq } })
  let s := s.modCore r.core (fun c => { c with sweepSeq := (seq + 1) % 65536 })
  let s := s.modCore r.core (Core.mapCtxs (fun _ c => if c.wait = .asub r.seq then { c with pc := c.pc + 4, wait := .none } else c))
  (s, { core := r.core, seq := seq })

/-- The context that issued a command that is refused at the slot traps precisely at its ISSUE (DEDUCED, log entry 55). -/
def State.refuseAsub (s : State) (r : CmdRef) (q : SweepCmd) (reason : Nat) : State :=
  let s := s.modCore r.core (fun c => { c with sweepQ := c.sweepQ.filter (fun (x : SweepCmd) => x.hd.seq != r.seq) })
  let x := s.ctx r.core q.hd.ctx
  if x.wait = .asub r.seq then
    (s.takeTrap r.core q.hd.ctx cATTN_SUBSCRIBE_INVALID 0 (BitVec.ofNat 64 reason) x.pc).wakeUnits r.core
  else s.wakeUnits r.core

/-- SUBSCRIPTION_AT_SLOT: the registration of R412. -/
def State.subAtSlot (s : State) (r : CmdRef) : State :=
  match s.sweep? r with
  | none => s
  | some q =>
    let w := q.hd.word
    let qs := swQs w
    if q.registered || !(s.ctx r.core q.hd.ctx).wait = .asub r.seq then s
    else match tfind (swNum w) s.sweeps with
      | none => s.refuseAsub r q 1
      | some x =>
        let reason := s.slotReason w x r.core
        if reason ≠ 0 then s.refuseAsub r q reason
        else
          let p := s.acceptAsub r
          let s := p.1.handOver p.2
          let r := p.2
          let q := { q with hd := { q.hd with seq := r.seq } }
          if x.st = .closedDone then s.sweepEnd r q 0 0x34
          else
            let i := swIdx w
            let s := match s.qslot qs with
              | some _ => s
              | none =>
                (s.modMerge (qsClu qs) (fun m => { m with slots := tset (qsSlot qs) (QSlot.bind (swNum w) m.hd) m.slots })).boundBy
                  (swNum w) true
            let s := s.modQSlot qs (fun q => { q with
              idxs := insertNat i q.idxs, ranks := insertNat r.core q.ranks, n := if swLast w then some (i + 1) else q.n })
            let u : Sub := { sweep := swNum w, qs := qs, idx := i, loff := swOff w, last := swLast w, ctx := q.hd.ctx,
                             slot := q.hd.slot, st := .waiting, apart := none, poff := 0, nacked := false, since := 0, nackAt := 0 }
            let s := s.modCore r.core (fun c => { c with subs := c.subs ++ [u] })
            (s.modSweep r (fun q => { q with registered := true })).plan (.subscriptionAtPage r)

/-- SUBSCRIPTION_AT_SLOT (R412). -/
def execSubscriptionAtSlot (r : CmdRef) (s : State) : Host.Outcome State Fault Refusal := .next (s.subAtSlot r)

/-- The bytes of a page at their homes under the sweep's key, or the data error of reading them (R411, R413). -/
def State.kvRead (s : State) (x : Sweep) (pa : Nat) : Except Nat (List Byte) :=
  let ls := (natsFrom pa (64 * x.pblk)).map (fun a => s.locOfKey a x.keyid)
  match ls.findSome? s.dataError with
  | some c => .error c
  | none => .ok (ls.map s.byteAt)

/-- Is the way from a controller to the homes of a page open? -/
def State.kvOpen (s : State) (ctl : Nat) (x : Sweep) (pa : Nat) : Bool :=
  ((natsFrom 0 (64 * x.pblk / 128 + 1)).map (fun i => s.locOfKey (pa + 128 * i) x.keyid)).all (s.wayOpen (svcOfClu ctl))

/-- The subscriber that an ASUB makes. -/
def kvSubOf (r : CmdRef) (w : CmdWord) : KvSub :=
  { core := r.core, qs := swQs w, idx := swIdx w, loff := swOff w, last := swLast w, late := false }

/-- A delivery to a subscriber begins. -/
def State.kvSend (s : State) (ctl sweep pa : Nat) (u : KvSub) (bs : List Byte) (catchUp : Bool) : State :=
  let d : KvDelivery := { sweep := sweep, pa := pa, sub := { u with late := catchUp }, bytes := bs, catchUp := catchUp, nacked := false }
  (s.modCluster ctl (fun c => { c with deliveries := c.deliveries ++ [d] })).plan (.sweepDelivery u.core sweep (u.name sweep).page)

/-- A subscription enters the list of its page (R413). -/
def State.enterPage (s : State) (ctl : Nat) (x : Sweep) (n pa : Nat) (u : KvSub) : State :=
  let c := s.cluster ctl
  match c.kvPage n pa with
  | some p =>
    let s := s.modCluster ctl (fun c => { c with pages := (updFirst (fun (p : KvPage) => p.sweep = n && p.pa = pa)
      (fun (p : KvPage) => { p with subs := p.subs ++ [u] }) c.pages) })
    if p.st = .sending then s.kvSend ctl n pa u p.copy false else s
  | none =>
    if c.marks.contains (n, pa) then
      match s.kvRead x pa with
      | .ok bs => s.kvSend ctl n pa u bs true
      | .error cause => s.slotError u.qs n cause
    else
      let p : KvPage := { sweep := n, pa := pa, st := if x.st = .opened then .opened else .fetching, copy := [], subs := [u] }
      let s := s.modCluster ctl (fun c => { c with pages := c.pages ++ [p] })
      if x.st = .opened then s else s.plan (.pageReadComplete ctl n pa)

/-- SUBSCRIPTION_AT_PAGE: at the page's controller, when there is room; otherwise the subscription waits there (R413). -/
def State.subAtPage (s : State) (r : CmdRef) : State :=
  match s.sweep? r with
  | none => s
  | some q =>
    let w := q.hd.word
    let pa := swPa w
    let ctl := (s.locOfKey pa 0).clu
    let u := kvSubOf r w
    let c := s.cluster ctl
    let mine (x : KvSub × Nat × Nat) : Bool := x.1.core = u.core && x.1.name x.2.1 = swName w
    let ahead := (c.waitingSubs.takeWhile (fun x => !mine x)).length ≠ 0
    match tfind (swNum w) s.sweeps with
    | none => s.sweepEnd r q 0 0
    | some x =>
      let needsPage := (c.kvPage (swNum w) pa).isNone && !c.marks.contains (swNum w, pa)
      if !q.registered then s
      else if ahead || decide (1024 ≤ c.kvEntries) || (needsPage && decide (64 ≤ c.pages.length)) then
        (if c.waitingSubs.any mine then s
         else s.modCluster ctl (fun c => { c with waitingSubs := c.waitingSubs ++ [(u, swNum w, pa)] }))
      else if (c.marks.contains (swNum w, pa) && needsPage = false && (c.kvPage (swNum w) pa).isNone) && !s.kvOpen ctl x pa then
        s.plan (.subscriptionAtPage r)
      else
        let s := s.modCluster ctl (fun c => { c with waitingSubs := c.waitingSubs.filter (fun x => !mine x) })
        ((s.enterPage ctl x (swNum w) pa u).sweepEnd r q 0 0).kvRoom ctl

/-- SUBSCRIPTION_AT_PAGE (R413). -/
def execSubscriptionAtPage (r : CmdRef) (s : State) : Host.Outcome State Fault Refusal := .next (s.subAtPage r)

/-- ASUB (R412): the unit carries an accepted subscription to its page. -/
def execAsub (r : CmdRef) (s : State) : Host.Outcome State Fault Refusal :=
  .next (s.sweepRun r (fun _ s => s.plan (.subscriptionAtPage r)))

/-- A page's read ends: every entry is sent the bytes, or its slot goes to ERROR (R413); a list that has been emptied is served. -/
def State.pageRead (s : State) (ctl n pa : Nat) : State :=
  match (s.cluster ctl).kvPage n pa, tfind n s.sweeps with
  | some p, some x =>
    if p.st ≠ .fetching then s
    else if !s.kvOpen ctl x pa then s.plan (.pageReadComplete ctl n pa)
    else
      match s.kvRead x pa with
      | .error cause => ((p.subs.foldl (fun s u => s.slotError u.qs n cause) s).kvSent ctl n pa).kvRoom ctl
      | .ok bs =>
        let s := s.modCluster ctl (fun c => { c with pages := (updFirst (fun (p : KvPage) => p.sweep = n && p.pa = pa)
          (fun (p : KvPage) => { p with st := .sending, copy := bs }) c.pages) })
        (p.subs.foldl (fun s u => s.kvSend ctl n pa u bs false) s).kvSettle ctl n pa
  | _, _ => s

/-- PAGE_READ_COMPLETE (R413). -/
def execPageReadComplete (ctl sweep pa : Nat) (s : State) : Host.Outcome State Fault Refusal := .next (s.pageRead ctl sweep pa)

/-- The flag word of a delivery (R414). -/
def flagWord (d : KvDelivery) : Word :=
  BitVec.ofNat 64 (d.sub.idx + (if d.sub.late then 2 ^ 12 else 0) + (if d.sub.last then 2 ^ 13 else 0) + d.sweep * 2 ^ 16)

/-- A delivery reaches its subscriber: as an STFE of the flag word, or it is discarded (R414). -/
def State.deliver (s : State) (core : Nat) (u : SubName) : State :=
  match s.kvDelivery core u with
  | none => s
  | some (ctl, d) =>
    let mine (r : FeReq) : Bool := r.op = feDELIVER && r.core = core && r.sub = u
    if !s.subWaits core u then
      ({ s with fes := s.fes.filter (fun r => !mine r) }).kvDelivered ctl d
    else if s.fes.any mine then s
    else if !s.pathOpen (s.epOfClu ctl) (s.epOfCore core) then s.plan (.sweepDelivery core u.sweep u.page)
    else
      let r : FeReq := { id := s.clock, word := lmemKey core ((d.sub.loff + d.bytes.length) % 65536), op := feDELIVER, core := core,
                         ctx := 8, rd := 0, data := flagWord d, scope := .mod, remote := true, nacks := 0, tag := 0, sub := u, st := 0,
                         since := 0, lines := [] }
      ({ s with fes := s.fes ++ [r] }.tick).feArrive r.id

/-- SWEEP_DELIVERY (R414). -/
def execSweepDelivery (core sweep : Nat) (q : QIdx) (s : State) : Host.Outcome State Fault Refusal :=
  .next (s.deliver core { sweep := sweep, page := q })

/-- SWEEP_DELIVERY_RESEND (R414): a delivery NACKed for want of room is sent again after the gap, without limit. -/
def State.deliverAgain (s : State) (core : Nat) (u : SubName) : State :=
  match s.fes.find? (fun r => r.op = feDELIVER && r.core = core && r.sub = u && r.st = 2) with
  | some r => if !s.subWaits core u then s.deliver core u else if s.feGapOver core r.since then s.feArrive r.id else s
  | none => s

/-- SWEEP_DELIVERY_RESEND (R414). -/
def execSweepDeliveryResend (core sweep : Nat) (q : QIdx) (s : State) : Host.Outcome State Fault Refusal :=
  .next (s.deliverAgain core { sweep := sweep, page := q })

/-! Partials (R415, R416, R418-R420). -/

def f32v (b : BitVec 32) : FV := fval .f32 b.toNat
def f32r (v : FV) : BitVec 32 := BitVec.ofNat 32 (rne32 v)
def f32add (a b : BitVec 32) : BitVec 32 := f32r ((f32v a).add .rne (f32v b))
def f32mul (a b : BitVec 32) : BitVec 32 := f32r ((f32v a).mul (f32v b))
def f32exp2 (a : BitVec 32) : BitVec 32 := BitVec.ofNat 32 (exp2E { ty := .f32, mode := .rne, sat := false } a.toNat)

/-- merge (R420). -/
def QSlot.merge (q : QSlot) (m l : BitVec 32) (o : List (BitVec 32)) : QSlot :=
  if m = 0xFF800000 then q
  else if q.m = 0xFF800000 then { q with m := m, l := l, o := o }
  else
    let x := f32r ((f32v q.m).max (f32v m))
    let a1 := f32exp2 (f32r ((f32v q.m).sub .rne (f32v x)))
    let a2 := f32exp2 (f32r ((f32v m).sub .rne (f32v x)))
    let f (u v : BitVec 32) : BitVec 32 := f32add (f32mul a1 u) (f32mul a2 v)
    { q with m := x, l := f q.l l, o := (q.o.zip o).map (fun p => f p.1 p.2) }

/-- The landed partials that may merge into a slot merge, one after the other (R419). -/
def State.mergeHeld (s : State) (qs : Nat) (det : Bool) : Nat → State
  | 0 => s
  | fuel + 1 =>
    let m := s.merge (qsClu qs)
    match s.qslot qs with
    | none => s
    | some q =>
      match m.entries.find? (fun e => e.slot = qsSlot qs && (!det || e.idx = q.next)) with
      | none => s
      | some e =>
        if q.st ≠ .bound then s
        else
          let q' := q.merge e.m e.l e.o
          let q' := { q' with next := q.next + 1, st := if q.n = some (q.next + 1) then .complete else q.st }
          let s := s.modMerge (qsClu qs) (fun m =>
            { m with slots := tset (qsSlot qs) q' m.slots, merges := m.merges + 1,
                     entries := dropFirst (fun (x : MEntry) => x.slot = e.slot && x.idx = e.idx) m.entries })
          s.mergeHeld qs det fuel

/-- How an arriving partial lands (R419): in the pool, in the slot's reserved entry, or not at all. -/
def landingOf (m : Merge) (slot : Nat) (det : Bool) (q : QSlot) (i : Nat) : Option Bool :=
  if (m.entries.filter (fun e => !e.reserved)).length < m.nentries - m.nslots then some false
  else if !m.entries.any (fun e => e.slot = slot && e.reserved) && (!det || i = q.next) then some true
  else none

def State.modSub (s : State) (core : Nat) (n : SubName) (f : Sub → Sub) : State :=
  s.modCore core (fun c => { c with subs := updFirst (fun (u : Sub) => u.name = n) f c.subs })

def State.sub? (s : State) (core : Nat) (n : SubName) : Option Sub := (s.core core).subs.find? (fun u => u.name = n)

def State.dropSub (s : State) (core : Nat) (n : SubName) : State :=
  s.modCore core (fun c => { c with subs := dropFirst (fun (u : Sub) => u.name = n) c.subs })

/-- The bytes of the partial record, or a parity error and its address (R415, R416). -/
def State.partialBytes (s : State) (core poff hd : Nat) : Except Word (List Byte) :=
  let key := lmemKey core poff
  match (natsFrom key (64 + 4 * hd)).find? (fun a => s.badParity.contains a) with
  | some a => .error (BitVec.ofNat 64 (a - key + poff))
  | none => .ok (Memory.bytes s.mem key (64 + 4 * hd))

/-- Word i of a list of bytes, four to a word. -/
def word32 (bs : List Byte) (i : Nat) : BitVec 32 := BitVec.ofNat 32 (leNat ((bs.drop (4 * i)).take 4))

/-- The merge buffer acknowledges a partial: the subscription is freed and the APART completes (R416). -/
def State.partialDone (s : State) (r : CmdRef) (core : Nat) (n : SubName) : State :=
  let s := s.dropSub core n
  match s.sweep? r with
  | some q => s.sweepEnd r q 0 0
  | none => s

/-- A partial arrives at the merge buffer (R418, R419). -/
def State.partialArrives (s : State) (core : Nat) (n : SubName) : State :=
  match s.sub? core n with
  | none => s
  | some u =>
    match u.apart with
    | none => s
    | some seq =>
      let r : CmdRef := { core := core, seq := seq }
      let qs := n.page.qs
      let clu := qsClu qs
      let m := s.merge clu
      if u.st ≠ .delivered then s
      else if !s.pathOpen (s.epOfCore core) (s.epOfClu clu) then s.plan (.partialArrival core n.sweep n.page)
      else
        match s.qslot qs, tfind u.sweep s.sweeps with
        | some q, some x =>
          if q.st = .bound && q.sweep = u.sweep then
            match s.partialBytes core u.poff x.hd with
            | .error a =>
              let s := s.modSub core n (fun u => { u with apart := none })
              (match s.sweep? r with
               | some c => s.sweepFail r c cLOCAL_PARITY a
               | none => s)
            | .ok bs =>
              match landingOf m (qsSlot qs) x.det q n.page.idx with
              | none =>
                let s := s.modMerge clu (fun m => { m with nacks := m.nacks + 1 })
                let now := s.timeOf core
                let cycle := s.cycleOf core
                let park (u : Sub) : Sub :=
                  { u with st := .parked, nacked := true, since := if u.nacked then u.since else now, nackAt := cycle }
                (s.modSub core n park).plan (.partialResend core n.sweep n.page)
              | some res =>
                let e : MEntry := { slot := qsSlot qs, idx := n.page.idx, m := word32 bs 0, l := word32 bs 1,
                                    o := (natsFrom 16 x.hd).map (word32 bs), reserved := res }
                let s := s.modMerge clu (fun m => { m with entries := m.entries ++ [e] })
                let s := s.modQSlot qs (fun q => { q with count := q.count + 1 })
                (s.mergeHeld qs x.det 512).partialDone r core n
          else (s.modMerge clu (fun m => { m with dropped := m.dropped + 1 })).partialDone r core n
        | _, _ => (s.modMerge clu (fun m => { m with dropped := m.dropped + 1 })).partialDone r core n

/-- PARTIAL_ARRIVAL (R419). -/
def execPartialArrival (core sweep : Nat) (q : QIdx) (s : State) : Host.Outcome State Fault Refusal :=
  .next (s.partialArrives core { sweep := sweep, page := q })

/-- A parked partial is read again and sent after the gap (R416). -/
def State.partialAgain (s : State) (core : Nat) (n : SubName) : State :=
  match s.sub? core n with
  | some x =>
    if x.st = .parked && x.apart.isSome && s.feGapOver core x.nackAt then
      (s.modSub core n (fun x => { x with st := .delivered })).plan (.partialArrival core n.sweep n.page)
    else s
  | none => s

/-- PARTIAL_RESEND (R416). -/
def execPartialResend (core sweep : Nat) (q : QIdx) (s : State) : Host.Outcome State Fault Refusal :=
  .next (s.partialAgain core { sweep := sweep, page := q })

/-- APART (R416): the partial is sent, once no partial of the core is parked. -/
def execApart (r : CmdRef) (s : State) : Host.Outcome State Fault Refusal :=
  .next (s.sweepRun r (fun q s =>
    let w := q.hd.word
    if !q.entry then s
    else if (s.core r.core).subs.any (fun u => u.st = .parked) then s.planCmd r.core q.hd
    else
      let s := s.handOver r
      match s.sub? r.core (swName w) with
      | some u =>
        if u.st = .delivered && u.apart.isNone then
          (s.modSub r.core (swName w) (fun u => { u with apart := some r.seq, poff := swOff w })).plan
            (.partialArrival r.core (swNum w) (swName w).page)
        else s.sweepEnd r q 0 1
      | none => s.sweepEnd r q 0 1))

/-! Merge buffers (R417, R421). -/

/-- AMCFG (R417). -/
def execAmcfg (r : CmdRef) (s : State) : Host.Outcome State Fault Refusal :=
  .next (s.sweepRun r (fun q s =>
    let w := q.hd.word
    let n := cBits w 2 7 0
    let s := s.handOver r
    let s := s.releaseMerge (cluKey r.core)
    let s := if n = 0 then s.modMerge (cluKey r.core) (fun _ => Merge.none)
      else s.modMerge (cluKey r.core) (fun _ =>
        { Merge.none with off := cBits w 1 12 0, nslots := n, nentries := cBits w 2 24 16, hd := cBits w 3 8 0 })
    s.sweepEnd r q 0 0))

/-- o(k) ÷ l, exact, rounded once to the type by RNE (R421). -/
def quotient (t : ElemTy) (o l : BitVec 32) : Nat :=
  let out (v : FV) : Nat := roundF t .rne false 0 v
  match f32v o, f32v l with
  | .nan, _ => out .nan
  | _, .nan => out .nan
  | .inf a, .inf _ => out (if a then .nan else .nan)
  | .inf a, .fin b _ _ => out (.inf (a != b))
  | .fin a _ _, .inf b => out (.fin (a != b) 0 0)
  | .fin a m e, .fin b n f =>
    if n = 0 then out (if m = 0 then .nan else .inf (a != b))
    else out ((FV.fin (a != b) m e).quot n f)

/-- The bytes that AMREAD writes for a COMPLETE slot. -/
def QSlot.bytes (q : QSlot) (t : ElemTy) : List Byte :=
  leBytes 4 q.m.toNat ++ leBytes 4 q.l.toNat ++ leBytes 4 q.count ++ List.replicate 52 0 ++
    q.o.flatMap (fun o => leBytes (t.width / 8) (quotient t o q.l))

/-- An access of AMREAD stops (R421, R361). -/
def State.sweepStop (s : State) (r : CmdRef) (q : SweepCmd) (e : EngErr) : State :=
  match e.stop with
  | .again => s.planCmd r.core q.hd
  | .hold h => (s.modSweep r (fun q => { q with st := .held h })).faultMessage r.core 2 q.hd.ctx h
  | .park va =>
    let s := if q.st = .parked then s else (s.modSweep r (fun q => { q with st := .parked })).svcLog r.core cMIGRATE_WAIT va.toNat
    s.planCmd r.core q.hd
  | .fail c a => s.sweepFail r q c a

/-- AMREAD (R421, R418): it waits at the slot until it is COMPLETE or ERROR. -/
def State.amread (s : State) (r : CmdRef) (q : SweepCmd) : State :=
  let w := q.hd.word
  let qs := cBits w 1 23 0
  let s := s.handOver r
  match q.st with
  | .done status => if s.engHome r.core then s.sweepEnd r q status 0 else s.planCmd r.core q.hd
  | _ =>
    match s.qslot qs with
    | none => s.sweepEnd r q 0 1
    | some x =>
      if swLast w then (s.freeSlot qs).sweepEnd r q 0 0
      else
        match x.st with
        | .error cause => (s.freeSlot qs).sweepFail r q cause 0
        | .bound =>
          let now := s.timeOf r.core
          let s := if q.registered then s else s.modSweep r (fun q => { q with registered := true, since := now })
          s.planCmd r.core q.hd
        | .complete =>
          match s.engWrite r.core q.hd (cAddr w 2) (x.bytes (if cOp w 4 = 9 then .f32 else .bf16)) with
          | .ok s => ((s.freeSlot qs).modSweep r (fun q => { q with st := .done 0 })).planCmd r.core q.hd
          | .error e => s.sweepStop r q e

/-- AMREAD (R421). -/
def execAmread (r : CmdRef) (s : State) : Host.Outcome State Fault Refusal := .next (s.sweepRun r (fun q s => s.amread r q))

/-- Has MB_TIMEOUT passed since a time, as the chiplet of a cluster has it (R423)? -/
def State.mbExpired (s : State) (clu : Nat) (now since : Word) : Bool :=
  let us := (s.chip (clu / 132)).mbTimeout
  us ≠ 0 && passed now since (BitVec.ofNat 64 (us * 1000 * 65536))

/-- MB_TIMEOUT has passed for a parked partial, or for an AMREAD whose slot is still BOUND (R416, R421). -/
def State.mbTimeout (s : State) (amread : Bool) (r : CmdRef) : State :=
  match s.sweep? r with
  | none => s
  | some q =>
    let w := q.hd.word
    let now := s.timeOf r.core
    if amread then
      let bound := match s.qslot (cBits w 1 23 0) with
        | some x => x.st = .bound
        | none => false
      if cOpcode w = opAMREAD && q.registered && bound && s.mbExpired (qsClu (cBits w 1 23 0)) now q.since then
        s.sweepFail r q cMERGE_TIMEOUT 0
      else s
    else
      match s.sub? r.core (swName w) with
      | some u =>
        if cOpcode w = opAPART && u.apart = some r.seq && u.nacked && s.mbExpired (qsClu u.qs) now u.since then
          ((s.slotError u.qs u.sweep cMERGE_TIMEOUT).dropSub r.core u.name).sweepFail r q cMERGE_TIMEOUT 0
        else s
      | none => s

/-- MB_TIMEOUT_EXPIRY (R416, R421). -/
def execMbTimeoutExpiry (amread : Bool) (r : CmdRef) (s : State) : Host.Outcome State Fault Refusal := .next (s.mbTimeout amread r)

/-! Abandonment (R422). -/

/-- The subscriptions of a core that satisfy p are abandoned: their slots go to ERROR with DEAD_DESTINATION. -/
def State.abandonSubs (s : State) (core : Nat) (p : Sub → Bool) : State :=
  let gone := (s.core core).subs.filter p
  if gone.isEmpty then s
  else
    let s := s.modCore core (fun c => { c with subs := c.subs.filter (fun u => !p u) })
    gone.foldl (fun s u =>
      let s := s.slotError u.qs u.sweep cDEAD_DESTINATION
      s.plan (.sweepDelivery core u.sweep u.name.page)) s

/-- A recomputation under R26 puts every bound slot in ERROR and empties every subscriber list (R422): a page that was being sent is
SENT, and an ASUB whose subscription has not reached its list goes on to it. -/
def State.voidSweeps (s : State) : State :=
  let pages := s.clusters.flatMap (fun e => e.2.pages.map (fun p => (e.1, p.sweep, p.pa)))
  let fail (q : QSlot) : QSlot := if q.st = .bound then { q with st := .error cDEAD_DESTINATION } else q
  let void (c : Cluster) : Cluster := { c with
    pages := c.pages.map (fun (p : KvPage) => { p with subs := [] })
    waitingSubs := []
    deliveries := []
    merge := { c.merge with entries := [], slots := c.merge.slots.map (fun (x : Nat × QSlot) => (x.1, fail x.2)) } }
  let s : State := { s with
    fes := s.fes.filter (fun (r : FeReq) => r.op != feDELIVER)
    clusters := s.clusters.map (fun (e : Nat × Cluster) => (e.1, void e.2)) }
  (pages.foldl (fun s p => s.kvSettle p.1 p.2.1 p.2.2) s).plans (s.asubsAtPage (fun _ => true))

end Sys2Proof.Machine
end

