-- ==== Sys2Proof/Machine/Group.lean ====
section
/-! DEFINITION. Kernels and groups, what their other modules share (R302-R313, R320-R330): the fields of a launch record and a
descriptor, the grid, contexts and residency slots of a group, and how a group, a strand or a kernel ends. -/

namespace Sys2Proof.Machine

/-! The launch record (R304). -/

def lrPrio (r : Rec) : Nat := rBits r 1 2 0
def lrSuper (r : Rec) : Bool := rBits r 1 3 3 = 1
def lrRoute (r : Rec) : Bool := rBits r 1 4 4 = 1
def lrFree (r : Rec) : Bool := rBits r 1 5 5 = 1
def lrTok (r : Rec) : Bool := rBits r 1 6 6 = 1
def lrEdges (r : Rec) : Nat := rBits r 2 2 0
def lrTchan (r : Rec) : Nat := rBits r 2 7 3
/-- Groups resident per core. -/
def lrResid (r : Rec) : Nat := rBits r 3 0 0 + 1
def lrDesc (r : Rec) : Nat := rBytes r 8 8
def lrRank0 (r : Rec) : Nat := rBytes r 16 4
def lrNcores (r : Rec) : Nat := rBytes r 20 4
def lrBlock (r : Rec) : Nat := rBytes r 24 2
def lrTrank (r : Rec) : Nat := rBytes r 28 4
def lrSave (r : Rec) : Nat := rBytes r 32 8
def lrEdge (r : Rec) (i : Nat) : Nat := rBytes r (40 + 4 * i) 4
def lrArg (r : Rec) : Word := BitVec.ofNat 64 (rBytes r 56 8)

/-! The descriptor (R303). -/

def kdEntry (d : Rec) : Word := BitVec.ofNat 64 (rBytes d 0 8)
def kdGx (d : Rec) : Nat := rBytes d 8 2
def kdGy (d : Rec) : Nat := rBytes d 10 2
def kdGz (d : Rec) : Nat := rBytes d 12 2
/-- The slice of a group in bytes. -/
def kdLocal (d : Rec) : Nat := 8 * (rBytes d 14 2 % 2 ^ 14)
def kdStrands (d : Rec) : Nat := rBits d 16 1 0 + 1
def kdVclaim (d : Rec) : Bool := rBits d 16 2 2 = 1
def kdNdeps (d : Rec) : Nat := rBits d 16 5 3
def kdPower (d : Rec) : Nat := rBits d 17 2 0
def kdPclass (d : Rec) : Nat := rBits d 17 4 3
def kdPolicy (d : Rec) : Nat := rBits d 17 6 5
def kdIdem (d : Rec) : Bool := rBits d 17 7 7 = 1

/-- Component i (0 dx, 1 dy, 2 dz) of dependence vector v. -/
def kdDep (d : Rec) (v i : Nat) : Int := (BitVec.ofNat 5 (rBytes d 24 8 / 2 ^ (15 * v + 5 * i))).toInt

/-! The grid (R305, R308). -/

def Kernel.count (k : Kernel) : Nat := kdGx k.desc * kdGy k.desc * kdGz k.desc
def gX (d : Rec) (g : Nat) : Nat := g % kdGx d
def gY (d : Rec) (g : Nat) : Nat := g / kdGx d % kdGy d
def gZ (d : Rec) (g : Nat) : Nat := g / kdGx d / kdGy d

/-- gcoord of a group (R321). -/
def gCoord (d : Rec) (g : Nat) : Word := BitVec.ofNat 64 (gX d g + gY d g * 2 ^ 16 + gZ d g * 2 ^ 32)

/-- The group that lies sign times vector v from group g, when it is inside the grid. -/
def gOffset (d : Rec) (sign : Int) (g v : Nat) : Option Nat :=
  let x := (gX d g : Int) + sign * kdDep d v 0
  let y := (gY d g : Int) + sign * kdDep d v 1
  let z := (gZ d g : Int) + sign * kdDep d v 2
  if 0 ≤ x && x < kdGx d && 0 ≤ y && y < kdGy d && 0 ≤ z && z < kdGz d then
    some (x.toNat + kdGx d * (y.toNat + kdGy d * z.toNat))
  else none

/-- The distinct predecessors of a group inside the grid, and its distinct successors (R308, R328). -/
def gPreds (d : Rec) (g : Nat) : List Nat := sortNats ((natsFrom 0 (kdNdeps d)).filterMap (gOffset d 1 g))
def gSuccs (d : Rec) (g : Nat) : List Nat := sortNats ((natsFrom 0 (kdNdeps d)).filterMap (gOffset d (-1) g))

/-- home(g) as a rank, and its chiplet (R305). -/
def Kernel.home (k : Kernel) (g : Nat) : Nat := k.rank0 + g / lrBlock k.rcd % k.ncores
def Kernel.homeChip (k : Kernel) (g : Nat) : Nat := k.home g / 2112

/-- The chiplets of the placement set. -/
def Kernel.chips (k : Kernel) : List Nat :=
  natsFrom (k.rank0 / 2112) ((k.rank0 + k.ncores - 1) / 2112 + 1 - k.rank0 / 2112)

/-- The kernel's scope (R328): .chp when the placement set is one chiplet, otherwise .mod. -/
def Kernel.scope (k : Kernel) : Scope := if k.chips.length ≤ 1 then .chp else .mod

/-- The save area's numbers (R306): the scoreboard image, one slot, and slot offsets. -/
def Kernel.sbBytes (k : Kernel) : Nat := (k.count + 511) / 512 * 64
def Kernel.slotBytes (k : Kernel) : Nat :=
  (64 + 512 * kdStrands k.desc + (if kdVclaim k.desc then 1920 else 0) + 16768 + 1088 + kdLocal k.desc + 63) / 64 * 64
def Kernel.slotPa (k : Kernel) (j : Nat) : Nat := lrSave k.rcd + 256 + k.sbBytes + j * k.slotBytes

/-! Tables of kernels. -/

def State.kernel? (s : State) (kid : Nat) : Option Kernel := tfind kid s.kernels
def State.setKernel (s : State) (kid : Nat) (k : Kernel) : State := { s with kernels := tset kid k s.kernels }
def State.modKernel (s : State) (kid : Nat) (f : Kernel → Kernel) : State :=
  match s.kernel? kid with
  | some k => s.setKernel kid (f k)
  | none => s

/-- A group that is not listed: WAITING with nothing counted. -/
def Group.none : Group :=
  { st := .waiting, counter := 0, replays := 0, k := 0, core := 0, slot := 0, stamp := 0, passed := 0, draw := 0, saveSlot := 0,
    again := false, gated := false }

def Kernel.group (k : Kernel) (g : Nat) : Group := tget Group.none g k.groups
def Kernel.modGroup (k : Kernel) (g : Nat) (f : Group → Group) : Kernel := { k with groups := tset g (f (k.group g)) k.groups }
def State.modGroup (s : State) (kid g : Nat) (f : Group → Group) : State := s.modKernel kid (fun k => k.modGroup g f)

/-- Has the group contexts (RUNNING or PARKED)? -/
def Group.bound (g : Group) : Bool := g.st = .running || g.st = .parked

/-- The queue and the edge chiplet of a kernel (R302, R296). -/
def queueOf (kid : Nat) : Nat := kid / 2 ^ 22
def unitOfQueue (q : Nat) : Nat := q / 32
def edgeDie (q : Nat) : Nat := 576 + unitOfQueue q

/-- Kernels that wait for a grant are looked at again. -/
def State.pokeGrants (s : State) : State :=
  s.kernels.foldl (fun s e => if e.2.st = .ready && !s.pending.contains (.kernelGrant e.1) then s.plan (.kernelGrant e.1) else s) s

/-- A launch unit's queues whose head may be a launch record are looked at again. -/
def State.pokeQueues (s : State) (u : Nat) : State :=
  s.queues.foldl (fun s e => if unitOfQueue e.1 = u && !s.pending.contains (.launchRecordTake e.1) then
    s.plan (.launchRecordTake e.1) else s) s

/-! Contexts of a group. -/

/-- The contexts of core k bound for the slot, in strand order. -/
def State.strandsOf (s : State) (k slot : Nat) : List Nat :=
  (natsFrom 0 6).filter (fun n =>
    let c := s.ctx k n
    c.slot = slot && c.prior = .strand && (c.st = .strand || c.st = .trapped || c.st = .saved))

/-- The kernel and group of a residency slot of core k. -/
def State.groupAt (s : State) (k slot : Nat) : Option (Nat × Nat) :=
  match tfind slot (s.core k).slots with
  | some r => r.g.map (fun g => (r.kid, g))
  | none => none

/-! Stopping (R263). -/

/-- Messages that context n of core k has sent and that have not left the window. -/
def State.messagesOf (s : State) (k n : Nat) : Bool :=
  let c := s.core k
  c.window.any (fun m => m.ctx = n && m.gen = (c.ctx n).gen && (match m.frm with
    | .ctx => true
    | _ => false))

/-- A running context is stopped at an instruction boundary: a blocked instruction is withdrawn, the pc stands at the next
one (R263, R268) (DEDUCED, log entry 27). -/
def State.stopCtx (s : State) (k n field : Nat) : State :=
  let s := s.withdraw k n
  let c := s.ctx k n
  s.setCtx k n { c with st := .saved, prior := c.st, epc := c.pc, stop := field, wasTrapped := false, stmask := 0, lrRes := none,
                        hold := [], wait := .stop }

def Ctx.running (c : Ctx) : Bool := c.st = .strand || c.st = .firing

/-- Try to stop a running context. -/
def State.tryStop (s : State) (k n field : Nat) : State :=
  let c := s.ctx k n
  if c.running && !c.wait.inProgress then s.stopCtx k n field else s

/-- Has a context that is not FREE no instruction in progress and no message under way? -/
def State.stopped (s : State) (k n : Nat) : Bool :=
  let c := s.ctx k n
  !c.running && (c.wait ≠ .stop || !s.messagesOf k n)

/-! The end of a strand or group on its core. -/

/-- The commands of a context are discarded (R213, R350). -/
def State.dropCommands (s : State) (k n : Nat) : State :=
  let s := s.modCore k (fun c => { c with copyQ := c.copyQ.filter (fun q => q.hd.ctx != n) })
  (((s.core k).collQ.filter (fun q => q.hd.ctx = n)).foldl (fun s q => s.collDiscard k q) s).wakeUnits k

/-- The context number that a store in flight bears once its strand has ended. -/
def endedCtx : Nat := 9

/-- The stores in flight of a strand that ends go on as those of its group (R327, R328). -/
def State.leaveStores (s : State) (k n : Nat) : State :=
  let mine (r : Req) : Bool := r.core = k && r.ctx = n && (match r.kind with
    | .store _ _ => true
    | _ => false)
  if s.reqs.any mine then
    let g := s.groupAt k (s.ctx k n).slot
    { s with reqs := s.reqs.map (fun (r : Req) => if mine r then { r with ctx := endedCtx, group := g } else r) }
  else s

/-- Has a strand of group g of a kernel that has ended stores in flight? -/
def State.groupOwes (s : State) (kid g : Nat) : Bool := s.reqs.any (fun r => r.group = some (kid, g))

/-- A strand context becomes FREE; what its releases cover stays visible to acquires of the core (R232). -/
def State.freeCtx (s : State) (k n : Nat) : State :=
  let s := (((s.withdraw k n).withdrawNotice k n).disarm k n).leaveStores k n
  let c := s.ctx k n
  s.setCtx k n { Ctx.empty with gen := c.gen + 1, tseq := c.tseq, out := c.out }

/-- A strand is ended as CKILL ends it (R271, R345). -/
def State.killStrand (s : State) (k n : Nat) : State := ((s.breakMutexes k n).dropCommands k n).freeCtx k n

/-- The matrix state of a slot is discarded at once. -/
def State.freeMatrix (s : State) (k slot : Nat) : State :=
  if (s.core k).mat.holder = some slot then (s.modCore k (fun c => { c with mat := Matrix.free })).wakeUnits k else s

/-- The matrix state of a slot waits for its queued commands (R162). -/
def State.endMatrix (s : State) (k slot : Nat) : State :=
  if (s.core k).mat.holder = some slot then
    (s.modCore k (fun c => { c with mat := { c.mat with holder := some endedHolder } })).settleMatrix k
  else s

/-- A core that holds no group: q0-q26 are emptied and user-level handler entries unbound (R276). -/
def State.quietCore (s : State) (k : Nat) : State :=
  if (s.core k).slots.any (fun e => e.2.g.isSome) then s
  else
    let s := s.modCore k (fun c =>
      { c with handlers := c.handlers.filter (fun e => e.2.super),
               chans := c.chans.map (fun (e : Nat × Chan) => (e.1, if e.1 ≤ 26 then { e.2 with words := [] } else e.2)) })
    (natsFrom 0 27).foldl (fun s n => if (s.chan k n).reqs.isEmpty then s else s.plan (.creditGrant k n)) s

/-- The residency slot of core k holds its group no longer: subscriptions, window, visibility, and a window reserved again
for the kernel's next group (R422, R130, R357, R310). -/
def State.freeResidency (s : State) (k slot : Nat) : State :=
  let s := s.abandonSubs k (fun u => u.slot = slot)
  let s := ((s.dropWindow k slot).clearVis k slot).modCore k (fun c => { c with gives := tdel slot c.gives })
  match tfind slot (s.core k).slots with
  | none => s
  | some r =>
    let s := s.modCore k (fun c =>
      let c := { c with slots := tset slot { r with g := none } c.slots }
      match s.kernel? r.kid, c.freeWindow with
      | some x, some w => if kdVclaim x.desc then c.modWin w (fun y => { y with resv := some slot }) else c
      | _, _ => c)
    (s.quietCore k).pokeDispatcher (chipOf k)

/-! Power (R324, R325, R428). -/

/-- The draw factor k of an operating point, in hundredths (R426). -/
def opFactor (op : Nat) : Nat :=
  match op with
  | 0 => 160 | 1 => 100 | 2 => 39 | 3 => 6 | _ => 0

/-- The draw that a running group of a power class claims on a chiplet, in mW (R428). -/
def State.groupDraw (s : State) (chip cls : Nat) : Nat :=
  let d := s.die chip
  let k := match d.change with
    | some op => max (opFactor op) (opFactor d.op)
    | none => opFactor d.op
  (2500 * (cls + 1) * k + 99999) / 100000

def State.addProj (s : State) (chip d : Nat) : State := s.modChip chip (fun c => { c with proj := c.proj + d })
def State.subProj (s : State) (chip d : Nat) : State :=
  if d = 0 then s else s.modChip chip (fun c => { c with proj := c.proj - d })

/-- A group gives up its draw. -/
def State.dropDraw (s : State) (kid g : Nat) : State :=
  match s.kernel? kid with
  | none => s
  | some k => (s.subProj (k.homeChip g) (k.group g).draw).modGroup kid g (fun x => { x with draw := 0 })

/-! The end of a kernel (R301, R302, R309, R312). -/

/-- Everything a kernel has reserved on its cores is given back. -/
def State.giveBack (s : State) (kid : Nat) : State :=
  match s.kernel? kid with
  | none => s
  | some x =>
    let s := x.cores.foldl (fun s c =>
      (s.dropWindow c.1 c.2.2).modCore c.1 (fun o => { o with slots := tdel c.2.2 o.slots })) s
    let s := s.setKernel kid { x with cores := [] }
    s.pokeGrants

/-- Scoreboard entries that a kernel with dependences reserves on a chiplet (R322). -/
def Kernel.entriesOn (k : Kernel) (chip : Nat) : Nat :=
  if kdNdeps k.desc = 0 then 0 else ((natsFrom 0 k.count).filter (fun g => k.homeChip g = chip)).length

def State.returnEntries (s : State) (x : Kernel) : State :=
  if kdNdeps x.desc = 0 || x.groups.isEmpty then s
  else x.chips.foldl (fun s c => s.modChip c (fun o => { o with sbFree := o.sbFree + x.entriesOn c })) s

/-- The completion token (R301). -/
def tokenWord (kid : Nat) (st : KState) (cause : Nat) : Word :=
  let code := match st with
    | .faulted => 1
    | .cancelled => 2
    | _ => 0
  BitVec.ofNat 64 (kid % 2 ^ 32 * 2 ^ 32 + code * 2 ^ 30 + if st = .faulted then cause else 0)

def State.sendToken (s : State) (kid : Nat) (x : Kernel) (st : KState) : State :=
  if !lrTok x.rcd then s
  else match coreOfIdent s.grade (lrTrank x.rcd) with
    | some dst => s.sendHw (mgmtKey (edgeDie (queueOf kid))) 8 dst (lrTchan x.rcd) [tokenWord kid st x.cause] .hardware
    | none => s

/-- A kernel leaves the table; its end record stays until 4,096 later launch records of its queue have been taken (R302). -/
def State.retireKernel (s : State) (kid : Nat) (x : Kernel) (st : KState) : State :=
  { s with kernels := tdel kid s.kernels, ended := tset kid { x with st := st, groups := [], cores := [] } s.ended }

/-- Kernels that an ended kernel leaves without hope, and those whose last edge it satisfies. -/
def State.edgesOf (s : State) (kid : Nat) (done : Bool) : State × List Nat :=
  if done then
    ({ s with kernels := s.kernels.map (fun (e : Nat × Kernel) =>
        if e.2.edgesLeft.contains kid then
          let left := e.2.edgesLeft.filter (· != kid)
          (e.1, { e.2 with edgesLeft := left,
                           st := if left.isEmpty && e.2.st = .blocked then .ready else e.2.st,
                           since := if left.isEmpty && e.2.st = .blocked then s.timeOf (mgmtKey (edgeDie (queueOf e.1))) else e.2.since })
        else e) }, [])
  else (s, (s.kernels.filter (fun e => e.2.edgesLeft.contains kid && (e.2.st = .blocked || e.2.st = .preempted))).map (·.1))

/-- A kernel ends (R312); the kernels that it cancels end after it. -/
def State.endKernels (s : State) : Nat → List (Nat × KState) → State
  | 0, _ => s
  | _, [] => s
  | fuel + 1, (kid, st) :: r =>
    match s.kernel? kid with
    | none => s.endKernels fuel r
    | some x =>
      let s := (s.giveBack kid).returnEntries x
      let s := (s.retireKernel kid x st).sendToken kid x st
      let p := s.edgesOf kid (st = .completed)
      ((p.1.pokeGrants).pokeQueues (unitOfQueue (queueOf kid))).endKernels fuel (p.2.map (fun k => (k, .cancelled)) ++ r)

def State.endKernel (s : State) (kid : Nat) (st : KState) : State := s.endKernels (s.kernels.length + 1) [(kid, st)]

/-! Aborting (R312). -/

/-- The groups of a kernel that hold contexts. -/
def Kernel.boundGroups (k : Kernel) : List (Nat × Group) := k.groups.filter (fun e => e.2.bound)

/-- Groups released but not bound go back; draws are given up. -/
def State.unrelease (s : State) (kid : Nat) : State :=
  match s.kernel? kid with
  | none => s
  | some x =>
    (x.groups.filter (fun e => e.2.st = .released)).foldl (fun s e =>
      (s.dropDraw kid e.1).modGroup kid e.1 (fun g => { g with st := .ready })) s

/-- The kernel is to end: no new release, and every strand is to be killed by its dispatcher (R312). -/
def State.abortKernel (s : State) (kid cause : Nat) (cancel : Bool) : State :=
  match s.kernel? kid with
  | none => s
  | some x =>
    let s := s.setKernel kid { x with st := .aborting, cause := if x.cause = 0 then cause else x.cause, cancel := x.cancel || cancel }
    let s := s.unrelease kid
    x.chips.foldl (fun s c => s.plan (.groupRelease c)) s

/-- A group's contexts are gone: its slot is free. -/
def State.unbindGroup (s : State) (kid g : Nat) (st : GState) : State :=
  match s.kernel? kid with
  | none => s
  | some x =>
    let e := x.group g
    (s.freeResidency e.core e.slot).modGroup kid g (fun e => { e with st := st })

/-- Kill the strands of a group that can be stopped now (R263, R271). -/
def State.stopGroup (s : State) (e : Group) (ends : State → Nat → State) : State :=
  (s.strandsOf e.core e.slot).foldl (fun s n =>
    let s := s.tryStop e.core n 0
    if s.stopped e.core n then ends (s.killStrand e.core n) n else s) s

/-- Kill the strands of a group of a kernel that ends, with stop field KERNEL_ABORTED (R257, R258, R312); the group has ended when none
is left. -/
def State.killGroup (s : State) (kid g : Nat) (e : Group) : State :=
  let s := s.stopGroup e (fun s n =>
    (s.modCtx e.core n (fun c => { c with stop := cKERNEL_ABORTED })).svcLog e.core cKERNEL_ABORTED n)
  if (s.strandsOf e.core e.slot).isEmpty then
    ((s.endMatrix e.core e.slot).dropDraw kid g).unbindGroup kid g .waiting
  else s

/-- The dispatcher's part in an abort: strands of the kernel on its chiplet are killed, and the kernel ends when no context is
left (R312). -/
def State.abortStep (s : State) (kid chip : Nat) : State :=
  match s.kernel? kid with
  | none => s
  | some x =>
    if x.st ≠ .aborting then s
    else
      let s := (x.boundGroups.filter (fun e => chipOf e.2.core = chip)).foldl (fun s e => s.killGroup kid e.1 e.2) s
      match s.kernel? kid with
      | none => s
      | some y =>
        if y.boundGroups.isEmpty then s.endKernel kid (if y.cancel then .cancelled else .faulted)
        else if y.boundGroups.any (fun e => chipOf e.2.core = chip) then s.plan (.groupRelease chip) else s

/-! The error policy (R313, R323, R330). -/

/-- The slice of a kernel slot: local offset and length (R305). -/
def Kernel.slice (k : Kernel) (slot : Nat) : Nat × Nat := (k.base + slot * kdLocal k.desc, kdLocal k.desc)

/-- A group whose strands have ended is released again (R330). -/
def State.releaseAgain (s : State) (kid g : Nat) (x : Kernel) (e : Group) : State :=
  let s := (s.freeMatrix e.core e.slot).unbindGroup kid g (if x.st = .running then .released else .ready)
  let s := s.modGroup kid g (fun y => { y with replays := y.replays + 1, again := false })
  let s := if x.st = .running then s else s.dropDraw kid g
  s.pokeDispatcher (x.homeChip g)

/-- A replay goes on: strands are stopped at instruction boundaries, and when none is left the group is released (R263, R330). -/
def State.replayStep (s : State) (kid g : Nat) : State :=
  match s.kernel? kid with
  | none => s
  | some x =>
    let e := x.group g
    let s := s.stopGroup e (fun s _ => s)
    if (s.strandsOf e.core e.slot).isEmpty then s.releaseAgain kid g x e else s.pokeDispatcher (chipOf e.core)

/-- A group that its core has lost is replayed at once. -/
def State.replayLost (s : State) (kid g : Nat) (x : Kernel) (e : Group) : State :=
  ((s.strandsOf e.core e.slot).foldl (fun s n => s.killStrand e.core n) s).releaseAgain kid g x e

/-- A group of a kernel fails: by a trap that nothing resolved, by the CKILL of its last strand or of one that carries a
cause, or with its core (DESIGN CHOICE, log entry 23). -/
def State.groupFailed (s : State) (kid g cause : Nat) (killed lost : Bool) : State :=
  match s.kernel? kid with
  | none => s
  | some x =>
    let e := x.group g
    let live := x.st = .running || x.st = .draining || x.st = .saving
    if !live || !e.bound then s
    else if kdPolicy x.desc = 1 && e.replays < 3 then
      (if x.st = .saving && !lost && !killed then s
       else if lost then s.replayLost kid g x e
       else (s.modGroup kid g (fun y => { y with again := true })).replayStep kid g)
    else if kdPolicy x.desc = 2 && !killed && !lost then s.modGroup kid g (fun y => { y with st := .parked })
    else s.abortKernel kid cause false

/-- The trap of a strand of a group that the policy has still to answer, as its cause (R313): one of kind W counts once the fault path
has passed it on. A CRESUME that comes first does not undo it (R323). -/
def State.groupTrap (s : State) (e : Group) : Option Nat :=
  ((s.strandsOf e.core e.slot).find? (fun n => (s.ctx e.core n).policyDue)).map (fun n => (s.ctx e.core n).cause)

/-- The policy has answered the traps of a group. -/
def State.policyDone (s : State) (e : Group) : State :=
  (s.strandsOf e.core e.slot).foldl (fun s n => s.modCtx e.core n (fun c => { c with policyDue := false })) s

/-- Is a strand of the group TRAPPED, its trap not with the fault path? -/
def State.groupHalted (s : State) (e : Group) : Bool :=
  (s.strandsOf e.core e.slot).any (fun n =>
    let c := s.ctx e.core n
    c.st = .trapped && !c.onFaultPath)

/-- The error policy for a bound group: a replay under way, a core that has stopped, an unresolved trap, strands resumed (R313, R323). -/
def State.policyGroup (s : State) (kid g : Nat) : State :=
  match s.kernel? kid with
  | none => s
  | some x =>
    let e := x.group g
    let core := s.core e.core
    if !e.bound then s
    else if e.again then s.replayStep kid g
    else if core.stopped then s.groupFailed kid g core.stopCause false true
    else
      let s := match s.groupTrap e with
        | some c =>
          let waits := x.st = KState.saving && kdPolicy x.desc = 1 && decide (e.replays < 3)
          if waits then s else (s.policyDone e).groupFailed kid g c false false
        | none => s
      match s.kernel? kid with
      | some y =>
        if (y.group g).st = GState.parked && !s.groupHalted e then s.modGroup kid g (fun y => { y with st := .running }) else s
      | none => s

/-- The error policy for the groups of a chiplet. -/
def State.policyStep (s : State) (chip : Nat) : State :=
  s.kernels.foldl (fun s kx =>
    (kx.2.groups.filter (fun e => e.2.bound && decide (chipOf e.2.core = chip))).foldl (fun s e => s.policyGroup kx.1 e.1) s) s

/-! Draining (R314). -/

/-- Physical bytes, read below translation; none where an error meets them. -/
def State.physRead (s : State) (pa len : Nat) : Option (List Byte) :=
  let ls := (natsFrom pa len).map (fun a => s.locOfKey a 0)
  if ls.any (fun l => l.kind ≠ .dram || (s.dataError l).isSome) then none else some (ls.map s.byteAt)

/-- Physical bytes written below translation for an edge chiplet or dispatcher. -/
def State.physWrite (s : State) (k pa : Nat) (bs : List Byte) : Option State :=
  let ls := (natsFrom pa bs.length).map (fun a => s.locOfKey a 0)
  if ls.any (fun l => l.kind ≠ .dram) then none else some (s.perform k 8 (ls.zip bs))

/-- The bytes of the scoreboard image (R306). -/
def Kernel.scoreboard (k : Kernel) : List Byte :=
  (natsFrom 0 k.sbBytes).map (fun i => BitVec.ofNat 8 ((natsFrom 0 8).foldl (fun a b =>
    a + if k.retired.contains (8 * i + b) then 2 ^ b else 0) 0))

/-- The header of the save area (R306). -/
def Kernel.header (k : Kernel) (kid : Nat) (valid drained : Bool) : List Byte :=
  leBytes 4 kid ++ leBytes 4 1 ++ leBytes 4 k.rank0 ++ leBytes 4 k.ncores ++ leBytes 4 k.ncores0 ++ leBytes 4 k.slotBytes ++
    leBytes 8 k.retired.length ++ leBytes 4 k.slots.length ++ leBytes 220 ((if valid then 1 else 0) + if drained then 2 else 0)

/-- Write the header and the scoreboard image. -/
def State.writeBoard (s : State) (kid : Nat) (k : Kernel) (drained : Bool) : Option State :=
  s.physWrite (mgmtKey (edgeDie (queueOf kid))) (lrSave k.rcd) (k.header kid true drained ++ k.scoreboard)

/-- A kernel whose save area meets a fault ends (R306, R312). -/
def State.saveFault (s : State) (kid : Nat) : State :=
  (s.modKernel kid (fun x => { x with cause := if x.cause = 0 then cCONTEXT_SAVE_FAULT else x.cause })).endKernel kid .faulted

/-- A DRAINING kernel none of whose groups runs, and some of whose groups have not retired, becomes PREEMPTED (R312, R314); with a save
area once every token and report sent has been applied. Groups that still wait in slots keep them, and L with them (R305). -/
def State.settleDrain (s : State) (kid : Nat) : State :=
  match s.kernel? kid with
  | none => s
  | some x =>
    if x.st ≠ .draining || !x.boundGroups.isEmpty || x.retired.length = x.count then s
    else if lrSave x.rcd = 0 then
      (s.giveBack kid).modKernel kid (fun k => { k with st := .preempted, drained := true, saved := false })
    else if !(x.tokens.isEmpty && x.reports.isEmpty) then s
    else
      let kept := x.slots.filter (fun p => x.groups.any (fun e => e.2.st = .saved && e.2.saveSlot = p.j))
      let y := { x with slots := kept, hasBase := x.hasBase && !kept.isEmpty }
      match s.writeBoard kid y true with
      | none => s.saveFault kid
      | some s => (((s.giveBack kid).returnEntries x).modKernel kid (fun k =>
          { k with slots := y.slots, hasBase := y.hasBase, st := .preempted, drained := true, saved := true, groups := [] }))

/-! Tokens between dies (R328, R385, R389). -/

/-- A token of the dispatcher or launch unit of one die goes to that of another, as a request of the dies' stream (R385). -/
def State.sendTokenTo (s : State) (src dst : Nat) (i : Instr) : State :=
  if src = dst then s.plan i
  else s.sendReq (Req.fresh s.clock (if src < 512 then svcOfClu (src * 132) else mgmtKey src) 8 0 src dst 0 (.token i))

/-- The management core of the west edge chiplet in the row of a die (R254, R389). -/
def State.westMgmt (s : State) (die : Nat) : Nat :=
  if die < 512 then s.trust.mgmtOfChip die else if die < 608 then mgmtKey (576 + die % 16) else mgmtKey die

/-- A token whose stream gives up is reported to that management core, and its kernel ends in FAULTED (R389). -/
def State.tokenLost (s : State) (src : Nat) (i : Instr) : State :=
  let s := s.svcLog (s.westMgmt src) cTRANSPORT_TIMEOUT 0
  match i with
  | .retirementToken kid _ _ => s.abortKernel kid cTRANSPORT_TIMEOUT false
  | .groupRetirementReport kid _ => s.abortKernel kid cTRANSPORT_TIMEOUT false
  | _ => s

end Sys2Proof.Machine
end

