-- ==== Sys2Proof/Machine/Image.lean ====
section
/-! DEFINITION. Images: a context (R264, R265), a vector window (R131), the matrix state (R187) and the copy commands of a
group (R214), written and read back. -/

namespace Sys2Proof.Machine

/-- Doublewords as little-endian bytes. -/
def wordBytes (ws : List Word) : List Byte := ws.flatMap (fun w => leBytes 8 w.toNat)

/-- Doubleword i of an image. -/
def imgWord (bs : List Byte) (i : Nat) : Word := BitVec.ofNat 64 (leNat ((bs.drop (8 * i)).take 8))

/-- n bytes of an image from byte i, as a number. -/
def imgNat (bs : List Byte) (i n : Nat) : Nat := leNat ((bs.drop i).take n)

/-! The context image. -/

/-- Was the context TRAPPED when it was saved, or is it (R265)? -/
def Ctx.trappedBit (c : Ctx) : Bool := c.st = .trapped || (c.st = .saved && c.wasTrapped)

def bitN (b : Bool) (i : Nat) : Nat := if b then 2 ^ i else 0

/-- gkernel of a strand (R321). -/
def Ctx.gkernel (c : Ctx) : Word :=
  BitVec.ofNat 64 (2 ^ 63 + bitN c.restored 35 + c.replays % 4 * 2 ^ 33 + c.slot % 2 * 2 ^ 32 + c.kid % 2 ^ 32)

/-- The state word of context n (R265); contexts 6 and 7 are handlers. -/
def Ctx.stateWord (c : Ctx) (n : Nat) : Word :=
  BitVec.ofNat 64 (bitN c.xportErr.isSome 31 + bitN c.copyErr.isSome 30 + c.tseq % 256 * 2 ^ 22 + bitN c.event 21 +
    bitN c.armed 20 + bitN c.wake 19 + (if 6 ≤ n then c.chan % 32 * 2 ^ 14 else 0) + c.hprio % 4 * 2 ^ 12 +
    c.gstrand % 4 * 2 ^ 10 + bitN (decide (6 ≤ n)) 8 + bitN c.super 7 + bitN c.trappedBit 6 + c.stop % 64)

/-- The format word (R264). -/
def imageFormat : Word := 0x0200E1C0

/-- The 64 doublewords of the image of context n with a resume address (R264). -/
def Ctx.image (c : Ctx) (n : Nat) (epc : Word) : List Word :=
  let pend (e : Option PendErr) : Word × Word × Word := match e with
    | some e => (BitVec.ofNat 64 e.cause, e.eaddr, e.einfo)
    | none => (0, 0, 0)
  let cp := pend c.copyErr
  let xp := pend c.xportErr
  [epc] ++ (natsFrom 1 31).map (fun i => tget 0 i c.x) ++ (natsFrom 0 8).map (fun i => tget 0 i c.m) ++
    [c.vtype, c.rndseed.setWidth 64, c.ecause, c.eaddr, c.einfo, c.stateWord n, if c.armed then c.monLine else 0,
     cp.1, cp.2.1, cp.2.2, BitVec.ofNat 64 (xp.1.toNat + bits xp.2.2 15 0 * 2 ^ 16), xp.2.1] ++
    (if 6 ≤ n then (natsFrom 0 4).map (fun i => c.words.getD i 0) else [c.gcoord, c.gkernel, 0, 0]) ++
    List.replicate 7 0 ++ [imageFormat]

/-- The state of context n replaced by an image (R264, R269): tseq and whether it was TRAPPED are kept, and the residency
slot is that of the binding (DEDUCED, log entry 56). -/
def Ctx.ofImage (c : Ctx) (n : Nat) (bs : List Byte) : Ctx :=
  let w := imgWord bs
  let st := w 45
  let armed := st.getLsbD 20
  { c with
    pc := w 0 &&& ~~~3, epc := w 0 &&& ~~~3, cause := bits (w 42) 5 0,
    x := (natsFrom 1 31).foldl (fun t i => tset i (w i) t) [],
    m := (natsFrom 0 8).foldl (fun t i => tset i (w (32 + i)) t) [],
    vtype := w 40, rndseed := (w 41).setWidth 32, ecause := w 42 &&& 63, eaddr := w 43, einfo := w 44,
    event := st.getLsbD 21 || armed, armed := armed, wake := st.getLsbD 19,
    chan := if 6 ≤ n then bits st 18 14 else c.chan, hprio := bits st 13 12, gstrand := bits st 11 10,
    super := st.getLsbD 7, stop := bits st 5 0, monLine := w 46,
    copyErr := if st.getLsbD 30 then some { cause := bits (w 47) 5 0, eaddr := w 48, einfo := w 49, stamp := 0 } else none,
    xportErr := if st.getLsbD 31 then
        some { cause := bits (w 50) 5 0, eaddr := w 51, einfo := BitVec.ofNat 64 (bits (w 50) 31 16), stamp := 0 } else none,
    gcoord := if 6 ≤ n then c.gcoord else w 52,
    kid := if 6 ≤ n then c.kid else bits (w 53) 31 0,
    replays := if 6 ≤ n then c.replays else bits (w 53) 34 33,
    restored := if 6 ≤ n then c.restored else (w 53).getLsbD 35,
    words := if 6 ≤ n then (natsFrom 52 4).map w else c.words,
    hold := [], lrRes := none, stmask := 0 }

/-! The window image: v0-v29 (R131). -/

def Win.image (w : Win) : List Byte := (natsFrom 0 30).flatMap (fun i => leBytes 64 (tget 0 i w.regs).toNat)

def winRegs (bs : List Byte) : Tbl VWord :=
  (natsFrom 0 30).foldl (fun t i => tset i (BitVec.ofNat 512 (imgNat bs (64 * i) 64)) t) []

/-! The matrix image (R187). -/

/-- Sixteen bytes of a ring of core k. -/
def Ring.image (r : Ring) (k : Nat) : List Byte :=
  leBytes 8 (if r.carved || !r.configured then r.base else lmemKey k r.base) ++ leBytes 4 (r.report % 2 ^ 29 + bitN r.side 30) ++
    leBytes 4 (bitN r.configured 0 + bitN r.carved 1 + bitN r.revoked 2)

/-- A ring read back on core k; one in carved L2 stays only in the cluster where it was saved (R186). -/
def Ring.ofImage (bs : List Byte) (k : Nat) : Ring :=
  let base := imgNat bs 0 8
  let p := imgNat bs 8 4
  let f := imgNat bs 12 4
  let carved := f / 2 % 2 = 1
  if carved && decide (base / 2 ^ 46 * 132 + base / 2 ^ 20 % 256 ≠ cluKey k) then Ring.empty
  else
    { configured := f % 2 = 1, carved := carved, revoked := f / 4 % 2 = 1, side := p / 2 ^ 30 % 2 = 1,
      lastslot := p / 2 ^ 24 % 32, head := p % 32, tail := p / 2 ^ 8 % 32, count := p / 2 ^ 16 % 64,
      base := if carved then base else base % 65536, sees := [] }

/-- The word of a saved matrix command: an MSTACC under stochastic rounding keeps its generator state in op6 (R187). -/
def MatCmd.saved (q : MatCmd) : CmdWord :=
  BitVec.ofNat 256 (q.hd.word.toNat - cOp q.hd.word 6 * 2 ^ 192 + (if cOpcode q.hd.word = 0x23 then q.seed.toNat else cOp q.hd.word 6) * 2 ^ 192)

def Matrix.image (m : Matrix) (k : Nat) : List Byte :=
  let cmds := m.queue.map (fun (q : MatCmd) => leBytes 32 q.saved.toNat)
  let err : List Word := match m.err with
    | some e => [BitVec.ofNat 64 e.cause, e.eaddr, e.einfo]
    | none => [0, 0, 0]
  (natsFrom 0 4096).flatMap (fun i => leBytes 4 (tget 0 i m.acc).toNat) ++
    leBytes 64 ((m.fmt.getD 0).toNat) ++ (natsFrom 0 8).flatMap (fun i => (m.ring i).image k) ++
    (cmds.flatMap id ++ List.replicate 128 0).take 128 ++
    leBytes 8 (m.seq + (m.poison ||| m.accBad).toNat * 2 ^ 16 + m.queue.length * 2 ^ 20) ++ wordBytes err ++ List.replicate 32 0

/-- The matrix state of core k read back for a slot, without its commands (R186). A record of zeros is a loaded format like any other
(R164), unless no command of the group has run yet, so that none can have been loaded (DESIGN CHOICE, log entry 96). -/
def Matrix.ofImage (bs : List Byte) (k slot : Nat) : Matrix :=
  let w0 := imgNat bs 16704 8
  let f := BitVec.ofNat 512 (imgNat bs 16384 64)
  let fmt : Option Rec := if f = 0 && w0 % 65536 = w0 / 2 ^ 20 % 8 then none else some f
  let rings : Tbl Ring := (natsFrom 0 8).foldl (fun t i => tset i (Ring.ofImage ((bs.drop (16448 + 16 * i)).take 16) k) t) []
  let cause := imgNat bs 16712 8
  { Matrix.free with
    holder := some slot, fmt := fmt, fmtQ := fmt,
    acc := (natsFrom 0 4096).foldl (fun t i => tset i (BitVec.ofNat 32 (imgNat bs (4 * i) 4)) t) [],
    poison := BitVec.ofNat 4 (w0 / 2 ^ 16), rings := rings, ringsQ := rings, seq := w0 % 65536,
    err := if cause = 0 then none
      else some { cause := cause % 64, eaddr := BitVec.ofNat 64 (imgNat bs 16720 8), einfo := BitVec.ofNat 64 (imgNat bs 16728 8),
                  stamp := 0 } }

/-- The command words saved in a matrix image, in order. -/
def matSaved (bs : List Byte) : List CmdWord :=
  (natsFrom 0 (imgNat bs 16704 8 / 2 ^ 20 % 8)).map (fun i => BitVec.ofNat 256 (imgNat bs (16576 + 32 * i) 32))

/-- Requeue a saved matrix command on core k for context n, the first live strand of its group, because the image names none (DESIGN
CHOICE, log entry 87); the ctx field names the core. An MFMT reads its record again, and
an MCFGRING of a ring in carved L2 its base, before any new ISSUE (R186, DEDUCED for the ring). -/
def State.requeueMat (s : State) (k n slot : Nat) (super lost : Bool) (seq : Nat) (w : CmdWord) : State :=
  let w : CmdWord := BitVec.ofNat 256 (w.toNat - cCtx w * 2 ^ 24 + idxOf k * 2 ^ 24)
  let op := cOpcode w
  let word : CmdWord := if op = 0x23 then BitVec.ofNat 256 (w.toNat - cOp w 6 * 2 ^ 192) else w
  let h : CmdHead := { word := word, seq := seq, ctx := n, slot := slot, super := super, after := [], sees := [] }
  let carved := op = 0x24 && !inWindow (cAddr word 2)
  let q : MatCmd := { hd := h, fmt := 0, base := if op = 0x24 && !carved then (cAddr word 2).toNat else 0, carved := carved,
                      seed := if op = 0x23 then BitVec.ofNat 32 (cOp w 6) else 0, st := .waiting, row := 0, bad := 0, badAddr := 0,
                      unread := op = 0x20 || carved, payload := 0, requeued := true, revoked := carved && lost, lines := [] }
  let s := s.modMat k (fun m =>
    { m with queue := m.queue ++ [q],
             ringsQ := if op = 0x24 && !carved then tset (mRing word) (Ring.make word q.base false) m.ringsQ else m.ringsQ })
  s.planCmd k h

/-- A carve that has been revoked since the save revokes the rings restored in it (R168). -/
def Ring.afterLoss (lost : Bool) (r : Ring) : Ring := { r with revoked := r.revoked || (lost && r.carved) }

/-- Restore the matrix state of a slot on core k, its commands acting for context n (R186) (DESIGN CHOICE, log entry 87). -/
def State.restoreMatrix (s : State) (k n slot : Nat) (super lost : Bool) (bs : List Byte) : State :=
  let m := Matrix.ofImage bs k slot
  let rings : Tbl Ring := m.rings.map (fun (e : Nat × Ring) => (e.1, e.2.afterLoss lost))
  let m := { m with rings := rings, ringsQ := rings }
  let ws := matSaved bs
  let s := s.modMat k (fun _ => m)
  (ws.zip (natsFrom 0 ws.length)).foldl (fun s p =>
    s.requeueMat k n slot super lost ((m.seq + 65536 - ws.length + p.2) % 65536) p.1) s

/-! The copy image (R214). -/

def Core.cmdsOf (c : Core) (slot : Nat) : List CopyCmd := c.copyQ.filter (fun q => q.hd.slot = slot && q.hd.ctx < 6)

/-- 256 bytes of a saved copy command, of strand i. -/
def CopyCmd.image (q : CopyCmd) (i : Nat) : List Byte :=
  (leBytes 32 q.hd.word.toNat ++ (q.recs.flatMap (fun (r : Rec) => leBytes 64 r.toNat) ++ List.replicate 192 0).take 192 ++
    leBytes 8 (q.row + q.seed.toNat * 2 ^ 32) ++ leBytes 8 (i % 4 + q.hd.seq % 65536 * 2 ^ 16) ++ List.replicate 16 0)

/-- The copy image of a slot of core k. -/
def State.copyImage (s : State) (k slot : Nat) : List Byte :=
  let c := s.core k
  let w : Win := match c.heldBy slot with
    | some i => c.win i
    | none => Win.empty
  let rows (l : List VWord) : List Byte := (l.flatMap (fun (r : VWord) => leBytes 64 r.toNat) ++ List.replicate 256 0).take 256
  let cmds := (c.cmdsOf slot).map (fun q => q.image (s.ctx k q.hd.ctx).gstrand)
  rows w.vin ++ rows w.vout ++ (cmds.flatMap id ++ List.replicate 512 0).take 512 ++
    leBytes 64 (w.vin.length + w.vout.length * 2 ^ 4 + cmds.length * 2 ^ 8)

/-- Restore the rows and commands of a slot of core k whose strands are ns (R213) (DEDUCED, log entry 73). -/
def State.restoreCopy (s : State) (k slot : Nat) (super : Bool) (ns : List Nat) (bs : List Byte) : State :=
  let cnt := imgNat bs 1024 8
  let rows (base n : Nat) : List VWord := (natsFrom 0 n).map (fun i => BitVec.ofNat 512 (imgNat bs (base + 64 * i) 64))
  let s := match (s.core k).heldBy slot with
    | some w => s.modCore k (fun c => c.modWin w (fun x => { x with vin := rows 0 (cnt % 8), vout := rows 256 (cnt / 16 % 8) }))
    | none => s
  (natsFrom 0 (cnt / 2 ^ 8 % 4)).foldl (fun s i =>
    let b := bs.drop (512 + 256 * i)
    let w : CmdWord := BitVec.ofNat 256 (imgNat b 0 32)
    let p := imgNat b 224 32
    let h : CmdHead :=
      { word := w, seq := p / 2 ^ 80 % 65536 + 65536 * (s.clock + 1), ctx := ns.getD (p / 2 ^ 64 % 4) 0, slot := slot,
        super := super, after := [], sees := [] }
    let q : CopyCmd := { hd := h, recs := (natsFrom 0 (copyRecs w).length).map (fun j => BitVec.ofNat 512 (imgNat b (32 + 64 * j) 64)),
                         seed := BitVec.ofNat 32 (p / 2 ^ 32), st := .waiting, row := p % 2 ^ 32, notifies := 0, marks := [],
                         badAt := none, released := false, lines := [] }
    (s.modCore k (fun c => { c with copyQ := c.copyQ ++ [q] })).tick.planCmd k h) s

/-! Local memory slices. -/

/-- A slice of core k's local memory, and the same written back: each word becomes what the image holds. -/
def State.sliceBytes (s : State) (k : Nat) (p : Nat × Nat) : List Byte := Memory.bytes s.mem (lmemKey k p.1) p.2

/-- DEDUCED, log entry 59. -/
def State.putSlice (s : State) (k off : Nat) (bs : List Byte) : State :=
  let lo := lmemKey k off
  { s with mem := Memory.setBytes lo bs s.mem, badParity := s.badParity.filter (fun a => !(decide (lo ≤ a) && decide (a < lo + bs.length))) }

end Sys2Proof.Machine
end

