-- ==== Sys2Proof/Machine/Context.lean ====
section
/-! DEFINITION. The context instructions (R266-R274): CSAVE, CREST, CRESUME, CKILL, YIELD, SLEEP, TRET, and waits that time
ends. -/

namespace Sys2Proof.Machine

/-! Waits that time ends. -/

/-- A wait that time has ended is over: SLEEP and WFE complete, a PAUSE window closes (R108, R274, R341). -/
def State.ripen (s : State) (k n : Nat) : State :=
  let c := s.ctx k n
  let now := s.timeOf k
  match c.wait with
  | .pause u => if decide (u ≤ s.cycleOf k) then s.setCtx k n { c with wait := .none } else s
  | .sleep t0 d => if passed now t0 d then s.setCtx k n { c with pc := c.pc + 4, wait := .none } else s
  | .wfe rd t0 limit =>
    if c.event then s.serveEvents k n
    else if limit ≠ 0 && passed now t0 limit then
      let s := { s with clusters := s.clusters.map (fun (e : Nat × Cluster) =>
        (e.1, { e.2 with monitors := e.2.monitors.filter (fun m => !(m.2.1 = k && m.2.2 = n)) })) }
      s.setCtx k n { c.wx rd 1 with pc := c.pc + 4, wait := .none, event := false, armed := false }
    else s
  | _ => s

/-- SLEEP_EXPIRY (R274). -/
def execSleepExpiry (core ctx : Nat) (s : State) : Host.Outcome State Fault Refusal :=
  .next (match (s.ctx core ctx).wait with
    | .sleep _ _ => s.ripen core ctx
    | _ => s)

/-- WFE_TIMEOUT (R341). -/
def execWfeTimeout (core ctx : Nat) (s : State) : Host.Outcome State Fault Refusal :=
  .next (match (s.ctx core ctx).wait with
    | .wfe _ _ _ => s.ripen core ctx
    | _ => s)

/-- PAUSE_WINDOW_EXPIRY (R108). -/
def execPauseWindowExpiry (core ctx : Nat) (s : State) : Host.Outcome State Fault Refusal :=
  .next (match (s.ctx core ctx).wait with
    | .pause _ => s.ripen core ctx
    | _ => s)

/-! YIELD and SLEEP (R273, R274). -/

/-- The context moves to last place in its class and is not picked next (R273, R249). -/
def State.yieldNow (s : State) : State :=
  let n := s.curCtx
  let cl := s.cur.issueClass
  (s.modHere (fun c => { c with picks := tset cl n c.picks, yielded := some n })).complete

/-- YIELD (R273). -/
def execYield (s : State) : Host.Outcome State Fault Refusal := .next s.yieldNow

def State.sleep (s : State) (rs1 : Reg) : State :=
  s.notInHandler (fun s =>
    let v := s.rx rs1
    let d : Word := if v.toNat ≤ 0xFFFFFFFF then v else 0xFFFFFFFF
    if d = 0 then s.yieldNow else s.block (.sleep (s.timeOf s.curCore) (sleepSpan d)))

/-- SLEEP (R274). -/
def execSleep (rs1 : Reg) (s : State) : Host.Outcome State Fault Refusal := .next (s.sleep rs1)

/-! CSAVE and CREST (R268, R269). -/

/-- The designated target, when the step-6 check lets the instruction act on it (R267). -/
def State.onTarget (s : State) (rs1 : Reg) (align : Option (Reg × Nat)) (act : Target → State → State) : State :=
  let d := s.rx rs1
  match s.designate d with
  | .error (c, a) => s.trap c a
  | .ok t =>
    match align with
    | some (rs2, access) =>
      if bits (s.rx rs2) 5 0 ≠ 0 then s.trapInfo cCONTEXT_SAVE_FAULT (s.rx rs2) (BitVec.ofNat 64 access)
      else if s.chkOk d t then act t s else s.complete
    | none => if s.chkOk d t then act t s else s.complete

/-- CSAVE of a target, to the address va. -/
def State.csaveTo (s : State) (va : Word) (t : Target) : State :=
  let self := t.core = s.curCore && t.ctx = s.curCtx
  let x := s.ctx t.core t.ctx
  let accepted := x.running || x.st = .trapped || x.st = .saved
  if !accepted then s.complete
  else
    s.awaitAcks (fun s =>
      let s := if self then s else s.tryStop t.core t.ctx cSAVE_REQUEST
      if !self && !s.stopped t.core t.ctx then s
      else
        let x := s.ctx t.core t.ctx
        -- the stop of this CSAVE, and not that of a SAVE pre-emption under way
        let stopping := x.wait = .stop && x.stop = cSAVE_REQUEST
        let stop := if stopping then cSAVE_REQUEST else 0
        let epc := if self then x.pc + 4 else x.epc
        let bytes := wordBytes ({ x with stop := stop }.image t.ctx epc)
        match s.places s.whoCur .store va 512 with
        | .error f =>
          if f.parks then s.fault f
          else
            let s := if stopping then
                ((s.setCtx t.core t.ctx { x with st := x.prior, wait := .none }).takeTrap t.core t.ctx cCONTEXT_SAVE_FAULT f.addr
                  (BitVec.ofNat 64 f.cause) x.epc).svcLog t.core cSAVE_REQUEST t.ctx
              else s
            s.trapInfo cCONTEXT_SAVE_FAULT f.addr (BitVec.ofNat 64 f.cause)
        | .ok ls =>
          match s.storeHome s.curCore s.curCtx ls bytes with
          | none => s
          | some s =>
            if self then s.complete
            else
              let s := s.modCtx t.core t.ctx (fun y => { y with st := .saved, stop := if y.stop = cPREEMPT then y.stop else stop, wait := .none,
                                                                wasTrapped := x.st = .trapped || (x.st = .saved && x.wasTrapped && !stopping) })
              (if stopping then s.svcLog t.core cSAVE_REQUEST t.ctx else s).complete)

/-- CSAVE (R268). -/
def execCsave (rs1 rs2 : Reg) (s : State) : Host.Outcome State Fault Refusal :=
  .next (s.onTarget rs1 (some (rs2, cSTORE_ACCESS)) (fun t s =>
    s.watched [watchStore] (addrsFrom (s.rx rs2) 512) (fun s => s.csaveTo (s.rx rs2) t)))

/-- CREST of a SAVED target from the image at va. A parity error stops the core as R259 says of a read of an image. -/
def State.crestFrom (s : State) (va : Word) (t : Target) : State :=
  let x := s.ctx t.core t.ctx
  if x.st ≠ .saved then s.complete
  else
    match s.places s.whoCur .load va 512 with
    | .error f =>
      if f.cause = cLOCAL_PARITY then s.fault f else s.trapInfo cCONTEXT_SAVE_FAULT f.addr (BitVec.ofNat 64 f.cause)
    | .ok ls =>
      if !s.waysOpen s.curCore ls then s
      else
        let bs := ls.map (s.seenByte s.curCore s.curCtx)
        let st := imgWord bs 45
        if imgWord bs 63 ≠ imageFormat then s.trap cCONTEXT_SAVE_FAULT (va + 504)
        else if st.getLsbD 7 ≠ x.super || bits st 9 8 ≠ (if 6 ≤ t.ctx then 1 else 0) then s.trap cSECURITY_VIOLATION (va + 360)
        else
          let s := (s.withdrawNotice t.core t.ctx).setCtx t.core t.ctx (x.ofImage t.ctx bs)
          (s.rearm t.core t.ctx).complete

/-- CREST (R269). -/
def execCrest (rs1 rs2 : Reg) (s : State) : Host.Outcome State Fault Refusal :=
  .next (s.onTarget rs1 (some (rs2, cLOAD_ACCESS)) (fun t s =>
    s.watched [watchLoad] (addrsFrom (s.rx rs2) 512) (fun s => s.crestFrom (s.rx rs2) t)))

/-! CRESUME, CKILL, TRET (R270-R272). -/

/-- CRESUME of a target; the dispatcher hears of a group that is no longer PARKED (R323). -/
def State.resumeTarget (s : State) (t : Target) : State :=
  let c := s.ctx t.core t.ctx
  let s := s.resume t.core t.ctx
  if c.st = .trapped && c.prior = .strand && isCompute t.core then s.pokeDispatcher (chipOf t.core) else s

/-- CRESUME (R270). -/
def execCresume (rs1 : Reg) (s : State) : Host.Outcome State Fault Refusal :=
  .next (s.onTarget rs1 none (fun t s => (s.resumeTarget t).complete))

/-- The end of a stopped strand by CKILL (R271): the policy goes by the cause of its last trap, whatever the CSR reads (R246); a PARKED
group fails with any of its strands (R323) (DEDUCED, log entry 58). -/
def State.killByCkill (s : State) (k n : Nat) : State :=
  let x := s.ctx k n
  let last := s.strandsOf k x.slot = [n]
  let g := s.groupAt k x.slot
  let s := s.killStrand k n
  match g with
  | none => if last then s.endMatrix k x.slot else s
  | some (kid, g) =>
    let parked : Bool := match s.kernel? kid with
      | some y => (y.group g).st = GState.parked || (x.policyDue && kdPolicy y.desc = 2)
      | none => false
    if last || x.cause ≠ 0 || parked then
      s.groupFailed kid g (if x.cause = 0 then cKERNEL_ABORTED else x.cause) true false
    else s

/-- The end of a handler context by CKILL. -/
def State.killHandler (s : State) (k n : Nat) : State :=
  let s := ((((s.withdraw k n).withdrawNotice k n).breakMutexes k n).disarm k n).dropCommands k n
  s.endFiring k n

/-- CKILL of a target. -/
def State.ckillOf (s : State) (t : Target) : State :=
  let self := t.core = s.curCore && t.ctx = s.curCtx
  match (s.ctx t.core t.ctx).st with
  | .free => s.complete
  | .dormant => s.complete
  | .quarantined => s.complete
  | _ =>
    let s := if self then s else s.tryStop t.core t.ctx 0
    if !self && !s.stopped t.core t.ctx then s
    else
      let s := if self then s else s.complete
      if 6 ≤ t.ctx then s.killHandler t.core t.ctx else s.killByCkill t.core t.ctx

/-- CKILL (R271). -/
def execCkill (rs1 : Reg) (s : State) : Host.Outcome State Fault Refusal := .next (s.onTarget rs1 none (fun t s => s.ckillOf t))

/-- DEDUCED, log entry 57. -/
def State.tret (s : State) : State :=
  let c := s.cur
  if !(c.st = .firing && c.chan = 31) then s.trap cPRIVILEGE 0
  else
    s.orPending [.copy] (fun s =>
      let d := c.words.headD 0
      match s.designate d with
      | .error (e, a) => s.trap e a
      | .ok t =>
        let s := if s.chkOk d t then s.resumeTarget t else s
        s.endFiring s.curCore s.curCtx)

/-- TRET (R272). -/
def execTret (s : State) : Host.Outcome State Fault Refusal := .next s.tret

end Sys2Proof.Machine
end

