-- ==== Sys2Proof/Machine/Wq.lean ====
section
/-! DEFINITION. The hardware work queues of the edge chiplets (R296-R302): WQPOP, WQPOPT, WQPUSH, LAUNCH, and the commands and
tail writes that reach a queue's registers. -/

namespace Sys2Proof.Machine

def State.wq (s : State) (q : Nat) : Wq := tget Wq.reset q s.queues
def State.setWq (s : State) (q : Nat) (w : Wq) : State := { s with queues := tset q w s.queues }
def State.modWq (s : State) (q : Nat) (f : Wq → Wq) : State := s.setWq q (f (s.wq q))

/-- Records held (R297: head and tail count modulo 2^16). -/
def Wq.held (w : Wq) : Nat := (w.tail + 65536 - w.head) % 65536

/-- The i-th held record. -/
def Wq.nth (w : Wq) (i : Nat) : Rec := tget 0 ((w.head + i) % 64) w.slots

/-- The kind of a record (R296). -/
def recKind (r : Rec) : Nat := rBytes r 0 1

def kindLaunch : Nat := 1
def kindItem : Nat := 2

/-- The launch records among those held. -/
def Wq.heldLaunches (w : Wq) : Nat := ((natsFrom 0 w.held).filter (fun i => recKind (w.nth i) = kindLaunch)).length

/-- The kid that the n-th launch record of a queue received (R302). -/
def kidOf (q n : Nat) : Nat := q * 2 ^ 22 + n % 2 ^ 22

/-- The kid of the launch record at the head. -/
def Wq.headKid (w : Wq) (q : Nat) : Nat := kidOf q (w.launches - w.heldLaunches)

/-- The head record has been taken. -/
def Wq.take (w : Wq) : Wq := { w with head := (w.head + 1) % 65536 }

/-- A record appended at the tail (R302 counts launch records). -/
def Wq.append (w : Wq) (r : Rec) : Wq :=
  { w with slots := tset (w.tail % 64) r w.slots, tail := (w.tail + 1) % 65536,
           launches := w.launches + if recKind r = kindLaunch then 1 else 0 }

/-- An event that a queue ignores is counted in the log of its chiplet (R298). -/
def State.wqIgnored (s : State) (q : Nat) : State := s.chipLog (edgeDie q) cWORKQUEUE_ERROR q

/-- Every waiter of a queue receives a status (R298). -/
def State.endWaiters (s : State) (q v : Nat) : State :=
  let ws := (s.wq q).waiters
  let s := s.modWq q (fun w => { w with waiters := [] })
  ws.foldl (fun s p => match (s.ctx p.1 p.2).wait with
    | .wq _ rd _ => s.finish p.1 p.2 rd (BitVec.ofNat 64 v)
    | _ => s) s

/-- A queue is CLOSED or in ERROR: its waiters hear of it, and an MSI-X is sent (R298). -/
def State.wqStop (s : State) (q : Nat) (st : WqState) (err v : Nat) : State :=
  let s := (s.modWq q (fun w => { w with st := st, err := err })).endWaiters q v
  s.modTrust (fun t => { t with msix := t.msix ++ [q] })

def State.wqError (s : State) (q err : Nat) : State := s.wqStop q .error err 4

/-- The bytes of a record. -/
def recBytes (r : Rec) : List Byte := leBytes 64 r.toNat

/-- Look at the head of a queue: an invalid kind is an error, a launch record goes to the launch unit, a work item to the
oldest waiter, and a DRAINING queue closes when it is empty (R296, R298, R300). A waiter whose buffer cannot be reached now keeps its
place until it can; one whose buffer has lost its translation takes that fault at its WQPOP (DEDUCED, log entry 50). -/
def State.wqSettle (q : Nat) : Nat → State → State
  | 0, s => s
  | fuel + 1, s =>
    let w := s.wq q
    let live := w.st = .opened || w.st = .draining
    if !live && w.st ≠ .suspended then s
    else if w.held = 0 then (if w.st = .draining then s.wqStop q .closed w.err 2 else s)
    else
      let r := w.nth 0
      if recKind r = kindLaunch then
        (if live && !s.pending.contains (.launchRecordTake q) then s.plan (.launchRecordTake q) else s)
      else if recKind r ≠ kindItem then s.wqError q 1
      else
        match live, w.waiters with
        | true, (k, n) :: ws =>
          let later : State := if s.pending.contains (.wqpopRetry k n) then s else s.plan (.wqpopRetry k n)
          (match (s.ctx k n).wait with
           | .wq _ rd buf =>
             (match s.places (s.who k n) .store buf 64 with
              | .error f => if f.parks then later
                else State.wqSettle q fuel (s.takeTrap k n f.cause f.addr f.info (s.ctx k n).pc)
              | .ok ls => (match s.storeHome k n ls (recBytes r) with
                | some t => State.wqSettle q fuel (((t.setWq q { w with waiters := ws }).modWq q Wq.take).finish k n rd 0)
                | none => later))
           | _ => State.wqSettle q fuel (s.setWq q { w with waiters := ws }))
        | _, _ => s

def State.wqLook (s : State) (q : Nat) : State := State.wqSettle q 200 s

/-- The number of the queue that an instruction names, if it is one (R299). -/
def queueNo (v : Word) : Option Nat := if bits v 63 10 ≠ 0 then none else some (bits v 9 0)

/-- WQPOP and WQPOPT (R299, R300) (DEDUCED, log entry 50). -/
def State.wqPop (s : State) (try_ : Bool) (rd rs1 rs2 : Reg) : State :=
  let buf := s.rx rs2
  match queueNo (s.rx rs1) with
  | none => s.done rd 6
  | some q =>
    if bits buf 5 0 ≠ 0 then s.trap cSTORE_ACCESS buf
    else
      s.watched [watchStore] (addrsFrom buf 64) (fun s => s.andThen (s.places s.whoCur .store buf 64) (fun ls =>
        let w := s.wq q
        if !s.cur.super && !w.userPop then s.done rd 5
        else match w.st with
          | .closed => s.done rd 2
          | .disabled => s.done rd 3
          | .error => s.done rd 4
          | st =>
            if st ≠ .suspended && w.held ≠ 0 && recKind (w.nth 0) = kindItem then
              (match s.storeHome s.curCore s.curCtx ls (recBytes (w.nth 0)) with
               | some t => ((t.modWq q Wq.take).done rd 0).wqLook q
               | none => s)
            else if try_ then s.done rd 1
            else
              s.notInHandler (fun s =>
                if 64 ≤ w.waiters.length then s.block (.wqRetry q (s.cycleOf s.curCore))
                else (s.setWq q { w with waiters := w.waiters ++ [(s.curCore, s.curCtx)] }).block (.wq q rd buf))))

/-- WQPUSH and LAUNCH: the record of 64 bytes at x[rs2] goes to queue x[rs1] (R299, R315). -/
def State.wqAppend (s : State) (launch : Bool) (rd rs1 rs2 : Reg) : State :=
  let buf := s.rx rs2
  match queueNo (s.rx rs1) with
  | none => s.done rd 6
  | some q =>
    if bits buf 5 0 ≠ 0 then s.trap cLOAD_ACCESS buf
    else
      s.watched [watchLoad] (addrsFrom buf 64) (fun s => s.andThen (s.spots s.whoCur .load buf 64) (fun _ =>
      if !launch && !s.cur.super && !(s.wq q).userPush then s.done rd 5
      else s.loadThen buf 64 (fun bs =>
        let r : Rec := BitVec.ofNat 512 (leNat bs)
        let w := s.wq q
        if (if launch then recKind r ≠ kindLaunch else recKind r ≠ kindItem || rBytes r 1 3 ≠ 0) then s.done rd 6
        else if w.st ≠ .opened && w.st ≠ .suspended then s.done rd 3
        else if 64 ≤ w.held then s.done rd 1
        else
          s.awaitAcks (fun s =>
            let kid := kidOf q w.launches
            ((s.modWq q (fun w => w.append r)).done rd (if launch then BitVec.ofNat 64 (kid * 2 ^ 32) else 0)).wqLook q))))

/-- WQPOP (R299). -/
def execWqpop (rd rs1 rs2 : Reg) (s : State) : Host.Outcome State Fault Refusal := .next (s.wqPop false rd rs1 rs2)

/-- WQPOPT (R299). -/
def execWqpopt (rd rs1 rs2 : Reg) (s : State) : Host.Outcome State Fault Refusal := .next (s.wqPop true rd rs1 rs2)

/-- WQPUSH (R299). -/
def execWqpush (rd rs1 rs2 : Reg) (s : State) : Host.Outcome State Fault Refusal :=
  .next (s.orPending [.store] (fun s => s.wqAppend false rd rs1 rs2))

/-- LAUNCH (R315). -/
def execLaunch (rd rs1 rs2 : Reg) (s : State) : Host.Outcome State Fault Refusal :=
  .next (s.orPending [.store] (fun s => s.supervised (fun s => s.wqAppend true rd rs1 rs2)))

/-- A popper held at its core may try again: the qbackoff delay is over (R300). -/
def State.wqDue (s : State) (k n : Nat) : Bool :=
  match (s.ctx k n).wait with
  | .wqRetry _ since => passed (s.cycleOf k) since ((s.core k).delay 1)
  | _ => false

/-- WQPOP_RETRY (R300): a popper held at its core tries again; a listed one whose buffer could not be reached is looked at. -/
def execWqpopRetry (core ctx : Nat) (s : State) : Host.Outcome State Fault Refusal :=
  .next (match (s.ctx core ctx).wait with
    | .wqRetry _ _ => if s.wqDue core ctx then s.modCtx core ctx (fun c => { c with wait := .none }) else s
    | .wq q _ _ => s.wqLook q
    | _ => s)

/-! Registers and their commands (R297, R298). -/

/-- The host's or firmware's tail write. -/
def State.wqTail (s : State) (q tail : Nat) : State :=
  let w := s.wq q
  let t := tail % 65536
  let d := (t + 65536 - w.tail) % 65536
  if w.st ≠ .opened && w.st ≠ .suspended && w.st ≠ .draining then s.wqIgnored q
  else if w.userPush then s.wqError q 3
  else if 32768 ≤ d then s.wqError q 4
  else if 64 < (t + 65536 - w.head) % 65536 then s.wqError q 2
  else if w.st = .draining then s.wqIgnored q
  else
    let new := ((natsFrom 0 d).filter (fun i => recKind (tget 0 ((w.tail + i) % 64) w.slots) = kindLaunch)).length
    (s.setWq q { w with tail := t, launches := w.launches + new }).wqLook q

/-- Every queue of a module that is SAFE stays DISABLED (R435) (DEDUCED, log entry 35). -/
def State.wqEnable (s : State) (q : Nat) : State :=
  let w := s.wq q
  if w.st = .disabled && !s.trust.safe then s.setWq q { w with st := .opened, head := 0, tail := 0 } else s.wqIgnored q

def State.wqSuspend (s : State) (q : Nat) : State :=
  let w := s.wq q
  if w.st = .opened then s.setWq q { w with st := .suspended } else s.wqIgnored q

def State.wqResume (s : State) (q : Nat) : State :=
  let w := s.wq q
  if w.st = .suspended then (s.setWq q { w with st := .opened }).wqLook q else s.wqIgnored q

def State.wqClose (s : State) (q : Nat) : State :=
  let w := s.wq q
  if w.st = .opened || w.st = .suspended then (s.setWq q { w with st := .draining }).wqLook q else s.wqIgnored q

def State.wqDisable (s : State) (q : Nat) : State :=
  let w := s.wq q
  if w.st = .closed || w.st = .error then s.setWq q { w with st := .disabled, slots := [] }
  else s.wqIgnored q

/-- WQ_TAIL_WRITE (R297). -/
def execWqTailWrite (queue tail : Nat) (s : State) : Host.Outcome State Fault Refusal := .next (s.wqTail queue tail)

/-- WQ_ENABLE (R298). -/
def execWqEnable (queue : Nat) (s : State) : Host.Outcome State Fault Refusal := .next (s.wqEnable queue)

/-- WQ_SUSPEND (R298). -/
def execWqSuspend (queue : Nat) (s : State) : Host.Outcome State Fault Refusal := .next (s.wqSuspend queue)

/-- WQ_RESUME (R298). -/
def execWqResume (queue : Nat) (s : State) : Host.Outcome State Fault Refusal := .next (s.wqResume queue)

/-- WQ_CLOSE (R298). -/
def execWqClose (queue : Nat) (s : State) : Host.Outcome State Fault Refusal := .next (s.wqClose queue)

/-- WQ_DISABLE (R298). -/
def execWqDisable (queue : Nat) (s : State) : Host.Outcome State Fault Refusal := .next (s.wqDisable queue)

/-- WQ_CTL (R297): the push and pop bits are held, the command is carried out. -/
def State.wqCtl (s : State) (q : Nat) (v : Word) : State :=
  let s := s.modWq q (fun w => { w with userPush := v.getLsbD 4, userPop := v.getLsbD 3 })
  match bits v 2 0 with
  | 1 => s.wqEnable q | 2 => s.wqSuspend q | 3 => s.wqResume q | 4 => s.wqClose q | 5 => s.wqDisable q
  | _ => s

/-- The value of a queue's register (R297). -/
def WqState.code : WqState → Nat
  | .disabled => 0 | .opened => 1 | .suspended => 2 | .draining => 3 | .closed => 4 | .error => 5

def Wq.reg (w : Wq) (r : Nat) : Word :=
  BitVec.ofNat 64 (match r with
    | 0 => (if w.userPush then 16 else 0) + if w.userPop then 8 else 0
    | 1 => w.waiters.length * 65536 + w.err * 256 + w.st.code
    | 2 => w.head
    | _ => w.tail)

end Sys2Proof.Machine
end

