-- ==== Sys2Proof/Machine/Kernel.lean ====
section
/-! DEFINITION. The launch units (R302-R318): taking a launch record and its checks, grants, KSTAT, KPREEMPT, KSHRINK, saving
and resuming. -/

namespace Sys2Proof.Machine

/-! Admission (R307). -/

/-- A physical address that is a multiple of 64 on a DRAM die. -/
def dramLine (pa : Nat) : Bool := decide (pa % 64 = 0) && isDramPa pa

/-- Step 1. -/
def State.recordOk (s : State) (r : Rec) : Bool :=
  rBits r 1 7 7 = 0 && rBits r 3 7 1 = 0 && decide (lrEdges r ≤ 4) && dramLine (lrDesc r) && lrRank0 r / 2 ^ 21 = 0 &&
    lrNcores r / 2 ^ 21 = 0 && rBytes r 26 2 = 0 && (lrSave r = 0 || dramLine (lrSave r)) &&
    (natsFrom 0 4).all (fun i => decide (i < lrEdges r) || lrEdge r i = 0) &&
    (!lrTok r || (coreOfIdent s.grade (lrTrank r)).isSome)

/-- Step 3. -/
def descOk (d : Rec) : Bool :=
  rBits d 15 7 6 = 0 && rBits d 16 7 6 = 0 && rBits d 19 7 2 = 0 && rBytes d 20 4 = 0 && rBytes d 40 24 = 0 &&
    kdGx d ≠ 0 && kdGy d ≠ 0 && kdGz d ≠ 0 && decide (kdLocal d ≤ 65536) && decide (kdNdeps d ≤ 4) &&
    rBytes d 24 8 / 2 ^ (15 * kdNdeps d) = 0 &&
    (natsFrom 0 (kdNdeps d)).all (fun v => (natsFrom 0 3).all (fun i => kdDep d v i ≠ -16)) &&
    kdPolicy d ≠ 3 && kdPclass d ≠ 3 && (kdPclass d = 1 || rBytes d 18 2 = 0) && (kdPclass d = 2 || rBytes d 32 8 = 0) &&
    (kdPolicy d ≠ 1 || kdIdem d) && canonical (kdEntry d) && bits (kdEntry d) 1 0 = 0

/-- Step 4 (DEDUCED, log entry 78). -/
def State.placeOk (s : State) (r d : Rec) : Bool :=
  lrNcores r ≠ 0 && decide (lrRank0 r + lrNcores r ≤ s.grade * 2112) && lrBlock r ≠ 0 &&
    decide (kdStrands d * lrResid r ≤ 6) && decide (lrResid r * kdLocal d ≤ 65536)

/-- Step 5 (R34). -/
def State.classOk (s : State) (d : Rec) : Bool :=
  match kdPclass d with
  | 0 => true
  | 1 => rBytes d 18 2 = s.grade
  | 2 => (s.trust.mapId).toNat = rBytes d 32 8
  | _ => false

/-- Step 6 (R308): the first nonzero component in the order dz, dy, dx is negative. -/
def depsOk (d : Rec) : Bool :=
  (natsFrom 0 (kdNdeps d)).all (fun v =>
    let x := kdDep d v 0
    let y := kdDep d v 1
    let z := kdDep d v 2
    decide (z < 0) || (z = 0 && (decide (y < 0) || (y = 0 && decide (x < 0)))))

/-- What an edge names (R309). -/
inductive Edge where
  | bad | satisfied | waits | hopeless
deriving DecidableEq, Repr

/-- Step 7 for one edge of the kernel self. -/
def State.edge (s : State) (self kid : Nat) : Edge :=
  if kid = self then .bad
  else if (s.kernel? kid).isSome then .waits
  else match tfind kid s.ended with
    | some x => if x.st = .completed then .satisfied else .hopeless
    | none =>
      let q := queueOf kid
      let w := s.wq q
      let taken := w.launches - w.heldLaunches
      let n := kid % 2 ^ 22
      let held := (natsFrom taken w.heldLaunches).any (fun i => i % 2 ^ 22 = n)
      if decide (1024 ≤ q) || held || (decide (taken < 2 ^ 22) && decide (taken ≤ n)) then .bad else .satisfied

def State.edges (s : State) (self : Nat) (r : Rec) : List (Nat × Edge) :=
  (natsFrom 0 (lrEdges r)).map (fun i => (lrEdge r i, s.edge self (lrEdge r i)))

/-- The checks of R307 in order: the cause of the first that fails. -/
def State.checked (s : State) (kid : Nat) (r : Rec) : Except Nat Rec :=
  if !s.recordOk r then .error cLAUNCH_INVALID
  else match s.physRead (lrDesc r) 64 with
    | none => .error cLAUNCH_INVALID
    | some bs =>
      let d : Rec := BitVec.ofNat 512 (leNat bs)
      if !descOk d then .error cLAUNCH_INVALID
      else if !s.placeOk r d then .error cLAUNCH_INVALID
      else if !s.classOk d then .error cGRADE_MISMATCH
      else if !depsOk d then .error cCYCLIC_DEPENDENCE
      else if (s.edges kid r).any (fun e => e.2 = .bad) then .error cLAUNCH_INVALID
      else .ok d

/-- A kernel as it enters the table. -/
def Kernel.fresh (r : Rec) (since : Word) (stamp takeNo : Nat) : Kernel :=
  { st := .pending, cause := 0, rcd := r, desc := 0, edgesLeft := [], since := since, stamp := stamp, takeNo := takeNo, rank := 0,
    rank0 := lrRank0 r, ncores := lrNcores r, ncores0 := lrNcores r, base := 0, hasBase := false, cores := [], groups := [],
    retired := [], reported := 0, drained := false, saved := false, cancel := false, moved := false, shrink := none, tokens := [],
    reports := [], slots := [] }

/-- The time of a launch unit. -/
def State.unitTime (s : State) (q : Nat) : Word := s.timeOf (mgmtKey (edgeDie q))

/-- A kernel waits for its grant. -/
def State.makeReady (s : State) (kid : Nat) : State :=
  (s.modKernel kid (fun k => { k with st := .ready, since := s.unitTime (queueOf kid) })).plan (.kernelGrant kid)

/-- LAUNCH_RECORD_TAKE (R302, R307, R312). -/
def State.takeRecord (s : State) (q : Nat) : State :=
  let w := s.wq q
  let live := w.st = .opened || w.st = .draining
  let full := 256 ≤ (s.kernels.filter (fun e => unitOfQueue (queueOf e.1) = unitOfQueue q)).length
  if !live || w.held = 0 || recKind (w.nth 0) ≠ kindLaunch || full then s
  else
    let r := w.nth 0
    let kid := w.headKid q
    let n := w.taken + 1
    let s := s.setWq q { w.take with taken := n }
    let s := { s with ended := s.ended.filter (fun e => !(queueOf e.1 = q && decide (e.2.takeNo + 4096 ≤ n))) }
    let k := Kernel.fresh r (s.unitTime q) s.clock n
    let s := (s.tick).setKernel kid k
    let s := match s.checked kid r with
      | .error c => (s.setKernel kid { k with cause := c }).endKernel kid .faulted
      | .ok d =>
        let es : List (Nat × Edge) := s.edges kid r
        let left := (es.filter (fun (e : Nat × Edge) => e.2 = Edge.waits)).map (fun (e : Nat × Edge) => e.1)
        let s := s.setKernel kid { k with desc := d, edgesLeft := left, st := .blocked }
        if es.any (fun (e : Nat × Edge) => e.2 = Edge.hopeless) then s.endKernel kid .cancelled
        else if left.isEmpty then s.makeReady kid else s
    s.wqLook q

/-- LAUNCH_RECORD_TAKE (R307). -/
def execLaunchRecordTake (queue : Nat) (s : State) : Host.Outcome State Fault Refusal := .next (s.takeRecord queue)

/-! Grants (R310). -/

/-- Whole DISP_AGING intervals that a kernel has waited in READY. -/
def State.waited (s : State) (kid : Nat) (x : Kernel) : Nat :=
  let q := queueOf kid
  (s.unitTime q - x.since).toNat / ((s.chip (edgeDie q)).aging * 1000 * 65536)

def State.rankNow (s : State) (kid : Nat) (x : Kernel) : Nat := min 7 (lrPrio x.rcd + s.waited kid x)

/-- The cores of a set. -/
def coresOf (rank0 n : Nat) : List Nat := (natsFrom rank0 n).map coreOfRank

/-- The free residency slots of a core. -/
def Core.freeSlots (c : Core) : List Nat := (natsFrom 0 2).filter (fun i => (tfind i c.slots).isNone)

/-- Contexts reserved on a core by kernels that hold slots there. -/
def State.ctxReserved (s : State) (c : Core) : Nat :=
  c.slots.foldl (fun n e => n + match s.kernel? e.2.kid with
    | some y => kdStrands y.desc
    | none => 0) 0

/-- The contexts of a core that can hold strands: a QUARANTINED one is not FREE (R245, R247). -/
def Core.strandRoom (c : Core) : Nat := ((natsFrom 0 6).filter (fun n => (c.ctx n).st ≠ .quarantined)).length

/-- Can the kernel reserve what it needs on a core, the slice apart? -/
def State.coreRoom (s : State) (x : Kernel) (k : Nat) : Bool :=
  let c := s.core k
  let n := lrResid x.rcd
  decide (n ≤ c.freeSlots.length) && decide (s.ctxReserved c + kdStrands x.desc * n ≤ c.strandRoom) &&
    (!kdVclaim x.desc || decide (n ≤ ((natsFrom 0 2).filter (fun w => (c.win w).holder.isNone && (c.win w).resv.isNone)).length))

/-- The local ranges that other kernels hold on a core. -/
def State.rangesOn (s : State) (k : Nat) : List (Nat × Nat) :=
  (s.core k).slots.filterMap (fun e => match s.kernel? e.2.kid with
    | some y => if kdLocal y.desc = 0 then none else some (y.base, y.base + lrResid y.rcd * kdLocal y.desc)
    | none => none)

/-- The slice base of a grant (R305). -/
def State.sliceBase (s : State) (x : Kernel) : Option Nat :=
  let len := lrResid x.rcd * kdLocal x.desc
  if len = 0 then some 0
  else
    let held := (coresOf x.rank0 x.ncores).flatMap s.rangesOn
    let ok (l : Nat) : Bool := decide (l + len ≤ 65536) && held.all (fun r => decide (l + len ≤ r.1) || decide (r.2 ≤ l))
    if x.hasBase then (if ok x.base then some x.base else none)
    else ((natsFrom 0 1024).map (64 * ·)).find? ok

/-- Does a grant have to reserve scoreboard entries: not for a drained kernel that still holds them? -/
def Kernel.needsEntries (x : Kernel) : Bool := x.groups.isEmpty

/-- Can everything be reserved? -/
def State.canGrant (s : State) (x : Kernel) : Bool :=
  (coresOf x.rank0 x.ncores).all (s.coreRoom x) && (s.sliceBase x).isSome &&
    (!x.needsEntries || x.chips.all (fun c => decide (x.entriesOn c ≤ (s.chip c).sbFree)))

/-- Two kernels' sets share a core. -/
def Kernel.shares (x y : Kernel) : Bool := decide (x.rank0 < y.rank0 + y.ncores) && decide (y.rank0 < x.rank0 + x.ncores)

/-- Does kernel y stand before x in the order of R310: by rank, among equal ranks the oldest first? -/
def State.outranks (s : State) (ky : Nat) (y : Kernel) (kx : Nat) (x : Kernel) : Bool :=
  decide (s.rankNow kx x < s.rankNow ky y) || (s.rankNow kx x = s.rankNow ky y && decide (y.stamp < x.stamp))

/-- READY kernels of the same unit that stand before kid and could be granted (R310). -/
def State.firstInLine (s : State) (kid : Nat) (x : Kernel) : Option Nat :=
  (s.kernels.find? (fun e => e.1 ≠ kid && e.2.st = .ready && unitOfQueue (queueOf e.1) = unitOfQueue (queueOf kid) &&
    s.outranks e.1 e.2 kid x && s.canGrant e.2)).map (·.1)

/-- A kernel that stands before this one and has waited four intervals holds it back on a core of its set; a younger one of equal rank
stands behind it (R310, R319) (DEDUCED, log entry 78). -/
def State.heldBack (s : State) (kid : Nat) (x : Kernel) : Bool :=
  s.kernels.any (fun e => e.1 ≠ kid && e.2.st = .ready && decide (4 ≤ s.waited e.1 e.2) && s.outranks e.1 e.2 kid x && e.2.shares x)

/-- Reserve on one core: residency slots, and windows for them. -/
def State.reserveOn (s : State) (kid : Nat) (x : Kernel) (k : Nat) : State × List (Nat × Nat × Nat) :=
  let slots := (s.core k).freeSlots.take (lrResid x.rcd)
  let s := slots.zip (natsFrom 0 slots.length) |>.foldl (fun s p =>
    s.modCore k (fun c =>
      let c := { c with slots := tset p.1 { kid := kid, g := none, k := p.2 } c.slots }
      if kdVclaim x.desc then
        match c.freeWindow with
        | some w => c.modWin w (fun y => { y with resv := some p.1 })
        | none => c
      else c)) s
  (s, slots.zip (natsFrom 0 slots.length) |>.map (fun p => (k, p.2, p.1)))

/-- Does bit g of a scoreboard image say that the group has retired? -/
def boardBit (bs : List Byte) (g : Nat) : Bool := (bs.getD (g / 8) 0).getLsbD (g % 8)

/-- The slots of a save area that hold a group, of those last written: index, group, kernel slot (R306); none when one cannot be read. -/
def State.savedSlots (s : State) (x : Kernel) : Option (List (Nat × Nat × Nat)) :=
  (x.slots.map (·.j)).foldl (fun r j => match r, s.physRead (x.slotPa j) 64 with
    | some l, some h =>
      some (if imgNat h 8 1 / 128 = 1 then
        l ++ [(j, imgNat h 0 2 + kdGx x.desc * (imgNat h 2 2 + kdGy x.desc * imgNat h 4 2), imgNat h 9 1 % 2)] else l)
    | _, _ => none) (some [])

/-- The entries that a grant creates (R322, R331): WAITING or READY by their counters, SAVED for groups in slots. -/
def freshGroups (x : Kernel) (stamp : Nat) (retired : Nat → Bool) (saved : List (Nat × Nat × Nat)) : Tbl Group :=
  (natsFrom 0 x.count).filterMap (fun g =>
    if retired g then none
    else match saved.find? (fun e => e.2.1 = g) with
      | some e => some (g, { Group.none with st := .saved, k := e.2.2, saveSlot := e.1, stamp := stamp })
      | none =>
        let n := ((gPreds x.desc g).filter (fun p => !retired p)).length
        some (g, { Group.none with st := if n = 0 then .ready else .waiting, counter := n, stamp := stamp }))

/-- The groups of a granted kernel; none when its save area cannot be read. -/
def State.grantGroups (s : State) (x : Kernel) : Option (Tbl Group × List Nat) :=
  if x.saved then
    match s.physRead (lrSave x.rcd + 256) x.sbBytes, s.savedSlots x with
    | some bs, some l => some (freshGroups x s.clock (boardBit bs) l, (natsFrom 0 x.count).filter (boardBit bs))
    | _, _ => none
  else if x.groups.isEmpty then some (freshGroups x s.clock (fun _ => false) [], [])
  else some (x.groups, x.retired)

/-- The reservation and the multicast of a grant. -/
def State.doGrant (s : State) (kid : Nat) (x : Kernel) : State :=
  match s.grantGroups x with
  | none => (s.setKernel kid { x with cause := cCONTEXT_SAVE_FAULT }).endKernel kid .faulted
  | some (gs, retired) =>
    let base := (s.sliceBase x).getD 0
    let rank := s.rankNow kid x
    let s := if x.needsEntries then
        x.chips.foldl (fun s c => s.modChip c (fun o => { o with sbFree := o.sbFree - x.entriesOn c })) s
      else s
    let p := (coresOf x.rank0 x.ncores).foldl (fun (p : State × List (Nat × Nat × Nat)) k =>
      let r := p.1.reserveOn kid x k
      (r.1, p.2 ++ r.2)) (s, [])
    let s := p.1.setKernel kid { x with st := .running, rank := rank, base := base, cores := p.2, groups := gs,
                                        retired := retired, reported := retired.length, saved := false, drained := false }
    (x.chips.foldl (fun s c => s.plan (.groupRelease c)) s.tick).pokeGrants

/-- KERNEL_GRANT (R310, R322). -/
def State.grantKernel (s : State) (kid : Nat) : State :=
  match s.kernel? kid with
  | none => s
  | some x =>
    if x.st ≠ .ready then s
    else if x.chips.any (fun c => decide (2097152 < x.entriesOn c)) then
      (s.setKernel kid { x with cause := cLAUNCH_INVALID }).endKernel kid .faulted
    else match s.firstInLine kid x with
      | some y => (s.plan (.kernelGrant y)).plan (.kernelGrant kid)
      | none => if s.heldBack kid x || !s.canGrant x then s else s.doGrant kid x

/-- KERNEL_GRANT (R310). -/
def execKernelGrant (kid : Nat) (s : State) : Host.Outcome State Fault Refusal := .next (s.grantKernel kid)

/-- AGING_INTERVAL (R310): a waiting kernel is looked at under the rank its wait now gives it. -/
def execAgingInterval (kid : Nat) (s : State) : Host.Outcome State Fault Refusal :=
  .next (match s.kernel? kid with
    | some x => if x.st = .ready then s.plan (.kernelGrant kid) else s
    | none => s)

/-! KSTAT (R316). -/

def KState.code : KState → Nat
  | .pending => 0 | .blocked => 1 | .ready => 2 | .running => 3 | .draining => 4 | .saving => 5 | .preempted => 6
  | .aborting => 8 | .completed => 9 | .faulted => 10 | .cancelled => 11

def Kernel.stat (x : Kernel) : Word :=
  BitVec.ofNat 64 (x.reported % 2 ^ 32 * 2 ^ 32 + (if x.st = .faulted then x.cause % 64 * 2 ^ 10 else 0) + bitN x.saved 9 +
    bitN x.drained 8 + x.st.code)

/-- The kernel of a kid, in a table or an end record. -/
def State.anyKernel (s : State) (kid : Nat) : Option Kernel := (s.kernel? kid).or (tfind kid s.ended)

def State.kstat (s : State) (rd rs1 : Reg) : State :=
  match s.anyKernel (bits (s.rx rs1) 31 0) with
  | some x => (if x.st = .completed then s.acquire .mod else s).done rd x.stat
  | none => s.done rd 15

/-- KSTAT (R316). -/
def execKstat (rd rs1 : Reg) (s : State) : Host.Outcome State Fault Refusal := .next (s.kstat rd rs1)

/-! Pre-emption (R314, R317, R318). -/

/-- SAVE begins: no release, and every strand is stopped at an instruction boundary. -/
def State.startSave (s : State) (kid : Nat) : State :=
  match s.kernel? kid with
  | none => s
  | some x =>
    let s := (s.setKernel kid { x with st := .saving }).unrelease kid
    let s := x.boundGroups.foldl (fun s e => (s.strandsOf e.2.core e.2.slot).foldl (fun s n => s.tryStop e.2.core n cPREEMPT) s) s
    s.plan (.saveComplete kid)

/-- A PREEMPTED kernel resumes: BLOCKED or READY, as after admission. -/
def State.resumeKernel (s : State) (kid : Nat) : State :=
  match s.kernel? kid with
  | none => s
  | some x => if x.edgesLeft.isEmpty then s.makeReady kid else s.setKernel kid { x with st := .blocked }

/-- The chiplets that a smaller set leaves to no kernel go to the points of their PWR_OP.idle (R318, R430). -/
def State.idleChips (s : State) (kid : Nat) (old new : Kernel) : State :=
  let empty := old.chips.filter (fun c => !new.chips.contains c && !s.kernels.any (fun e => e.1 ≠ kid && e.2.chips.contains c))
  empty.foldl (fun s c => (s.modDie c (fun d => { d with want := some d.idle })).plan (.opPointChangeDone c)) s

/-- A new set is taken, in the table and in the header of the save area (R318). -/
def State.takeSet (s : State) (kid rank0 n : Nat) : State :=
  match s.kernel? kid with
  | none => s
  | some x =>
    let y := { x with rank0 := rank0, ncores := n, shrink := none }
    let s := (s.setKernel kid y).idleChips kid x y
    if x.saved then (s.physWrite (mgmtKey (edgeDie (queueOf kid))) (lrSave x.rcd + 8) (leBytes 4 rank0 ++ leBytes 4 n)).getD s else s

/-- The new set of a shrink is taken, and the kernel resumes (R318). -/
def State.applyShrink (s : State) (kid rank0 n : Nat) : State := (s.takeSet kid rank0 n).resumeKernel kid

/-- KPREEMPT on a kernel not ended: action 0 DRAIN, 1 SAVE, 2 RESUME, 3 CANCEL; its status and the state. -/
def State.preempt (s : State) (kid : Nat) (x : Kernel) (a : Nat) : Nat × State :=
  let waiting := x.st = .blocked || x.st = .ready
  let stay (drained : Bool) : State := s.setKernel kid { x with st := .preempted, drained := x.drained || drained }
  match a with
  | 0 =>
    if waiting then (0, stay true)
    else if x.st = .running then (0, ((s.setKernel kid { x with st := .draining }).unrelease kid).settleDrain kid)
    else (1, s)
  | 1 =>
    if !(waiting || x.st = .running || x.st = .draining) then (1, s)
    else if lrSave x.rcd = 0 then (2, s)
    else if waiting then (0, stay false)
    else (0, s.startSave kid)
  | 2 => if x.st = .preempted then (0, s.resumeKernel kid) else (1, s)
  | _ => (0, s.abortKernel kid 0 true)

/-- KPREEMPT, of all four actions (R317). It completes before a SAVE stops the strand that executes it (R263). -/
def State.kpreempt (s : State) (rd rs1 rs2 : Reg) : State :=
  s.supervised (fun s =>
    let v := s.rx rs2
    let kid := bits (s.rx rs1) 31 0
    if bits v 63 2 ≠ 0 then s.done rd 4
    else match s.kernel? kid with
      | some x =>
        let a := bits v 1 0
        ((s.done rd (BitVec.ofNat 64 (s.preempt kid x a).1)).preempt kid x a).2
      | none => s.done rd (if (tfind kid s.ended).isSome then 1 else 3))

/-- KPREEMPT_DRAIN (R317). -/
def execKpreemptDrain (rd rs1 rs2 : Reg) (s : State) : Host.Outcome State Fault Refusal := .next (s.kpreempt rd rs1 rs2)

/-- KPREEMPT_SAVE (R314). -/
def execKpreemptSave (rd rs1 rs2 : Reg) (s : State) : Host.Outcome State Fault Refusal := .next (s.kpreempt rd rs1 rs2)

/-- KPREEMPT_RESUME (R317). -/
def execKpreemptResume (rd rs1 rs2 : Reg) (s : State) : Host.Outcome State Fault Refusal := .next (s.kpreempt rd rs1 rs2)

/-- KPREEMPT_CANCEL (R317). -/
def execKpreemptCancel (rd rs1 rs2 : Reg) (s : State) : Host.Outcome State Fault Refusal := .next (s.kpreempt rd rs1 rs2)

/-- KSHRINK (R318). -/
def State.kshrink (s : State) (rd rs1 rs2 : Reg) : State :=
  s.supervised (fun s =>
    let v := s.rx rs2
    let kid := bits (s.rx rs1) 31 0
    let rank0 := bits v 20 0
    let n := bits v 41 21
    if bits v 63 42 ≠ 0 || n = 0 then s.done rd 4
    else match s.kernel? kid with
      | none => s.done rd (if (tfind kid s.ended).isSome then 1 else 3)
      | some x =>
        let live := x.st = .running || x.st = .draining
        if !(live || x.st = .preempted) then s.done rd 1
        else if lrSave x.rcd = 0 then s.done rd 2
        else if kdPclass x.desc ≠ 0 then s.done rd 5
        else if s.grade * 2112 < rank0 + n || x.ncores0 < n then s.done rd 6
        else if live then ((s.done rd 0).modKernel kid (fun k => { k with shrink := some (rank0, n) })).startSave kid
        else (s.applyShrink kid rank0 n).done rd 0)

/-- KSHRINK (R318). -/
def execKshrink (rd rs1 rs2 : Reg) (s : State) : Host.Outcome State Fault Refusal := .next (s.kshrink rd rs1 rs2)

/-! Saving (R306, R314). -/

/-- May a copy command be saved as it stands: not finished, no notify under way, no MCAST between payload and notifies? -/
def CopyCmd.savable (q : CopyCmd) : Bool :=
  q.notifies = 0 && (match q.st with
    | .done _ => false
    | _ => true) && !((cOpcode q.hd.word = 5 || cOpcode q.hd.word = 6) && q.row ≠ 0)

/-- May the oldest matrix command be saved unexecuted? -/
def Matrix.savable (m : Matrix) : Bool :=
  m.undelivered = 0 && m.queue.all (fun q => q.row = 0 && (match q.st with
    | .done _ => false
    | _ => true))

/-- Have the strands and engines of a bound group come to rest, with every store home (R263, R314)? -/
def State.atRest (s : State) (e : Group) : Bool :=
  let c := s.core e.core
  !e.again && (s.strandsOf e.core e.slot).all (fun n => s.stopped e.core n && (s.ctx e.core n).unacked = 0) && s.engHome e.core &&
    (c.cmdsOf e.slot).all CopyCmd.savable && (c.mat.holder ≠ some e.slot || c.mat.savable) &&
    !c.collQ.any (fun q => q.hd.slot = e.slot && decide (q.hd.ctx < 6))

/-- One slot of the save area (R306). -/
def State.slotImage (s : State) (x : Kernel) (g : Nat) (e : Group) : List Byte :=
  let c := s.core e.core
  let ns := s.strandsOf e.core e.slot
  let win := c.heldBy e.slot
  let mat := c.mat.holder = some e.slot
  let b8 := 128 + (kdStrands x.desc - 1) + bitN win.isSome 2 + bitN (decide mat) 3
  let head := leBytes 8 (gCoord x.desc g).toNat ++ leBytes 1 b8 ++ leBytes 1 e.k ++ leBytes 2 0 ++ leBytes 4 (rankOf e.core) ++
    List.replicate 48 0
  let ctxs := (natsFrom 0 (kdStrands x.desc)).flatMap (fun i =>
    match ns.find? (fun n => (s.ctx e.core n).gstrand = i) with
    | some n =>
      let y := s.ctx e.core n
      wordBytes ({ y with stop := cPREEMPT }.image n y.epc)
    | none => List.replicate 512 0)
  let w := if kdVclaim x.desc then (match win with
    | some i => (c.win i).image
    | none => List.replicate 1920 0) else []
  let m := if mat then c.mat.image e.core else List.replicate 16768 0
  let body := head ++ ctxs ++ w ++ m ++ s.copyImage e.core e.slot ++ s.sliceBytes e.core (x.slice e.k)
  (body ++ List.replicate 64 0).take x.slotBytes

/-- The groups that still wait in slots, with what their slots hold; none when a slot cannot be read. -/
def State.waitingSlots (s : State) (x : Kernel) : Option (List (SavedSlot × List Byte)) :=
  (x.slots.filter (fun p => x.groups.any (fun e => e.2.st = .saved && e.2.saveSlot = p.j))).foldl (fun r p =>
    match r, s.physRead (x.slotPa p.j) x.slotBytes with
    | some l, some bs => some (l ++ [(p, bs)])
    | _, _ => none) (some [])

/-- The slots that a save writes, with their bytes. Groups still waiting in slots keep theirs, or take the lowest free
one. -/
def State.slotsToWrite (s : State) (x : Kernel) (old : List (SavedSlot × List Byte)) : List (SavedSlot × List Byte) :=
  let now : List (SavedSlot × List Byte) := x.boundGroups.map (fun (e : Nat × Group) =>
    (({ j := (rankOf e.2.core - x.rank0) * lrResid x.rcd + e.2.k, clu := cluKey e.2.core, lost := false } : SavedSlot),
      s.slotImage x e.1 e.2))
  old.foldl (fun l (p : SavedSlot × List Byte) =>
    let used := l.map (fun (q : SavedSlot × List Byte) => q.1.j)
    let j := if used.contains p.1.j then
        ((natsFrom 0 (x.ncores0 * lrResid x.rcd)).find? (fun i => !used.contains i && !old.any (fun q => q.1.j = i))).getD p.1.j
      else p.1.j
    l ++ [({ p.1 with j := j }, p.2)]) now

/-- A saved group leaves its core. Its contexts are recorded as pre-empted (R257); a notice of a TRAPPED one that has not been sent is
withdrawn, since its restoration places a new one (R256) (DESIGN CHOICE, log entry 92). -/
def State.takeAway (s : State) (kid : Nat) (g : Nat) (e : Group) : State :=
  let s := s.modCore e.core (fun c => { c with copyQ := c.copyQ.filter (fun q => !(q.hd.slot = e.slot && decide (q.hd.ctx < 6))) })
  let s := (s.strandsOf e.core e.slot).foldl (fun s n =>
    ((s.breakMutexes e.core n).freeCtx e.core n).svcLog e.core cPREEMPT n) s
  ((s.freeMatrix e.core e.slot).dropDraw kid g).unbindGroup kid g .saved

/-- The images and the scoreboard of a SAVING kernel are written; none when a fault meets them. -/
def State.writeSave (s : State) (kid : Nat) (x : Kernel) : Option State :=
  match s.waitingSlots x with
  | none => none
  | some old =>
  let u := mgmtKey (edgeDie (queueOf kid))
  let slots := s.slotsToWrite x old
  let empty := (natsFrom 0 (x.ncores0 * lrResid x.rcd)).filter (fun j => !slots.any (fun p => p.1.j = j))
  let put (r : Option State) (pa : Nat) (bs : List Byte) : Option State := match r with
    | some s => s.physWrite u pa bs
    | none => none
  let r := slots.foldl (fun r p => put r (x.slotPa p.1.j) p.2) (some s)
  let r := empty.foldl (fun r j => put r (x.slotPa j) (List.replicate 64 0)) r
  let y := { x with slots := slots.map (·.1) }
  match r with
  | some s => (s.setKernel kid y).writeBoard kid y false
  | none => none

/-- The groups of a kernel whose save has met a fault are killed and the kernel ends in FAULTED (R306, R312). -/
def State.saveFails (s : State) (kid : Nat) (x : Kernel) : State :=
  (x.boundGroups.foldl (fun s e => s.killGroup kid e.1 e.2) s).saveFault kid

/-- The images of a SAVING kernel are written if everything has come to rest, otherwise it is tried again. -/
def State.saveNow (s : State) (kid : Nat) (x : Kernel) : State :=
  if !(x.tokens.isEmpty && x.reports.isEmpty && x.boundGroups.all (fun e => s.atRest e.2)) ||
      s.reqs.any (fun r => r.group.any (fun g => g.1 = kid)) then s.plan (.saveComplete kid)
  else
    match s.writeSave kid x with
    | none => s.saveFails kid x
    | some s =>
      let s := x.boundGroups.foldl (fun s e => s.takeAway kid e.1 e.2) s
      let s := (s.giveBack kid).returnEntries x
      let s := s.modKernel kid (fun k => { k with st := .preempted, saved := true, drained := false, hasBase := true, groups := [] })
      match x.shrink with
      | some (r, n) => s.applyShrink kid r n
      | none => s

/-- SAVE_COMPLETE (R312, R314): once everything has come to rest the images are written, the reservations given back, and the
kernel is PREEMPTED. -/
def State.completeSave (s : State) (kid : Nat) : State :=
  match s.kernel? kid with
  | none => s
  | some x =>
    if x.st ≠ .saving then s
    else
      let s := x.boundGroups.foldl (fun s e => (s.strandsOf e.2.core e.2.slot).foldl (fun s n => s.tryStop e.2.core n cPREEMPT) s) s
      -- a group error under ABORT comes before the save (R312, R319)
      let s := x.boundGroups.foldl (fun s e => s.policyGroup kid e.1) s
      match s.kernel? kid with
      | none => s
      | some x => if x.st = .saving then s.saveNow kid x else s

/-- SAVE_COMPLETE (R314). -/
def execSaveComplete (kid : Nat) (s : State) : Host.Outcome State Fault Refusal := .next (s.completeSave kid)

end Sys2Proof.Machine
end

