-- ==== Sys2Proof/Machine/Dispatcher.lean ====
section
/-! DEFINITION. The dispatcher of a compute chiplet (R322-R331): release under the power budget, binding, RETIRE, retirement
tokens and reports, GYIELD. -/

namespace Sys2Proof.Machine

/-! Release (R324). -/

/-- An entry of a release queue. -/
structure Waiting where
  kid : Nat
  g : Nat
  rank : Nat
  grp : Group
deriving DecidableEq, Repr

/-- The release queue of a chiplet: READY groups of RUNNING kernels, by rank, then in the order they became READY. -/
def State.releaseQueue (s : State) (chip : Nat) : List Waiting :=
  let all : List Waiting := s.kernels.flatMap (fun (e : Nat × Kernel) =>
    if e.2.st = .running then
      (e.2.groups.filter (fun (g : Nat × Group) => g.2.st = .ready && e.2.homeChip g.1 = chip)).map
        (fun (g : Nat × Group) => ({ kid := e.1, g := g.1, rank := e.2.rank, grp := g.2 } : Waiting))
    else [])
  sortBy (fun (a b : Waiting) => decide (b.rank < a.rank) || (a.rank = b.rank && (decide (a.grp.stamp < b.grp.stamp) ||
    (a.grp.stamp = b.grp.stamp && decide (a.g ≤ b.g))))) all

/-- The draw of a kernel's groups on a chiplet. -/
def State.drawOf (s : State) (chip kid : Nat) : Nat :=
  match s.kernel? kid with
  | some x => s.groupDraw chip (kdPower x.desc)
  | none => 0

/-- The power gate. -/
def State.gateOpen (s : State) (chip d : Nat) : Bool :=
  let c := s.chip chip
  c.share ≠ 0 && decide (c.proj + d ≤ c.share)

/-- The group to release and the groups it passes: no group passes one that has been passed 64 times. -/
def State.chooseRelease (s : State) (chip : Nat) : List Waiting → List Waiting → Option (Waiting × List Waiting)
  | _, [] => none
  | skipped, w :: r =>
    if s.gateOpen chip (s.drawOf chip w.kid) then some (w, skipped)
    else if 64 ≤ w.grp.passed then none
    else s.chooseRelease chip (w :: skipped) r

/-- One group is released. -/
def State.releaseOne (s : State) (chip : Nat) : State :=
  match s.chooseRelease chip [] (s.releaseQueue chip) with
  | none => s
  | some (w, skipped) =>
    let d := s.drawOf chip w.kid
    let s := (skipped.filter (fun (b : Waiting) => b.rank = w.rank)).foldl (fun s b =>
      s.modGroup b.kid b.g (fun x => { x with passed := x.passed + 1 })) s
    let s := (s.addProj chip d).modGroup w.kid w.g (fun x => { x with st := .released, draw := d, passed := 0, gated := false })
    s.pokeDispatcher chip

/-- power_wait (R325): the head of the queue has failed the gate at least once, and has not been released since. -/
def State.notePowerWait (s : State) (chip : Nat) : State :=
  match s.releaseQueue chip with
  | [] => s.modChip chip (fun c => { c with powerWait := false })
  | w :: _ =>
    let failed := w.grp.gated || !s.gateOpen chip (s.drawOf chip w.kid)
    (s.modGroup w.kid w.g (fun x => { x with gated := failed })).modChip chip (fun c => { c with powerWait := failed })

/-! Binding (R326, R331). -/

/-- The header of the slot that a SAVED group waits in. -/
def State.slotHead (s : State) (x : Kernel) (e : Group) : Option (List Byte) := s.physRead (x.slotPa e.saveSlot) 64

/-- The ranks that a group may bind to, in order of preference (R326, R331). -/
def State.bindRanks (s : State) (x : Kernel) (g : Nat) (e : Group) : List Nat :=
  let all := natsFrom x.rank0 x.ncores
  let here := all.filter (fun r => r / 2112 = x.homeChip g)
  if e.st = .saved then
    match s.slotHead x e with
    | none => [x.home g]
    | some h =>
      if imgNat h 8 1 / 8 % 2 = 1 then
        let idx := imgNat h 12 4 % 16
        match (here.find? (fun r => r % 16 = idx)).or (all.find? (fun r => r % 16 = idx)) with
        | some r => [r]
        | none => [x.home g]
      else [x.home g]
  else if lrFree x.rcd then here
  else [x.home g]

/-- The kernel's free slot on a core: its number and its kernel slot; for a SAVED group the kernel slot it was saved with. -/
def State.freeSlotOf (s : State) (kid k : Nat) (e : Group) : Option (Nat × Nat) :=
  (((s.core k).slots.filter (fun (r : Nat × ResSlot) => r.2.kid = kid && r.2.g.isNone &&
    (e.st ≠ .saved || r.2.k = e.k))).map (fun (r : Nat × ResSlot) => (r.1, r.2.k))).head?

/-- The free strand contexts of a core. -/
def State.freeCtxs (s : State) (k : Nat) : List Nat := (natsFrom 0 6).filter (fun n => (s.ctx k n).st = .free)

/-- The core and slots that a group can be bound to now. A RELEASED group waits while its home rank is PROXIED or its core does not run, in
both modes (R326, R465), and a replayed one while stores of its earlier attempt are in flight, so that they come before those of the new one
(R332) (DEDUCED, log entry 101). -/
def State.bindTarget (s : State) (kid : Nat) (x : Kernel) (g : Nat) (e : Group) : Option (Nat × Nat × Nat) :=
  if (e.st = .released && !s.coreRuns (coreOfRank (x.home g))) || s.groupOwes kid g then none
  else
  ((s.bindRanks x g e).filterMap (fun r =>
    let k := coreOfRank r
    match s.freeSlotOf kid k e with
    | some p =>
      if s.coreRuns k && decide (kdStrands x.desc ≤ (s.freeCtxs k).length) then some (k, p.1, p.2) else none
    | none => none)).head?

/-- SAVED groups of the running kernels with their first choice of rank: kernel, group, rank (DEDUCED, log entry 60). -/
def State.savedHomes (s : State) : List (Nat × Nat × Nat) :=
  (s.kernels.filter (fun (e : Nat × Kernel) => e.2.st = .running)).flatMap (fun (e : Nat × Kernel) =>
    (e.2.groups.filter (fun (p : Nat × Group) => p.2.st = .saved)).map (fun (p : Nat × Group) =>
      (e.1, p.1, (s.bindRanks e.2 p.1 p.2).headD 0)))

/-- Restored groups bind first on a core, in ascending linear index (R326). -/
def State.bindTurn (s : State) (kid g k : Nat) (e : Group) : Bool :=
  s.savedHomes.all (fun p => coreOfRank p.2.2 ≠ k ||
    (if e.st = .saved then decide (g < p.2.1) || (g = p.2.1 && decide (kid ≤ p.1)) else false))

/-- Strand i of a freshly bound group (R320, R321). -/
def State.bindStrand (s : State) (kid g : Nat) (x : Kernel) (e : Group) (k slot ks n i : Nat) : State :=
  let c := s.ctx k n
  let regs : Tbl Word := [(10, lrArg x.rcd), (11, BitVec.ofNat 64 (x.slice ks).1), (12, BitVec.ofNat 64 i)]
  s.setCtx k n { Ctx.empty with
    st := .strand, prior := .strand, x := regs, pc := kdEntry x.desc, super := lrSuper x.rcd, routeSvc := lrRoute x.rcd,
    gcoord := gCoord x.desc g, gstrand := i, nstr := kdStrands x.desc - 1, kid := kid % 2 ^ 32, replays := e.replays,
    slot := slot, gen := c.gen + 1, tseq := c.tseq, out := c.out }

/-- The slice of a group replayed on another core is written as zero and empty (R330). -/
def State.clearSlice (s : State) (k : Nat) (p : Nat × Nat) : State :=
  let s := s.putSlice k p.1 (List.replicate p.2 0)
  let lo := lmemKey k p.1
  { s with full := s.full.filter (fun w => !(decide (lo ≤ w) && decide (w < lo + p.2))) }

/-- Every strand of the group makes an acquire at .mod (R326). -/
def State.bindAcquire (s : State) (k : Nat) (ns : List Nat) : State := ns.foldl (fun s n => s.acquireBy k n .mod) s

/-- The group is resident: its table entry and the core's slot. -/
def State.reside (s : State) (kid g k slot ks d : Nat) : State :=
  (s.modCore k (fun c => { c with slots := tset slot { kid := kid, g := some g, k := ks } c.slots })).modGroup kid g (fun e =>
    { e with st := .running, core := k, slot := slot, k := ks, draw := d })

/-- A RELEASED group is bound. -/
def State.bindFresh (s : State) (kid g : Nat) (x : Kernel) (e : Group) (k slot ks : Nat) : State :=
  let ns := (s.freeCtxs k).take (kdStrands x.desc)
  let s := if e.replays ≠ 0 && e.core ≠ k then s.clearSlice k (x.slice ks) else s
  let s := (ns.zip (natsFrom 0 ns.length)).foldl (fun s p => s.bindStrand kid g x e k slot ks p.1 p.2) s
  (s.bindAcquire k ns).reside kid g k slot ks e.draw

/-- Strand i of a restored group (R264, R331): its registers come from the image and its level from the launch record (R104), a TRAPPED
strand's notice is placed again (R256) and the policy answers its trap; the wake flag is set, as at every binding (R111). -/
def State.restoreStrand (s : State) (x : Kernel) (k slot n i : Nat) (bs : List Byte) : State :=
  let c := s.ctx k n
  let y := { c with tseq := bits (imgWord bs 45) 29 22 }.ofImage n bs
  let trapped := (imgWord bs 45).getLsbD 6
  let s := s.setCtx k n { y with
    st := if trapped then .trapped else .strand, prior := .strand, restored := true, slot := slot, routeSvc := lrRoute x.rcd,
    gstrand := i, nstr := kdStrands x.desc - 1, gen := c.gen + 1, wait := .none, wake := true, super := lrSuper x.rcd,
    onPath := trapped && isW y.ecause.toNat && !y.einfo.getLsbD 4,
    policyDue := trapped && !(isW y.ecause.toNat && !y.einfo.getLsbD 4) }
  let s := s.rearm k n
  if trapped then
    let z := s.ctx k n
    let cause := if isW z.ecause.toNat && !z.onPath then 0 else z.ecause.toNat
    s.notice k n (s.supervisor k { z with st := .strand } cause) (noticeWord k z.noticeKind z.tseq z.ecause.toNat n)
  else s

/-- A SAVED group is bound from its slot, once the matrix state it needs is free. A strand that had retired before the save
has a zero image, without the format word, and is not bound again (log entry 26, DEDUCED). -/
def State.bindSaved (s : State) (kid g : Nat) (x : Kernel) (e : Group) (k slot ks : Nat) : State :=
  let chip := x.homeChip g
  let d := s.drawOf chip kid
  match s.physRead (x.slotPa e.saveSlot) x.slotBytes with
  | none => s.abortKernel kid cCONTEXT_SAVE_FAULT false
  | some bs =>
    let flags := imgNat bs 8 1
    let mat := flags / 8 % 2 = 1
    if !s.gateOpen chip d || (mat && (s.core k).mat.holder.isSome) then s
    else
      let n := kdStrands x.desc
      let ns := (s.freeCtxs k).take n
      let at_ (i : Nat) : List Byte := bs.drop i
      let base := 64 + 512 * n + (if kdVclaim x.desc then 1920 else 0)
      let live := (ns.zip (natsFrom 0 ns.length)).filter (fun p => imgWord (at_ (64 + 512 * p.2)) 63 = imageFormat)
      let s := live.foldl (fun s p => s.restoreStrand x k slot p.1 p.2 ((at_ (64 + 512 * p.2)).take 512)) s
      let s := if kdVclaim x.desc && flags / 4 % 2 = 1 then
          match (s.core k).reservedFor slot with
          | some w => s.modCore k (fun c => c.modWin w (fun y =>
              { y with regs := winRegs (at_ (64 + 512 * n)), vin := [], vout := [], holder := some slot }))
          | none => s
        else s
      let s := s.putSlice k (x.slice ks).1 ((at_ (base + 16768 + 1088)).take (kdLocal x.desc))
      let s := (s.bindAcquire k (live.map (·.1))).addProj chip d
      let s := s.reside kid g k slot ks d
      -- replays as the image of its first strand has them (R331)
      let s := s.modGroup kid g (fun y => { y with replays := (live.map (fun p => (s.ctx k p.1).replays)).headD y.replays })
      let lost := x.slots.any (fun p => p.j = e.saveSlot && p.lost)
      let s := s.modKernel kid (fun y => { y with slots := y.slots.filter (fun p => p.j != e.saveSlot) })
      let s := if mat then s.restoreMatrix k ((live.map (·.1)).headD 0) slot (lrSuper x.rcd) lost ((at_ base).take 16768) else s
      s.restoreCopy k slot (lrSuper x.rcd) ns ((at_ (base + 16768)).take 1088)

/-- GROUP_BIND (R320, R326, R331). -/
def State.bindGroup (s : State) (kid g : Nat) : State :=
  match s.kernel? kid with
  | none => s
  | some x =>
    let e := x.group g
    if x.st ≠ .running || !(e.st = .released || e.st = .saved) then s
    else match s.bindTarget kid x g e with
      | none => s
      | some (k, slot, ks) =>
        if !s.bindTurn kid g k e then s
        else if e.st = .saved then (s.bindSaved kid g x e k slot ks).pokeDispatcher (x.homeChip g)
        else s.bindFresh kid g x e k slot ks

/-- GROUP_BIND (R326). -/
def execGroupBind (kid g : Nat) (s : State) : Host.Outcome State Fault Refusal := .next (s.bindGroup kid g)

/-! The dispatcher looks at its groups. -/

/-- Bindings that can be made for groups whose home lies on the chiplet. -/
def State.planBinds (s : State) (chip : Nat) : State :=
  s.kernels.foldl (fun s kx =>
    if kx.2.st ≠ .running then s
    else (kx.2.groups.filter (fun (e : Nat × Group) => (e.2.st = .saved || e.2.st = .released) && kx.2.homeChip e.1 = chip)).foldl
      (fun s e => match s.bindTarget kx.1 kx.2 e.1 e.2 with
        | some _ => if s.pending.contains (.groupBind kx.1 e.1) then s else s.plan (.groupBind kx.1 e.1)
        | none => s) s) s

/-- GROUP_RELEASE: the error policy is applied, aborts and drains go on, a group is released, bindings are planned (R313,
R323, R324). -/
def State.dispatchGroups (s : State) (chip : Nat) : State :=
  let s := s.policyStep chip
  let s := s.kernels.foldl (fun s e => s.abortStep e.1 chip) s
  let s := s.kernels.foldl (fun s e => s.settleDrain e.1) s
  ((s.releaseOne chip).notePowerWait chip).planBinds chip

/-- GROUP_RELEASE (R324). -/
def execGroupRelease (chip : Nat) (s : State) : Host.Outcome State Fault Refusal := .next (s.dispatchGroups chip)

/-! RETIRE (R327, R328). -/

/-- Completion and notify words of a context's copy and stream commands that are not delivered (R213). -/
def State.copyWords (s : State) (k n : Nat) : Bool :=
  ((s.core k).window ++ (s.core k).hwWait).any (fun m => m.ctx = n && m.st ≠ .delivered && (match m.frm with
    | .completion op => decide (op < 0x20) || (decide (0x50 ≤ op) && decide (op < 0x80)) || (decide (0xC0 ≤ op) && decide (op ≤ 0xC3))
    | .notify _ => true
    | _ => false))

/-- Stores of a group's last strand, of its strands that have ended, wherever they ran, and of the core's engines that are not
acknowledged. -/
def State.groupStores (s : State) (k n : Nat) (g : Option (Nat × Nat)) : Bool :=
  s.reqs.any (fun r => match r.kind with
    | .store _ _ => (r.core = k && (r.ctx = n || r.ctx = 8)) || (r.group.isSome && r.group = g)
    | _ => false)

/-- Group g of a kernel has retired: its bit, the tokens and the report (R328). -/
def State.retireGroup (s : State) (kid g : Nat) : State :=
  match s.kernel? kid with
  | none => s
  | some x =>
    let succs := gSuccs x.desc g
    let s := s.setKernel kid { x with retired := insertNat g x.retired, tokens := x.tokens ++ succs.map (fun t => (t, g)),
                                      reports := x.reports ++ [g] }
    let src := x.homeChip g
    let s := succs.foldl (fun s t => s.sendTokenTo src (x.homeChip t) (.retirementToken kid t g)) s
    let s := s.sendTokenTo src (edgeDie (queueOf kid)) (.groupRetirementReport kid g)
    (((s.dropDraw kid g).unbindGroup kid g .retired).settleDrain kid).pokeDispatcher (x.homeChip g)

/-- The executing strand ends; the group with it when it is the last. -/
def State.endStrand (s : State) (k n slot : Nat) (last : Bool) : State :=
  let g := s.groupAt k slot
  let s := s.freeCtx k n
  if !last then s
  else
    let s := s.freeMatrix k slot
    match g with
    | some (kid, g) => s.retireGroup kid g
    | none => s.freeResidency k slot

/-- RETIRE (R327). -/
def State.retire (s : State) : State :=
  let k := s.curCore
  let n := s.curCtx
  let c := s.cur
  let last := s.strandsOf k c.slot = [n]
  if c.st ≠ .strand then s.trap cPRIVILEGE 0
  else if s.mutexesOf k n ≠ [] then s.trap cBARRIER_MISMATCH 0
  else if s.here.copyQ.any (fun q => q.hd.ctx = n || (last && q.hd.slot = c.slot && decide (q.hd.ctx < 6))) ||
      s.here.collQ.any (fun q => q.hd.ctx = n) || s.copyWords k n then s.block .engine
  else if s.messagesOf k n then s.block .window
  else if last && s.here.mat.holder = some c.slot && !(s.here.mat.queue.isEmpty && s.here.mat.undelivered = 0) then s.block .matrix
  else
    s.orPending (if last then [.copy, .matrix, .store] else [.copy, .store]) (fun s =>
      if last && s.groupStores k n (s.groupAt k c.slot) then s.block .acks else s.endStrand k n c.slot last)

/-- RETIRE (R327). -/
def execRetire (s : State) : Host.Outcome State Fault Refusal := .next s.retire

/-- RETIREMENT_TOKEN (R323, R328): applied once. -/
def State.applyToken (s : State) (kid g pred : Nat) : State :=
  match s.kernel? kid with
  | none => s
  | some x =>
    if !x.tokens.contains (g, pred) then s
    else
      let s := s.setKernel kid { x with tokens := x.tokens.filter (fun t => t ≠ (g, pred)) }
      let e := x.group g
      if e.st ≠ .waiting then s
      else
        let m := e.counter - 1
        if m ≠ 0 then s.modGroup kid g (fun y => { y with counter := m })
        else ((s.modGroup kid g (fun y => { y with counter := 0, st := .ready, stamp := s.clock })).tick).pokeDispatcher (x.homeChip g)

/-- RETIREMENT_TOKEN (R328). A drain may have waited for it (R314). -/
def execRetirementToken (kid g pred : Nat) (s : State) : Host.Outcome State Fault Refusal :=
  .next ((s.applyToken kid g pred).settleDrain kid)

/-- GROUP_RETIREMENT_REPORT: the launch unit counts it; the kernel is COMPLETED when every group has retired (R312, R328). -/
def State.applyReport (s : State) (kid g : Nat) : State :=
  match s.kernel? kid with
  | none => s
  | some x =>
    if !x.reports.contains g then s
    else
      let y := { x with reports := x.reports.filter (· != g), reported := x.reported + 1 }
      let s := s.setKernel kid y
      if y.reported = y.count && (y.st = .running || y.st = .draining || y.st = .saving) then s.endKernel kid .completed
      else s.settleDrain kid

/-- GROUP_RETIREMENT_REPORT (R328). -/
def execGroupRetirementReport (kid g : Nat) (s : State) : Host.Outcome State Fault Refusal := .next (s.applyReport kid g)

/-! GYIELD (R329). -/

/-- The bound strands of core k outside a slot. -/
def State.otherStrands (s : State) (k slot : Nat) : List Nat :=
  (natsFrom 0 6).filter (fun n =>
    let c := s.ctx k n
    c.slot ≠ slot && c.prior = .strand && (c.st = .strand || c.st = .trapped || c.st = .saved))

def State.gyield (s : State) : State :=
  let c := s.cur
  let k := s.curCore
  let others := s.otherStrands k c.slot
  if c.st ≠ .strand then s.trap cPRIVILEGE 0
  else if others.isEmpty then s.yieldNow
  else if !others.any (s.eligible k) then s.complete
  else (s.complete.modCore k (fun o => { o with gives := tset c.slot (s.cycleOf k, others) o.gives })).plan (.gyieldTimeout k s.curCtx)

/-- GYIELD (R329). -/
def execGyield (s : State) : Host.Outcome State Fault Refusal := .next s.gyield

/-- GYIELD_TIMEOUT (R329): a group's wait ends when no strand that has still to issue is eligible, or after 1,024 cycles, whatever
becomes of the strand that executed the GYIELD. -/
def State.gyieldEnd (s : State) (k n : Nat) : State :=
  let over_ (e : Nat × (Word × List Nat)) : Bool := !e.2.2.any (s.eligible k) || passed (s.cycleOf k) e.2.1 1024
  let left := (s.core k).gives.filter (fun e => !over_ e)
  let s := s.modCore k (fun c => { c with gives := left })
  if left.isEmpty then s else s.plan (.gyieldTimeout k n)

/-- GYIELD_TIMEOUT (R329). -/
def execGyieldTimeout (core ctx : Nat) (s : State) : Host.Outcome State Fault Refusal := .next (s.gyieldEnd core ctx)

end Sys2Proof.Machine
end

