-- ==== Sys2Proof/Machine/Faulty.lean ====
section
/-! DEFINITION. Lost parts (R22-R28, R259, R261, R262): quarantine, rebind, heartbeats, retirement and the renumbering that
follows it. -/

namespace Sys2Proof.Machine

/-! The lifetime records (R440): counters numbered by kind × 2^20 + index. -/

def lifeCause (chip cause : Nat) : Nat := chip * 64 + cause
def lifeRetry (die m : Nat) : Nat := 1 * 2 ^ 20 + die * 64 + m
def lifeGap (die m : Nat) : Nat := 2 * 2 ^ 20 + die * 64 + m
def lifeUnit (unit : Nat) : Nat := 3 * 2 ^ 20 + unit

/-- The MSI-X vector of a change of CHIP_STATE (R442). -/
def vCHIP_STATE : Nat := 1024

def State.lifeCount (s : State) (key : Nat) : State :=
  s.modTrust (fun t => { t with lifetime := tset key (tget 0 key t.lifetime + 1) t.lifetime })

/-! What a core that is lost loses (R27). -/

/-- Every context of the core is discarded. -/
def State.loseContexts (s : State) (k : Nat) : State :=
  (natsFrom 0 8).foldl (fun s n =>
    let s := ((((s.withdraw k n).withdrawNotice k n).breakMutexes k n).disarm k n).dropCommands k n
    let c := s.ctx k n
    s.setCtx k n { Ctx.reset n with st := .quarantined, prior := .quarantined, gen := c.gen + 1, tseq := c.tseq }) s

/-- Grant requests that wait at the core go back to their senders. -/
def State.returnGrants (s : State) (k : Nat) : State :=
  ((s.core k).chans.flatMap (fun (e : Nat × Chan) => e.2.reqs)).foldl (fun s r =>
    match s.msg? r.1 r.2.1 with
    | some m => if m.st = .waitGrant then
        (s.modMsg r.1 r.2.1 (fun m => { m with st := .nacked true })).plan (.nackReceived r.1 r.2.1) else s
    | none => s) s

/-- Is a message the completion word of a matrix command? -/
def Msg.ofMatrix (m : Msg) : Bool :=
  match m.frm with
  | .completion op => decide (0x20 ≤ op) && decide (op < 0x50)
  | _ => false

/-- Completion words of the core's matrix commands that have not been delivered are discarded without effect (R162), also from the input of
a proxy. -/
def State.dropMatrixWords (s : State) (k : Nat) : State :=
  let gone := (s.core k).window.filter (fun m => m.ofMatrix && m.st ≠ .delivered)
  gone.foldl (fun s m =>
    (s.modCluster (cluKey m.dst) (fun c => { c with proxyIn := c.proxyIn.filter (fun e => e.2 != (k, m.uid)) })).leaveWindow k m.uid) s

/-- Contexts, channels, units and TLB of the core are gone; the replay window and what the dispatcher has reserved stay. -/
def State.wipeCore (s : State) (k : Nat) : State :=
  let s := (((s.returnGrants k).loseContexts k).modCore k (fun c => { c with hwWait := [] })).dropMatrixWords k
  let s := s.abandonSubs k (fun _ => true)
  let s := { s with fes := s.fes.filter (fun r => r.core != k) }
  s.modCore k (fun c => { c with
    chans := [], handlers := [], mat := Matrix.free, copyQ := [], collQ := [], sweepQ := [], tlb := [], l1d := [], l1i := [], gives := [],
    notices := c.notices.filter (fun e => e.1 = 8),
    wins := c.wins.map (fun (w : Nat × Win) => (w.1, { Win.empty with resv := w.2.resv })), stopped := true })

/-- Requests of others parked on the core's words end (R334). -/
def State.endParked (s : State) (k : Nat) : State :=
  (s.fes.filter (fun r => r.st = 1 && ownerOf r.word = k)).foldl (fun s r => s.feArrive r.id) s

/-- The groups of a core fail with a cause (R313). -/
def State.failGroups (s : State) (k cause : Nat) : State :=
  (s.core k).slots.foldl (fun s e => match e.2.g with
    | some g => s.groupFailed e.2.kid g cause false true
    | none => s) s

/-- BOUND to PROXIED (R27). -/
def State.quarantine (s : State) (k cause : Nat) : State :=
  let clu := cluKey k
  if !isCompute k || tget .bound (idxOf k) (s.cluster clu).binds = .proxied then s
  else
    let s := s.failGroups k (if (s.core k).stopped then (s.core k).stopCause else cause)
    let s := s.wipeCore k
    let s := s.modCluster clu (fun c => { c with binds := tset (idxOf k) .proxied c.binds })
    (s.endParked k).pokeDispatcher (chipOf k)

/-- CORE_QUARANTINE (R27). -/
def execCoreQuarantine (core : Nat) (cause : BitVec 6) (s : State) : Host.Outcome State Fault Refusal :=
  .next (s.quarantine core cause.toNat)

/-! Heartbeats (R261, R262). -/

/-- Does the chiplet's compute clock run, so that heartbeats are counted? -/
def State.beats (s : State) (k : Nat) : Bool :=
  let d := s.die (dieOf k)
  !isMgmt k && (d.state = .active || d.state = .degraded) && decide (d.op < 4)

/-- The later of the last heartbeat and the chiplet's entry into service, from which the count runs. -/
def State.beatFrom (s : State) (k : Nat) : Word :=
  let now := s.cycleOf k
  let a := (s.chip (dieOf k)).activeAt
  let b := (s.core k).lastBeat
  if now - a < now - b then a else b

/-- HEARTBEAT_POST (R261). -/
def State.postBeat (s : State) (k : Nat) : State :=
  let c := s.core k
  if s.beats k && !c.stopped && !s.coreGone k && passed (s.cycleOf k) (s.beatFrom k) 65536 then
    s.modCore k (fun c => { c with hbcount := c.hbcount + 1, lastBeat := s.cycleOf k })
  else s

def execHeartbeatPost (core : Nat) (s : State) : Host.Outcome State Fault Refusal := .next (s.postBeat core)

/-- The count without a heartbeat at which the monitor acts. -/
def beatLimit : Word := 200704

def State.beatMissed (s : State) (k : Nat) : Bool := s.beats k && passed (s.cycleOf k) (s.beatFrom k) beatLimit

/-- The monitor's core raises the notice of a core that has missed its heartbeats (R255, R261, R262). -/
def State.raiseMissed (s : State) (k by_ cause : Nat) : State := s.notice by_ 8 by_ (noticeWord k 3 0 cause 0)

/-- HEARTBEAT_MISSED (R261). -/
def State.missedBeat (s : State) (k : Nat) : State :=
  if isCompute k && s.beatMissed k && tget .bound (idxOf k) (s.cluster (cluKey k)).binds = .bound then
    (s.quarantine k cHEARTBEAT_MISSED).raiseMissed k (svcOf k) cHEARTBEAT_MISSED
  else s

def execHeartbeatMissed (core : Nat) (s : State) : Host.Outcome State Fault Refusal := .next (s.missedBeat core)

/-- The lifetime log takes a machine check and its unit code (R259). -/
def State.logicLogged (s : State) (core unit : Nat) : State :=
  (s.lifeCount (lifeCause (chipOf core) cMACHINE_CHECK)).lifeCount (lifeUnit unit)

/-- CORE_LOGIC_ERROR (R259): no context traps, and the unit code goes to the lifetime log. -/
def execCoreLogicError (core unit : Nat) (s : State) : Host.Outcome State Fault Refusal :=
  .next ((s.coreFatal core cMACHINE_CHECK).logicLogged core unit)

/-- Storage or the logic of a core fails (R175, R216, R223, R259) (DESIGN CHOICE, log entry 95). A corrected error goes to the log of the
home cluster's service core; a logic error that an instruction of a context meets traps it, with the unit code in einfo. -/
def State.upset (s : State) : Upset → State
  | .localByte key =>
    let die := key / 2 ^ 46
    if key / 2 ^ 40 % 64 = 0 && (decide (die < 512) || (decide (576 ≤ die) && decide (die < 609))) then
      { s with badParity := insertNat key s.badParity }
    else s
  | .l2Line line => { s with badLines := insertNat line s.badLines }
  | .l2Corrected line => s.logAt (s.locOfKey (128 * line) 0).clu 0 line
  | .accumulator core n => s.modCore core (fun c => { c with mat := { c.mat with accBad := c.mat.accBad ||| (1#4 <<< n) } })
  | .coreLogic core ctx unit =>
    let c := s.ctx core ctx
    if s.coreRuns core && (c.st = .strand || c.st = .firing) then
      (s.takeTrap core ctx cMACHINE_CHECK 0 (BitVec.ofNat 64 unit) c.pc).logicLogged core unit
    else s

/-! The defect map (R22-R26). -/

/-- The MSI-X vector of a log change (R442). -/
def vLOG : Nat := 1027

/-- The log with a part retired. -/
def Trust.withPart (t : Trust) : Part → Trust
  | .site k => { t with logSites := insertNat k t.logSites }
  | .cluster k c => { t with logClusters := insertNat (k * 144 + c) t.logClusters }
  | .slot k c p => { t with logSlots := insertNat ((k * 144 + c) * 18 + p) t.logSlots }

/-- The log with a part reinstated. -/
def Trust.unlog (t : Trust) : Part → Trust
  | .site k => { t with logSites := t.logSites.filter (· != k) }
  | .cluster k c => { t with logClusters := t.logClusters.filter (· != k * 144 + c) }
  | .slot k c p => { t with logSlots := t.logSlots.filter (· != (k * 144 + c) * 18 + p) }

/-- A reinstated part is no longer retired, nor due to be (R22). -/
def Trust.withoutPart (t : Trust) (p : Part) : Trust :=
  { t.unlog p with deferredRetire := t.deferredRetire.filter (· ≠ p) }

/-- Does the fuse map condemn a part? -/
def Trust.fused (t : Trust) : Part → Bool
  | .site k => t.fuseSites.contains k
  | .cluster k c => t.fuseClusters.contains (k * 144 + c)
  | .slot k c p => t.fuseSlots.contains ((k * 144 + c) * 18 + p)

def Part.site? : Part → Nat
  | .site k => k
  | .cluster k _ => k
  | .slot k _ _ => k

/-- Where the logical cluster of one numbering stands in another. -/
def clusterMove (old new : Trust) (c : Nat) : Option Nat :=
  let site := old.siteOfChip (c / 132)
  match new.chipOfSite site, new.layout site with
  | some chip, some l => (l.findIdx? (fun x => x = old.clusterSite (c / 132) (c % 132))).map (fun i => chip * 132 + i)
  | _, _ => none

/-- Where the physical core of a logical place stands; a management core keeps its place. -/
def coreMove (old new : Trust) (k : Nat) : Option Nat :=
  if isMgmt k then some k
  else
    let site := old.siteOfChip (chipOf k)
    let c := old.clusterSite (chipOf k) (cluOf k)
    if old.slotOf site c (idxOf k) ≠ new.slotOf site c (idxOf k) then none
    else (clusterMove old new (cluKey k)).map (fun d => d * 17 + idxOf k)

def chipMove (old new : Trust) (d : Nat) : Option Nat := if d < 512 then new.chipOfSite (old.siteOfChip d) else some d

/-- Where a byte of memory stands: local memory and carved L2 move with their cluster. -/
def keyMove (old new : Trust) (a : Nat) : Option Nat :=
  let die := a / 2 ^ 46
  let space := a / 2 ^ 40 % 64
  if 512 ≤ die then some a
  else if space = 0 then
    (coreMove old new ((die * 132 + a / 2 ^ 21 % 256) * 17 + a / 2 ^ 16 % 32)).map (fun k => lmemKey k (a % 2 ^ 16))
  else if space = 1 then
    (clusterMove old new (die * 132 + a / 2 ^ 20 % 256)).map (fun c =>
      c / 132 * 2 ^ 46 + 2 ^ 40 + c % 132 * 2 ^ 20 + a % 2 ^ 20)
  else some a

/-- Does a change of the map move a core of the module, of the indices below n? -/
def movesBelow (n : Nat) (old new : Trust) : Bool :=
  old.disabled ≠ new.disabled || (sortNats (old.namedSites ++ new.namedSites)).any (fun site =>
    old.layout site ≠ new.layout site || (match old.layout site with
      | some l => l.any (fun c => (natsFrom 0 n).any (fun i => old.slotOf site c i ≠ new.slotOf site c i))
      | none => false))

/-- Does it move a core, a service core among them; does it change a binding from rank to physical core (R26, R36)? -/
def moves (old new : Trust) : Bool := movesBelow 17 old new
def movesRank (old new : Trust) : Bool := movesBelow 16 old new

/-- Does the effective map change (R35, R36)? -/
def mapChanged (old new : Trust) : Bool :=
  (sortNats (old.namedSites ++ new.namedSites)).any (fun site => decide (site < 512) && old.siteRecord site ≠ new.siteRecord site)

/-- A table with its keys moved; entries that go nowhere are dropped. -/
def moveTbl {α : Type} (f : Nat → Option Nat) (t : Tbl α) : Tbl α :=
  t.foldl (fun r e => match f e.1 with
    | some k => tset k e.2 r
    | none => r) []

def moveList (f : Nat → Option Nat) (l : List Nat) : List Nat := sortNats (l.filterMap f)

/-- Core and context pairs with the core moved. -/
def moveWho (f : Nat → Option Nat) (l : List (Nat × Nat)) : List (Nat × Nat) :=
  l.filterMap (fun e => (f e.1).map (fun k => (k, e.2)))

/-- A cluster's tables with the cores they name moved. -/
def Cluster.move (f : Nat → Option Nat) (c : Cluster) : Cluster :=
  { c with
    mutexes := c.mutexes.map (fun (e : Nat × Mutex) => (e.1, { e.2 with
      holder := e.2.holder.bind (fun (h : Nat × Nat) => (f h.1).map (fun k => (k, h.2))), waiters := moveWho f e.2.waiters })),
    sems := c.sems.map (fun (e : Nat × Sem) => (e.1, { e.2 with waiters := moveWho f e.2.waiters })),
    bars := c.bars.map (fun (e : Nat × Bar) => (e.1, { e.2 with waiters := moveWho f e.2.waiters })),
    monitors := c.monitors.filterMap (fun (m : Nat × Nat × Nat) => (f m.2.1).map (fun k => (m.1, k, m.2.2))),
    proxyIn := c.proxyIn.filterMap (fun (m : Nat × Nat × Nat) => (f m.2.1).map (fun k => (m.1, k, m.2.2))),
    returned := c.returned.filterMap (fun (m : Nat × Nat) => (f m.2).map (fun k => (m.1, k))) }

/-- A core's tables with the cores they name, and the L1 lines with the memory they copy, moved. -/
def Core.move (f key : Nat → Option Nat) (c : Core) : Core :=
  let stays (e : L1Line) : Bool := key (128 * e.line) = some (128 * e.line)
  { c with
    nackFrom := moveWho f c.nackFrom,
    notices := c.notices.map (fun (e : Nat × Nat × Word) => (e.1, (f e.2.1).getD e.2.1, e.2.2)),
    chans := c.chans.map (fun (e : Nat × Chan) => (e.1, { e.2 with
      reqs := e.2.reqs.filterMap (fun (r : Nat × Nat × Nat) => (f r.1).map (fun k => (k, r.2))) })),
    l1d := c.l1d.filter stays, l1i := c.l1i.filter stays }

/-- A fault word with its cores and the routers of its path moved. -/
def FaultWord.move (f router : Nat → Option Nat) (w : FaultWord) : Option FaultWord :=
  (f w.core).map (fun k => { w with core := k, origin := (f w.origin).getD w.origin, path := w.path.filterMap router,
                                    port := if w.port = 0 then 0 else ((router (w.port - 1)).map (· + 1)).getD 0 })

/-- What is on its way to cores whose place a renumbering changes: messages in the input of a proxy that goes away return to their
senders (R28), and grants of such a core are given back. -/
def State.clearWays (s : State) (new : Trust) : State :=
  let core := coreMove s.trust new
  let gone := (s.clusters.filter (fun e => (clusterMove s.trust new e.1).isNone)).flatMap (fun e => e.2.proxyIn.map (·.2))
  let s := gone.foldl (fun s e =>
    (s.modMsg e.1 e.2 (fun m => { m with st := .nacked true })).plan (.nackReceived e.1 e.2)) s
  let moved := (s.cores.map (·.1)).filter (fun k => core k ≠ some k)
  let s := moved.foldl (fun s k => (s.returnGrants k).modCore k (fun c =>
    { c with nackFrom := [], chans := c.chans.map (fun (e : Nat × Chan) => (e.1, { e.2 with grantResv := 0, reqs := [] })) })) s
  { s with cores := s.cores.map (fun (e : Nat × Core) => (e.1, { e.2 with
      window := e.2.window.map (fun m => if m.grant && moved.contains m.dst then { m with grant := false } else m) })) }

/-- Does a line's home change with the map (R223)? -/
def State.homeMoves (s : State) (new : Trust) (line : Nat) : Bool :=
  let home (t : Trust) : Nat := (({ s with trust := t } : State).locOfKey (128 * line) 0).clu
  clusterMove s.trust new (home s.trust) ≠ some (home new)

/-- The regions whose last compute chiplet goes (R14). -/
def lostRegions (old new : Trust) : List Nat :=
  (natsFrom 0 64).filter (fun r => !(old.regionChips r).isEmpty && (new.regionChips r).isEmpty)

/-- The dies under a new numbering: retired chiplets are quarantined, and the DRAM chiplet of a region that has lost its last one goes to
DARK (R14). -/
def State.diesUnder (s : State) (new : Trust) : Tbl Die :=
  let chip := chipMove s.trust new
  let retired := (natsFrom 0 s.trust.grade).filter (fun d => (chip d).isNone)
  let dies := (retired.zip (natsFrom new.grade retired.length)).foldl (fun (t : Tbl Die) p =>
    tset p.2 { s.die p.1 with state := .quarantined } t) (moveTbl chip s.trust.dies)
  (lostRegions s.trust new).foldl (fun t r => tset (512 + r) { s.die (512 + r) with state := .dark, op := 5 } t) dies

/-- How many dies change their state with a new numbering. -/
def State.dieChanges (s : State) (new : Trust) : Nat :=
  ((natsFrom 0 s.trust.grade).filter (fun d => (chipMove s.trust new d).isNone && (s.die d).state ≠ .quarantined)).length +
    ((lostRegions s.trust new).filter (fun r => (s.die (512 + r)).state ≠ .dark)).length

/-- The state under a new numbering: every part takes its state with it, a part that leaves service loses it. Registrations on lines
whose home moves have ended (R340). -/
def State.renumbered (s : State) (new : Trust) : State :=
  let s := (s.endMonitors (s.homeMoves new)).clearWays new
  let old := s.trust
  let core := coreMove old new
  let clu := clusterMove old new
  let chip := chipMove old new
  let key := keyMove old new
  let line (l : Nat) : Option Nat := (key (128 * l)).map (· / 128)
  let router (r : Nat) : Option Nat := (chip (r / 144)).map (fun d => d * 144 + r % 144)
  { s with
    curCore := (core s.curCore).getD s.curCore,
    cores := (moveTbl core s.cores).map (fun (e : Nat × Core) => (e.1, e.2.move core key)),
    clusters := (moveTbl clu s.clusters).map (fun (e : Nat × Cluster) => (e.1, e.2.move core)),
    chips := moveTbl chip s.chips,
    kernels := s.kernels.map (fun (e : Nat × Kernel) => (e.1, { e.2 with
      slots := e.2.slots.map (fun (p : SavedSlot) => { p with clu := (clu p.clu).getD p.clu, lost := p.lost || (clu p.clu).isNone }) })),
    faultWords := s.faultWords.filterMap (fun (w : FaultWord) => w.move core router),
    routers := (moveTbl router s.routers).map (fun (e : Nat × List (Nat × List Nat)) => (e.1, e.2.map (fun (g : Nat × List Nat) =>
      (g.1, g.2.filterMap (fun p => if p = 0 then some 0 else (router (p - 1)).map (· + 1)))))),
    badLines := moveList line s.badLines, poison := moveTbl line s.poison, feLines := moveTbl key s.feLines,
    queues := s.queues.map (fun (e : Nat × Wq) => (e.1, { e.2 with waiters := moveWho core e.2.waiters })),
    mem := s.mem.foldl (fun m (c : Host.Cell) => match key c.1 with
      | some a => Memory.setByte a c.2 m
      | none => m) [],
    full := moveList key s.full, badParity := moveList key s.badParity,
    fes := s.fes.filterMap (fun (r : FeReq) => match core r.core, key r.word with
      | some k, some w => some { r with core := k, word := w }
      | _, _ => none),
    reqs := s.reqs.filterMap (fun (r : Req) => match core r.core, chip r.src with
      | some k, some d => some { r with core := k, src := d, dst := if r.dst < 1024 then (chip r.dst).getD r.dst else r.dst }
      | _, _ => none),
    streams := s.streams.foldl (fun (t : Tbl Stream) e =>
      let d := e.1 % 1024
      match chip (e.1 / 1024 % 1024) with
      | some src => if e.1 < 2 ^ 20 then (match chip d with
          | some dst => tset (streamKey src dst) e.2 t
          | none => t) else tset e.1 e.2 t
      | none => t) [],
    trust := { new with dies := s.diesUnder new, mapSeq := old.mapSeq + 1, renum := movesRank old new,
                        msix := new.msix ++ List.replicate (s.dieChanges new) vCHIP_STATE } }

/-! Retirement at run time (R26). -/

/-- Does a kernel's set hold a rank that a change of the map moves? -/
def affected (old new : Trust) (x : Kernel) : Bool :=
  (coresOf x.rank0 x.ncores).any (fun k => coreMove old new k ≠ some k)

/-- A kernel's scoreboard is held in the dispatchers of a chiplet that a change of the map moves. -/
def boardAffected (old new : Trust) (x : Kernel) : Bool :=
  !x.groups.isEmpty && x.chips.any (fun d => chipMove old new d ≠ some d ||
    (natsFrom (d * 132) 132).any (fun c => clusterMove old new c ≠ some c))

/-- A kernel is made ready for a renumbering: saved when it has a save area, otherwise ended. -/
def State.vacate (s : State) (new : Trust) (kid : Nat) : State :=
  match s.kernel? kid with
  | none => s
  | some x =>
    let live := x.st = .running || x.st = .draining
    if live && affected s.trust new x then
      if lrSave x.rcd = 0 then s.abortKernel kid cCONTEXT_SAVE_FAULT false
      else (s.setKernel kid { x with moved := true }).startSave kid
    else if x.st = .preempted && lrSave x.rcd = 0 && boardAffected s.trust new x then s.abortKernel kid cCONTEXT_SAVE_FAULT false
    else s

/-- Has every affected kernel left its cores? -/
def State.vacated (s : State) (new : Trust) : Bool :=
  s.kernels.all (fun e => !(affected s.trust new e.2) || !(e.2.st = .running || e.2.st = .draining || e.2.st = .saving ||
    e.2.st = .aborting))

/-- The kernels that a renumbering concerns once their cores are left: those pre-empted for it, and those already PREEMPTED whose sets
it moves (R26, R319; log entry 102, DEDUCED). -/
def State.concerned (s : State) (new : Trust) : List Nat :=
  (s.kernels.filter (fun e => e.2.moved || (e.2.st = .preempted && affected s.trust new e.2))).map (·.1)

/-- Such a kernel ends by its class; otherwise it takes the set that is left of its own, and resumes if the renumbering pre-empted it. -/
def State.resettle (s : State) (regraded : Bool) (kid : Nat) : State :=
  match s.kernel? kid with
  | none => s
  | some x =>
    let y := { x with moved := false }
    let cls := kdPclass x.desc
    if cls = 2 || (cls = 1 && regraded) then (s.setKernel kid { y with cause := cGRADE_MISMATCH }).endKernel kid .faulted
    else
      let total := s.grade * 2112
      let r0 := if y.rank0 < total then y.rank0 else total - y.ncores
      let n := min y.ncores (total - r0)
      let s := (s.setKernel kid y).takeSet kid r0 n
      if x.moved && x.st = .preempted then s.resumeKernel kid else s

/-- A new map takes effect. When it moves a core, affected kernels are pre-empted first; until they have left, the event again
is tried. -/
def State.remap (s : State) (new : Trust) (again : Instr) : State :=
  if !moves s.trust new then
    { s with trust := if mapChanged s.trust new then { new with mapSeq := s.trust.mapSeq + 1, renum := false } else new }
  else
    let s := s.kernels.foldl (fun s e => s.vacate new e.1) s
    if !s.vacated new then s.plan again
    else
      let regraded := decide (new.grade ≠ s.grade)
      let kids := s.concerned new
      kids.foldl (fun s kid => s.resettle regraded kid) ((s.renumbered new).voidSweeps)

/-- Is a region that holds the part being updated (R441, R446)? -/
def State.updatingPart (s : State) (p : Part) : Bool := s.trust.updating.contains (siteRegion (Part.site? p))

/-- The log retires a part (R439): written at once, and in effect when the map takes it. -/
def State.logPart (s : State) (p : Part) : State :=
  if s.trust.deferredRetire.contains p then s
  else s.modTrust (fun t => { t with deferredRetire := t.deferredRetire ++ [p], logSeq := t.logSeq + 1, msix := t.msix ++ [vLOG] })

/-- FIELD_RETIREMENT (R26, R439, R446) (DEDUCED, log entry 77). -/
def State.retirePart (s : State) (p : Part) : State :=
  let s := s.logPart p
  if s.updatingPart p then s
  else
    let new := { s.trust.withPart p with deferredRetire := s.trust.deferredRetire.filter (· ≠ p) }
    s.remap new (.fieldRetirement p)

/-- FIELD_RETIREMENT (R26). -/
def execFieldRetirement (part : Part) (s : State) : Host.Outcome State Fault Refusal := .next (s.retirePart part)

/-- REINSTATEMENT (R22, R439) (DEDUCED, log entry 65). -/
def State.reinstate (s : State) (ps : List Part) (sigOk : Bool) : State :=
  let t := s.trust
  if !sigOk || ps.any t.fused || decide (1024 ≤ t.reinst.length) then s
  else
    let new := { ps.foldl Trust.withoutPart t with reinst := t.reinst ++ [ps], logSeq := t.logSeq + 1, msix := t.msix ++ [vLOG] }
    let s := { s with pending := s.pending.filter (fun i => !ps.any (fun p => i = Instr.fieldRetirement p)) }
    s.remap new (.reinstatement ps sigOk)

/-- REINSTATEMENT (R22). -/
def execReinstatement (parts : List Part) (sigOk : Bool) (s : State) : Host.Outcome State Fault Refusal :=
  .next (s.reinstate parts sigOk)

/-! The spare (R23, R27, R28, R262). -/

/-- Is the spare slot of a core's cluster good and not in use? -/
def State.spareFree (s : State) (k : Nat) : Bool :=
  let site := s.trust.siteOfChip (chipOf k)
  let c := s.trust.clusterSite (chipOf k) (cluOf k)
  (s.trust.badSlots site c).isEmpty && !s.trust.slotBad site c 17

/-- The physical slot and the cluster site that a core stands on, as parts. -/
def State.slotPart (s : State) (k : Nat) : Part :=
  let site := s.trust.siteOfChip (chipOf k)
  let c := s.trust.clusterSite (chipOf k) (cluOf k)
  .slot site c (s.trust.slotOf site c (idxOf k))
def State.sitePart (s : State) (k : Nat) : Part :=
  .cluster (s.trust.siteOfChip (chipOf k)) (s.trust.clusterSite (chipOf k) (cluOf k))

/-- The spare takes over a logical place: a core at its reset values, its local memory zero and empty (R333), with the replay
window of the index. -/
def State.freshCore (s : State) (k : Nat) : State :=
  let lo := lmemKey k 0
  let inside (a : Nat) : Bool := decide (lo ≤ a) && decide (a < lo + 65536)
  let s := s.modCore k (fun c => { Core.reset with
    window := c.window, nextUid := c.nextUid, credit := c.credit, creditNext := c.creditNext, slots := c.slots,
    wins := c.wins, notices := c.notices, lastBeat := s.cycleOf k,
    ctxs := (natsFrom 0 8).map (fun n => (n, { Ctx.reset n with gen := (c.ctx n).gen + 1 })) })
  { s with mem := s.mem.filter (fun c => !inside c.1), full := s.full.filter (fun a => !inside a),
           badParity := s.badParity.filter (fun a => !inside a) }

/-- The old slot of a core is retired by a rebind: the map changes, and no rank moves (R26). -/
def State.rebindEntry (s : State) (k : Nat) : State :=
  let p := s.slotPart k
  s.modTrust (fun t => { t.withPart p with logSeq := t.logSeq + 1, msix := t.msix ++ [vLOG], mapSeq := t.mapSeq + 1, renum := false })

/-- The proxy's input is drained in arrival order (R28): a message is forwarded, unless one from its source has been returned. -/
def State.drainProxy (s : State) (k : Nat) : State :=
  let clu := cluKey k
  let c := s.cluster clu
  let mine := c.proxyIn.filter (fun e => e.1 = idxOf k)
  let s := s.modCluster clu (fun c => { c with
    proxyIn := c.proxyIn.filter (fun e => e.1 != idxOf k), returned := c.returned.filter (fun e => e.1 != idxOf k) })
  mine.foldl (fun s e =>
    if c.returned.contains (idxOf k, e.2.1) then
      (s.modMsg e.2.1 e.2.2 (fun m => { m with st := .nacked true })).plan (.nackReceived e.2.1 e.2.2)
    else s.arriveMsg e.2.1 e.2.2) s

/-- REBIND (R27). -/
def State.rebindCore (s : State) (k : Nat) (selfTest : Bool) : State :=
  let clu := cluKey k
  if !isCompute k || tget .bound (idxOf k) (s.cluster clu).binds = .bound then s
  else if s.spareFree k && selfTest then
    let s := (s.rebindEntry k).freshCore k
    let s := s.modCluster clu (fun c => { c with binds := tdel (idxOf k) c.binds, spareFor := some (idxOf k) })
    (s.drainProxy k).pokeDispatcher (chipOf k)
  else s.retirePart (s.sitePart k)

/-- REBIND (R27). -/
def execRebind (core : Nat) (selfTest : Bool) (s : State) : Host.Outcome State Fault Refusal := .next (s.rebindCore core selfTest)

/-- Trap notices that a lost service core had and had not acted on, with the cores that sent them (R262). -/
def State.heldNotices (s : State) (svc : Nat) : List (Nat × Word) :=
  let c := s.core svc
  let words := ([6, 7] : List Nat).flatMap (fun n => if (c.ctx n).chan = 31 && (c.ctx n).st ≠ .dormant then (c.ctx n).words else []) ++
    (c.chan 31).words
  words.filterMap (fun w => (coreOfIdent s.grade (bits w 63 32)).map (fun k => (k, w)))

/-- SERVICE_CORE_LOST (R262). -/
def State.serviceLost (s : State) (clu : Nat) (selfTest : Bool) : State :=
  let svc := svcOfClu clu
  if !s.beatMissed svc then s
  else
    let s := s.raiseMissed svc (s.trust.mgmtOfChip (chipOf svc)) cSERVICE_CORE_LOST
    let held := s.heldNotices svc
    if s.spareFree svc && selfTest then
      let s := ((s.wipeCore svc).rebindEntry svc).freshCore svc
      let s := s.modCluster clu (fun c => { c with spareFor := some 16 })
      held.foldl (fun s e => s.notice e.1 (bits e.2 2 0) svc e.2) s
    else (s.wipeCore svc).retirePart (s.sitePart svc)

/-- SERVICE_CORE_LOST (R262). -/
def execServiceCoreLost (cluster : Nat) (selfTest : Bool) (s : State) : Host.Outcome State Fault Refusal :=
  .next (s.serviceLost cluster selfTest)

end Sys2Proof.Machine
end

