-- ==== Sys2Proof/Machine/Transport.lean ====
section
/-! DEFINITION. The end-to-end transport between dies (R238-R242, R383-R389): the network-select table, arrival at an ingress,
acknowledgements, resends, and streams that give up. -/

namespace Sys2Proof.Machine

/-! Paths of requests in flight. -/

/-- Where the home of a request lies. -/
def State.reqEnd (s : State) (r : Req) : Ep :=
  let there : Ep := { die := r.dst, px := 0, py := 0 }
  match r.kind with
  | .msg k uid => match s.msg? k uid with
    | some m => s.msgEnd m
    | none => there
  | _ => match r.kind.keys with
    | a :: _ => s.epOf (s.locOfKey a r.keyid)
    | [] => there

/-- The links on the path that a request was last sent by; a request for a peer module leaves through the edge chiplet of its port (R400). -/
def State.reqLinks (s : State) (r : Req) : Option (List (Nat × Nat)) :=
  let src := s.epOfCore r.core
  if r.dst < 1024 then s.pathBy r.path src (s.reqEnd r)
  else s.pathBy r.path src { die := portDie (portFor (r.dst / 2 ^ 20 - 1) src.die), px := 0, py := 0 }

/-- How a request on its way fares (R393). -/
inductive Way where
  | through
  | waits
  | drops (die m : Nat)
  | nowhere
deriving DecidableEq, Repr

def State.reqWay (s : State) (r : Req) : Way :=
  match s.reqLinks r with
  | none => .nowhere
  | some l =>
    match l.find? (fun h => s.notcon h.1 h.2 || (s.link h.1 h.2).state = 5) with
    | some h => .drops h.1 h.2
    | none => if l.all (fun h => s.linkUp h.1 h.2) then .through else .waits

/-! Frames for peer modules (R400, R401). -/

/-- The header of a frame. -/
def frameHead (dmac smac : Word) (etype kind : Nat) (opened : Bool) (smod dmod sdie ddie seq n : Nat) : List Byte :=
  leBytes 6 dmac.toNat ++ leBytes 6 smac.toNat ++ leBytes 1 (etype / 256) ++ leBytes 1 etype ++ leBytes 1 (1 + kind * 16) ++
    leBytes 1 (bitN opened 0) ++ leBytes 2 smod ++ leBytes 2 dmod ++ leBytes 2 sdie ++ leBytes 2 ddie ++ leBytes 2 seq ++ leBytes 1 n ++
    List.replicate 19 0

/-- A beat of a frame: its payload is filled up with zeros. -/
def frameBeat (seq code n attr target : Nat) (payload : List Byte) : List Byte :=
  leBytes 2 seq ++ leBytes 1 code ++ leBytes 1 n ++ leBytes 4 attr ++ leBytes 8 target ++ (payload ++ List.replicate 64 0).take 64

/-- A frame from a die to one of a peer module leaves through the port that the pair has (R400), once LNK_PEER names the peer. -/
def State.sendFrame (s : State) (src dst kind : Nat) (opened : Bool) (seq : Nat) (beats : List (List Byte)) : State :=
  let m := dst / 2 ^ 20 - 1
  let port := portFor m src
  let c := s.chip (portDie port)
  let peer := tget 0 m c.peers
  if peer.getLsbD 48 then
    let head := frameHead (peer &&& 0xFFFFFFFFFFFF) (tget 0 (port % 2) c.macs) c.etype kind opened c.selfModule m src (dst % 2 ^ 20) seq
      beats.length
    s.modChip (portDie port) (fun c => { c with frames := (head ++ beats.flatten) :: c.frames })
  else s

/-- The scope field of a beat. -/
def scopeCode : Scope → Nat
  | .core => 0 | .clu => 1 | .chp => 2 | .mod => 3 | .sys => 4

/-- The AMO field of a beat (R118). -/
def amoCode : AmoOp → Nat
  | .add => 0 | .swap => 1 | .and => 2 | .or => 3 | .xor => 4 | .min => 5 | .max => 6 | .minu => 7 | .maxu => 8 | .cas => 9

/-- The beat of a request for a peer module. -/
def Req.beat (r : Req) : List Byte :=
  let target := (r.kind.keys.headD 0) % 2 ^ 56
  let n := r.kind.keys.length
  let engine := r.ctx = 8
  let scope := ((r.acq.map scopeCode).getD 0)
  match r.kind with
  | .store bs strong => frameBeat r.seq (if engine then 0x08 else if strong then 0x03 else 0x02) n scope target (bs.map (·.2))
  | .load _ _ _ _ => frameBeat r.seq (if engine then 0x07 else 0x01) n scope target []
  | .sc bs _ => frameBeat r.seq 0x03 n scope target (bs.map (·.2))
  | .amo op _ dbl _ b e =>
    frameBeat r.seq 0x04 16 (scope + amoCode op * 2 ^ 10 + bitN dbl 14) target (leBytes 8 b.toNat ++ leBytes 8 e.toNat)
  | .msg _ _ => frameBeat r.seq 0x05 1 0 0 []
  | .token _ => frameBeat r.seq 0x0A 1 0 0 []
  | .drain _ => frameBeat r.seq 0x0B 1 0 0 []

/-! Arrival (R386). -/

def State.atRequest (s : State) (src dst seq : Nat) : Option Req :=
  s.reqs.find? (fun r => r.src = src && r.dst = dst && r.seq = seq && r.phase ≠ .egress)

/-- Entries that the ingress of a die holds, for streams of this module and of its peers. -/
def State.entriesAt (s : State) (dst : Nat) : Nat :=
  (s.ingress.filter (fun e => e.1 % 1024 = dst % 1024 && (e.1 / 2 ^ 20 = dst / 2 ^ 20 || decide (2 ^ 40 ≤ e.1)))).length

def Ingress.at (n : Nat) : Ingress := { expect := n, replies := [] }

/-- The request goes on to its destination step and the entry expects the next. -/
def State.passOn (s : State) (src dst : Nat) (r : Req) : State :=
  let s := { s with ingress := tset (streamKey src dst) (Ingress.at ((r.seq + 1) % 65536)) s.ingress }
  (s.modReq r.id (fun q => { q with phase := .home })).plan (.memoryRequestAtHome r.id)

/-- A request in transit reaches the ingress (DEDUCED, log entry 61). -/
def State.admitReq (s : State) (src dst : Nat) (r : Req) : State :=
  match tfind (streamKey src dst) s.ingress with
  | none =>
    if !r.openBit then s.plan (.e2eResetReply src dst)
    else if 256 ≤ s.entriesAt dst then
      (s.modReq r.id (fun q => { q with lost := true })).setStream src dst
        { s.stream src dst with busy := true, busyAt := (s.chip src).cycle }
    else s.passOn src dst r
  | some g =>
    if r.openBit || r.seq = g.expect then s.passOn src dst r
    else s.modReq r.id (fun q => { q with lost := true })

/-- E2E_REQUEST_ARRIVAL (R386): a request that has been performed is a duplicate, and its acknowledgement is sent again
(R240). -/
def State.e2eArrive (s : State) (src dst seq : Nat) : State :=
  match s.atRequest src dst seq with
  | none => s
  | some r =>
    match r.phase with
    | .done => s.plan (.e2eAck src dst seq)
    | .transit =>
      if r.lost then s
      else match s.reqWay r with
        | .through =>
          (if 2 ^ 20 ≤ dst then s.sendFrame src dst 0 r.openBit r.seq [r.beat] else s).admitReq src dst r
        | .waits => s.plan (.e2eRequestArrival src dst seq)
        | .drops d m => (s.modLink d m (fun l => { l with dropped := l.dropped + 1 })).modReq r.id (fun q => { q with lost := true })
        | .nowhere => s.modReq r.id (fun q => { q with lost := true })
    | _ => s

/-- E2E_REQUEST_ARRIVAL (R386). -/
def execE2eRequestArrival (src dst seq : Nat) (s : State) : Host.Outcome State Fault Refusal := .next (s.e2eArrive src dst seq)

/-! Acknowledgements (R387). -/

/-- Has request n of a stream completed its destination step? -/
def State.completed (s : State) (src dst n : Nat) : Bool :=
  !s.reqs.any (fun r => r.src = src && r.dst = dst && r.seq = n && r.phase ≠ .done && r.phase ≠ .egress)

/-- The acknowledgement of one request at its source: a store's goes to the context, a drain token lets the change of path take
effect (R384), other copies are dropped. -/
def State.ackReq (s : State) (r : Req) : State :=
  match r.kind with
  | .store _ _ => s.plan (.storeAck r.id)
  | .load _ _ _ _ => s
  | .sc _ _ => s
  | .amo _ _ _ _ _ _ => s
  | .msg _ _ => { s with reqs := s.reqs.filter (fun q => q.id != r.id) }
  | .token _ => { s with reqs := s.reqs.filter (fun q => q.id != r.id) }
  | .drain d =>
    let s := { s with reqs := s.reqs.filter (fun q => q.id != r.id) }
    s.modChip r.src (fun c => { c with draining := tdel d c.draining })

/-- The numbers of a list up to and with n. -/
def upTo (n : Nat) : List Nat → List Nat
  | [] => []
  | m :: r => if m = n then [m] else m :: upTo n r

/-- E2E_ACK (R387): cumulative up to seq, as far as requests have completed. -/
def State.e2eAcked (s : State) (src dst seq : Nat) : State :=
  let t := s.stream src dst
  if !t.unacked.contains seq then s
  else
    let got := (upTo seq t.unacked).takeWhile (s.completed src dst)
    if got.isEmpty then s
    else
      let rs := s.reqs.filter (fun r => r.src = src && r.dst = dst && r.phase = .done && got.contains r.seq)
      let s := s.setStream src dst { t with unacked := t.unacked.drop got.length, counted := 0 }
      let s := (rs.foldl (fun s r => s.ackReq r) s).departAll
      if (s.stream src dst).unacked.isEmpty then s.plan (.e2eCloseMarker src dst) else s

/-- E2E_ACK (R387). -/
def execE2eAck (src dst seq : Nat) (s : State) : Host.Outcome State Fault Refusal := .next (s.e2eAcked src dst seq)

/-- E2E_CLOSE_MARKER (R386): a stream with nothing outstanding is closed and its entry freed. -/
def State.closeStream (s : State) (src dst : Nat) : State :=
  let t := s.stream src dst
  if t.opened && t.unacked.isEmpty && !s.reqs.any (fun r => r.src = src && r.dst = dst) &&
      (tfind dst (s.chip src).draining).isNone then
    { s.setStream src dst { t with opened := false } with ingress := tdel (streamKey src dst) s.ingress }
  else s

/-- E2E_CLOSE_MARKER (R386). -/
def execE2eCloseMarker (src dst : Nat) (s : State) : Host.Outcome State Fault Refusal := .next (s.closeStream src dst)

/-! Resends (R387). -/

/-- Requests of a stream travel on the path now in force, in sequence order; while the entry is NONE their timers run on and they
stay where they are (R383, R387). -/
def State.travel (s : State) (src dst : Nat) (ns : List Nat) : State :=
  let held := s.heldAt src dst
  let now := (s.chip src).time
  ns.foldl (fun s n =>
    let s := { s with reqs := s.reqs.map (fun (r : Req) =>
        if r.src = src && r.dst = dst && r.seq = n && r.phase ≠ ReqPhase.egress then
          { r with lost := if r.phase = ReqPhase.transit then held else r.lost, path := s.nselTo src dst, sentAt := now }
        else r) }
    if held then s else s.plan (.e2eRequestArrival src dst n)) s

/-- The unacknowledged requests of a stream from one on are sent again. -/
def State.resendFrom (s : State) (src dst : Nat) (ns : List Nat) : State :=
  let n := if s.heldAt src dst then 0 else ns.length
  (s.travel src dst ns).modChip src (fun c => { c with resends := (c.resends + n) % 2 ^ 32 })

/-- The access of a command has ended without an acknowledgement: the command fails (R389, R175, R196). -/
def State.engineTimeout (s : State) (k : Nat) (cmd : Option (Nat × Nat × Nat)) (va : Word) : State :=
  let fail (h : CmdHead) (st : CmdState) : CmdState := match cmd with
    | some c => if cOpcode h.word = c.1 && h.seq = c.2.1 then .failed cTRANSPORT_TIMEOUT va else st
    | none => st
  let c := s.core k
  let heads := ((c.copyQ.map (·.hd)) ++ (c.mat.queue.map (·.hd)) ++ (c.collQ.map (·.hd)) ++ (c.sweepQ.map (·.hd))).filter (fun h =>
    cmd = some (cOpcode h.word, h.seq, h.ctx))
  if heads.isEmpty then s.svcLog k cTRANSPORT_TIMEOUT 0
  else
    let s := s.modCore k (fun c => { c with
      copyQ := c.copyQ.map (fun (x : CopyCmd) => { x with st := fail x.hd x.st }),
      mat := { c.mat with queue := c.mat.queue.map (fun (x : MatCmd) => { x with st := fail x.hd x.st }) },
      collQ := c.collQ.map (fun (x : CollCmd) => { x with st := fail x.hd x.st }),
      sweepQ := c.sweepQ.map (fun (x : SweepCmd) => { x with st := fail x.hd x.st }) })
    heads.foldl (fun s h => s.planCmd k h) s

/-- A store of a strand that has ended is lost: a strand of its group that is still bound takes the pending error, otherwise the service
core's log counts it (DESIGN CHOICE, log entry 100). -/
def State.heirLoses (s : State) (r : Req) (err : PendErr) : State :=
  let heirs : List Nat := match r.group with
    | some (kid, g) => (match s.kernel? kid with
      | some x => if (x.group g).bound && (x.group g).core = r.core then s.strandsOf r.core (x.group g).slot else []
      | none => [])
    | none => []
  match heirs with
  | n :: _ => ((s.modCtx r.core n (fun c => { c with xportErr := c.xportErr.or (some err) })).tick).wakeUnits r.core
  | [] => (s.svcLog r.core cTRANSPORT_TIMEOUT 0).pokeDispatcher (chipOf r.core)

/-- A message ends without an acknowledgement: one of a context or of a command is refused, another word of hardware is reported to the
management core of the source's row (R389). -/
def State.endMsg (s : State) (k uid : Nat) : State :=
  match s.msg? k uid with
  | none => s
  | some m =>
    if m.frm.refusable then s.refuseAll k uid cTRANSPORT_TIMEOUT
    else (s.svcLog (s.westMgmt (dieOf k)) cTRANSPORT_TIMEOUT uid).leaveWindow k uid

/-- A request ends without an acknowledgement (R389, R242). -/
def State.endReq (s : State) (r : Req) : State :=
  let s := { s with reqs := s.reqs.filter (fun q => q.id != r.id) }
  let waits : Bool := (s.ctx r.core r.ctx).wait = .reply r.id
  let trapReply (s : State) : State :=
    if waits then s.takeTrap r.core r.ctx cTRANSPORT_TIMEOUT r.va 0 (s.ctx r.core r.ctx).pc else s
  let s := s.nudge r.core
  match r.kind with
  | .store _ strong =>
    let err : PendErr := { cause := cTRANSPORT_TIMEOUT, eaddr := r.va, einfo := 0, stamp := s.clock }
    if r.ctx = 8 then s.engineTimeout r.core r.cmd r.va
    else if r.ctx = endedCtx then s.heirLoses r err
    else if strong then trapReply s
    else
      ((s.modCtx r.core r.ctx (fun c => { c with
        unacked := (s.storesOf r.core r.ctx).length, xportErr := c.xportErr.or (some err) })).tick).wakeUnits r.core
  | .load _ _ _ _ => trapReply s
  | .sc _ _ => trapReply s
  | .amo _ _ _ _ _ _ => trapReply s
  | .msg k uid => s.endMsg k uid
  | .drain d => s.modChip r.src (fun c => { c with draining := tdel d c.draining })
  | .token i => s.tokenLost r.src i

/-- A stream gives up, or receives a reset reply: every unacknowledged request ends; the stream reopens with its next request (R389). -/
def State.giveUp (s : State) (src dst : Nat) : State :=
  let t := s.stream src dst
  let rs := s.reqs.filter (fun r => r.src = src && r.dst = dst && r.phase ≠ .egress && t.unacked.contains r.seq)
  let s := s.setStream src dst { Stream.closed with next := t.next, down := decide (2 ^ 20 ≤ dst) }
  let s := s.modChip src (fun c => { c with giveups := min (c.giveups + 1) 65535 })
  (rs.foldl (fun s r => s.endReq r) s).departAll

/-- No acknowledgement has covered a stream's oldest request within tmo of its last sending (R31, R387). -/
def State.e2eDue (s : State) (src dst : Nat) : Bool :=
  match (s.stream src dst).unacked with
  | [] => false
  | n :: _ => s.reqs.any (fun r => r.src = src && r.dst = dst && r.seq = n && r.phase ≠ .egress &&
      passed (s.chip src).time r.sentAt (BitVec.ofNat 64 ((s.chip src).e2eTmo * 1000 * 65536)))

/-- E2E_TIMEOUT (R387, R389): a counted resend, or the end of the stream when the limit has been reached. -/
def State.e2eTimedOut (s : State) (src dst : Nat) : State :=
  let t := s.stream src dst
  if !s.e2eDue src dst then s
  else if (s.chip src).e2eLimit ≤ t.counted then s.giveUp src dst
  else (s.setStream src dst { t with counted := t.counted + 1 }).resendFrom src dst t.unacked

/-- E2E_TIMEOUT (R387). -/
def execE2eTimeout (src dst : Nat) (s : State) : Host.Outcome State Fault Refusal := .next (s.e2eTimedOut src dst)

/-- Has busy_gap passed since a stream was told that the ingress is busy (R386)? -/
def State.busyOver (s : State) (src : Nat) (t : Stream) : Bool :=
  t.busy && passed (s.chip src).cycle t.busyAt (BitVec.ofNat 64 (s.chip src).e2eBusy)

/-- E2E_BUSY_RESEND (R386): after busy_gap, and not counted. -/
def execE2eBusyResend (src dst : Nat) (s : State) : Host.Outcome State Fault Refusal :=
  .next (let t := s.stream src dst
    if s.busyOver src t then (s.setStream src dst { t with busy := false }).resendFrom src dst t.unacked else s)

/-- E2E_RESET_REPLY (R386): the source has a stream open that the ingress has no entry for. -/
def execE2eResetReply (src dst : Nat) (s : State) : Host.Outcome State Fault Refusal :=
  .next (if (s.stream src dst).opened && (tfind (streamKey src dst) s.ingress).isNone then s.giveUp src dst else s)

/-- GAP_NOTICE (R397): the resend starts at the named sequence, if it is unacknowledged, and is not counted. -/
def execGapNotice (src dst seq : Nat) (s : State) : Host.Outcome State Fault Refusal :=
  .next (s.resendFrom src dst ((s.stream src dst).unacked.dropWhile (fun n => n != seq)))

/-! The network-select table (R383, R384). -/

/-- May the entry for die d of a chiplet hold the value? -/
def State.nselOk (s : State) (die d : Nat) (v : Word) : Bool :=
  let way := bits v 13 4
  match bits v 1 0 with
  | 2 => decide (way < s.grade) && way ≠ die && way ≠ d
  | 3 => d ≠ die
  | _ => true

/-- The path that a value of an entry names. -/
def nselPath (v : Word) : Nat := if bits v 1 0 = 2 then bits v 13 0 else bits v 1 0

/-- A drain token on its way to die d, on the old path behind every request sent (R239, R384). -/
def State.sendDrain (s : State) (die d : Nat) (old : Word) : State :=
  let t := s.stream die d
  let r : Req := { Req.fresh s.clock (if die < 512 then svcOfClu (die * 132) else mgmtKey die) 8 0 die d 0 (.drain d) with
                   seq := t.next, phase := .transit, path := old, sentAt := (s.chip die).time }
  let s := (s.setStream die d { t with next := (t.next + 1) % 65536, unacked := t.unacked ++ [t.next] }).modChip die (fun c =>
    { c with draining := tset d old c.draining })
  (({ s with reqs := s.reqs ++ [r] }).tick).plan (.e2eRequestArrival die d t.next)

/-- LNK_NSEL_WRITE (R383, R384): an invalid entry is ignored and counted. -/
def State.nselWrite (s : State) (die d : Nat) (v : Word) : State :=
  if 1024 ≤ d then s
  else if !s.nselOk die d v then s.chipLog die 0 d
  else
    let old := s.nsel die d
    let new : Word := BitVec.ofNat 64 (bits v 13 4 * 16 + bits v 2 0)
    let s := s.modChip die (fun c => { c with nsel := tset d new c.nsel })
    let s := if nselPath old = nselPath new || (tfind d (s.chip die).draining).isSome then s
      else if d = die then
        -- the routers of the chiplet pass a drain token each, behind what travels inside it
        if s.inDie die then s.modChip die (fun c => { c with draining := tset d old c.draining }) else s
      else if bits old 1 0 = 3 then
        s.travel die d ((s.stream die d).unacked.filter (fun n => s.reqs.any (fun r =>
          r.src = die && r.dst = d && r.seq = n && r.phase = .transit && bits r.path 1 0 = 3)))
      else if !(s.stream die d).unacked.isEmpty then s.sendDrain die d old
      else s
    s.departAll

/-- LNK_NSEL_WRITE (R384). -/
def execLnkNselWrite (die d : Nat) (v : Word) (s : State) : Host.Outcome State Fault Refusal := .next (s.nselWrite die d v)

end Sys2Proof.Machine
end

