-- ==== Sys2Proof/Machine/Link.lean ====
section
/-! DEFINITION. Die-to-die link modules (R390-R398) and the discipline of time (R31, R32): states, training, events, lost flits
and beats. -/

namespace Sys2Proof.Machine

/-! States, coded as LNK_STATE codes them (R395). -/

def lTRAINING : Nat := 0
def lACTIVE : Nat := 1
def lDEGRADED : Nat := 2
def lPAUSED : Nat := 3
def lRETRAINING : Nat := 4
def lFAILED : Nat := 5

/-- The other end of a link: die and module (R391). -/
def State.farEnd (s : State) (die m : Nat) : Option (Nat × Nat) :=
  let g := s.gridOf die
  let i := m % 12
  if die < 512 then
    if s.notcon die m then none
    else match m / 12 with
      | 0 => (s.chipAt g.1 (g.2 - 1)).map (fun c => (c, 24 + i))
      | 1 => if g.1 = 31 then some (592 + g.2, 36 + i) else (s.chipAt (g.1 + 1) g.2).map (fun c => (c, 36 + i))
      | 2 => (s.chipAt g.1 (g.2 + 1)).map (fun c => (c, i))
      | _ => if g.1 = 0 then some (576 + g.2, 12 + i) else (s.chipAt (g.1 - 1) g.2).map (fun c => (c, 12 + i))
  else if 576 ≤ die && die < 592 && m / 12 = 1 then (s.chipAt 0 g.2).map (fun c => (c, 36 + i))
  else if 592 ≤ die && die < 608 && m / 12 = 3 then (s.chipAt 31 g.2).map (fun c => (c, 12 + i))
  else none

def State.linkNotcon (s : State) (die m : Nat) : Bool := (s.farEnd die m).isNone

/-- LNK_STATE.state as it reads: FAILED without a far end. -/
def State.linkState (s : State) (die m : Nat) : Nat := if s.linkNotcon die m then lFAILED else (s.link die m).state

/-- Both ends of a link. -/
def State.ends (s : State) (die m : Nat) : List (Nat × Nat) := (die, m) :: (s.farEnd die m).toList

def State.modEnds (s : State) (die m : Nat) (f : Link → Link) : State :=
  (s.ends die m).foldl (fun s e => s.modLink e.1 e.2 f) s

/-! Events to the owner (R391, R396). -/

/-- Places along an edge by distance from i, the lower index first. -/
def nearest (i : Nat) : List Nat :=
  i :: (natsFrom 1 11).flatMap (fun d => (if d ≤ i then [i - d] else []) ++ (if i + d < 12 then [i + d] else []))

/-- The core that owns a module: the service core of the cluster at its boundary site, or nearest to it along the edge. An edge without
a logical cluster, such as unlent column-11 spares, goes on to the line of sites inward; an edge chiplet's modules belong to its management
core (DEDUCED, log entry 63). -/
def State.linkOwner (s : State) (die m : Nat) : Nat :=
  if 512 ≤ die then mgmtKey die
  else
    let l := (s.trust.layout (s.trust.siteOfChip die)).getD cleanLayout
    let place (d j : Nat) : Nat := match m / 12 with
      | 0 => 12 * d + j
      | 1 => 12 * j + (11 - d)
      | 2 => 12 * (11 - d) + j
      | _ => 12 * j + d
    match (natsFrom 0 12).findSome? (fun d => (nearest (m % 12)).findSome? (fun j => l.findIdx? (fun c => c = place d j))) with
    | some c => svcOfClu (die * 132 + c)
    | none => s.trust.mgmtOfChip die

/-- The event word (R396). -/
def linkWord (info code state cause m : Nat) : Word :=
  BitVec.ofNat 64 (info % 2 ^ 32 * 2 ^ 32 + code * 2 ^ 28 + state * 2 ^ 16 + cause * 2 ^ 8 + m)

def State.linkEvent (s : State) (die m code info : Nat) : State :=
  if !(s.link die m).evtEn then s
  else
    let o := s.linkOwner die m
    s.sendHw o 8 o 28 [linkWord info code (s.linkState die m) (if code = 3 || code = 4 then cLINK_DATA_LOSS else 0) m] .hardware

/-- Both ends move to a state, and each end that has changed tells its owner (R392, R396, R461). -/
def State.moveEnds (s : State) (die m : Nat) (f : Link → Link) : State :=
  let moved := (s.ends die m).filter (fun e => (f (s.link e.1 e.2)).state ≠ (s.link e.1 e.2).state)
  moved.foldl (fun s e => s.linkEvent e.1 e.2 1 0) (s.modEnds die m f)

/-! Failure and commands (R392, R393). -/

/-- Flits on or held for a link that has FAILED are dropped and counted, each at the end it was to leave by. -/
def State.dropFlits (s : State) (die m : Nat) : State :=
  let crossing (e : Nat × Nat) : List Nat := (s.reqs.filter (fun r => r.phase = .transit && !r.lost &&
    ((s.reqLinks r).getD []).contains e)).map (·.id)
  let hits := (s.ends die m).map (fun e => (e, crossing e))
  let gone := hits.flatMap (·.2)
  let s := { s with reqs := s.reqs.map (fun (r : Req) => if gone.contains r.id then { r with lost := true } else r) }
  hits.foldl (fun s h => s.modLink h.1.1 h.1.2 (fun l => { l with dropped := (l.dropped + h.2.length) % 2 ^ 32 })) s

/-- Both ends are FAILED. -/
def State.linkFailed (s : State) (die m : Nat) : State :=
  (s.moveEnds die m (fun l => { l with state := lFAILED, pausing := false, attempts := 0, taken := none })).dropFlits die m

/-- A pause begins: new flits are held in both directions. -/
def State.linkPause (s : State) (die m : Nat) : State :=
  let st := s.linkState die m
  if (st = lACTIVE || st = lDEGRADED) && !(s.link die m).pausing then
    (s.modEnds die m (fun l => { l with pausing := true })).plan (.linkPauseComplete die m)
  else s

/-- A link end in RETRAINING: the lane map and force32 are taken from the registers. -/
def Link.retraining (l : Link) (fromPaused : Bool) : Link :=
  { l with state := lRETRAINING, fromPaused := fromPaused, pausing := false, attempts := 0, taken := some (l.lanemap, l.force32) }

def State.linkRetrain (s : State) (die m : Nat) : State :=
  let st := (s.link die m).state
  if !s.linkNotcon die m && (st = lPAUSED || st = lFAILED) then
    s.moveEnds die m (fun l => l.retraining true)
  else s

/-- The state of a working link, by its trained width. -/
def Link.working (l : Link) : Nat := if l.x32 then lDEGRADED else lACTIVE

def State.linkResume (s : State) (die m : Nat) : State :=
  if s.linkState die m = lPAUSED then s.moveEnds die m (fun l => { l with state := l.working, pausing := false }) else s

def State.linkFail (s : State) (die m : Nat) : State := if s.linkState die m = lFAILED then s else s.linkFailed die m

/-- A command of LNK_CTL (R395). -/
def State.linkCommand (s : State) (die m cmd : Nat) : State :=
  match cmd with
  | 1 => s.linkPause die m
  | 2 => s.linkRetrain die m
  | 3 => s.linkResume die m
  | 4 => s.linkFail die m
  | _ => s

/-- LNK_PAUSE (R392). -/
def execLnkPause (die m : Nat) (s : State) : Host.Outcome State Fault Refusal := .next (s.linkPause die m)

/-- LNK_RETRAIN (R392). -/
def execLnkRetrain (die m : Nat) (s : State) : Host.Outcome State Fault Refusal := .next (s.linkRetrain die m)

/-- LNK_RESUME (R392). -/
def execLnkResume (die m : Nat) (s : State) : Host.Outcome State Fault Refusal := .next (s.linkResume die m)

/-- LNK_FAIL (R392). -/
def execLnkFail (die m : Nat) (s : State) : Host.Outcome State Fault Refusal := .next (s.linkFail die m)

/-- LINK_PAUSE_COMPLETE (R392): every flit sent has been acknowledged by the far adapter. -/
def execLinkPauseComplete (die m : Nat) (s : State) : Host.Outcome State Fault Refusal :=
  .next (let st := s.linkState die m
    if (s.link die m).pausing && (st = lACTIVE || st = lDEGRADED) then
      s.moveEnds die m (fun l => { l with state := lPAUSED, pausing := false })
    else s)

/-- LINK_RETRY_EXHAUSTED (R392): eight link-level retries of one flit have failed, or the far adapter asks for retraining. -/
def execLinkRetryExhausted (die m : Nat) (s : State) : Host.Outcome State Fault Refusal :=
  .next (let st := s.linkState die m
    if st = lACTIVE || st = lDEGRADED then
      s.moveEnds die m (fun l => l.retraining false)
    else s)

/-! Training (R394). -/

/-- Bad lanes of a map within a half: 0 lanes 0-31, 1 lanes 32-63. -/
def badIn (lanes : BitVec 64) (half : Nat) : Nat := ((natsFrom (32 * half) 32).filter (fun i => lanes.getLsbD i)).length

/-- How a lane map trains: width ×32 or not, the half, and redundant lanes in use; none when training fails (DEDUCED, log entry 62). -/
def trainAs (lanes : BitVec 64) (force32 : Bool) : Option (Bool × Bool × Nat) :=
  let a := badIn lanes 0
  let b := badIn lanes 1
  let best := if a ≤ b then (false, a) else (true, b)
  if a + b ≤ 4 then (if force32 then some (true, best.1, best.2) else some (false, false, a + b))
  else if best.2 ≤ 4 then some (true, best.1, best.2)
  else none

/-- Lanes that an attempt has found bad are set in the map. -/
def Link.lanesBad (l : Link) (bad : BitVec 64) : Link :=
  { l with lanemap := l.lanemap ||| bad, taken := l.taken.map (fun t => (t.1 ||| bad, t.2)) }

/-- The lane map and force32 that training uses at an end: those a retraining has taken, otherwise the registers'. -/
def Link.training (l : Link) : BitVec 64 × Bool := l.taken.getD (l.lanemap, l.force32)

/-- LINK_TRAINING_DONE (R392, R394, R461): one attempt ends, with the lanes found bad at each end. The link trains at ×32
when either receive direction asks for it, each receiver on its own half. -/
def State.trained (s : State) (die m : Nat) (bad badFar : BitVec 64) : State :=
  let st := s.linkState die m
  if !(st = lTRAINING || st = lRETRAINING) then s
  else
    let s := s.modLink die m (fun l => l.lanesBad bad)
    let s := match s.farEnd die m with
      | some e => s.modLink e.1 e.2 (fun l => l.lanesBad badFar)
      | none => s
    let as := (s.ends die m).map (fun e => let t := (s.link e.1 e.2).training; trainAs t.1 t.2)
    if as.all Option.isSome then
      let x32 := as.any (fun a => match a with
        | some t => t.1
        | none => false)
      let s := s.modEnds die m (fun l => match trainAs l.training.1 x32 with
        | some (_, half, spares) => { l with x32 := x32, half := half, spares := spares }
        | none => l)
      let s := s.modEnds die m (fun l => { l with trains := min (l.trains + 1) 255, attempts := 0, taken := none })
      let work := if x32 then lDEGRADED else lACTIVE
      let toPaused : Bool := st = lRETRAINING && (s.link die m).fromPaused
      s.moveEnds die m (fun l => { l with state := if toPaused then lPAUSED else work })
    else if (s.link die m).attempts + 1 < 3 then s.modEnds die m (fun l => { l with attempts := l.attempts + 1 })
    else s.linkFailed die m

/-- LINK_TRAINING_DONE (R394). -/
def execLinkTrainingDone (die m : Nat) (bad badFar : BitVec 64) (s : State) : Host.Outcome State Fault Refusal :=
  .next (s.trained die m bad badFar)

/-! Retries (R395, R396). -/

/-- LNK_RETRY_THRESHOLD (R395): at most one event in a window. -/
def State.retryThreshold (s : State) (die m : Nat) : State :=
  let l := s.link die m
  if l.thr ≠ 0 && decide (l.thr.toNat ≤ l.windowCnt) && !l.windowSent then
    (s.modLink die m (fun l => { l with windowSent := true })).linkEvent die m 0 l.retryCnt.toNat
  else s

/-- LNK_RETRY_THRESHOLD (R395). -/
def execLnkRetryThreshold (die m : Nat) (s : State) : Host.Outcome State Fault Refusal := .next (s.retryThreshold die m)

/-- The number of the counting window that a time lies in, from the last wrap of elvtime on (R31, R395). -/
def Link.windowOf (l : Link) (t : Word) : Nat := bits t 63 16 / (1000 * l.windowUs)

/-- Has the window of the retries counted ended: elvtime is in another one, or has wrapped (R31, R395)? -/
def State.windowOver (s : State) (die m : Nat) : Bool :=
  let l := s.link die m
  let now := (s.chip die).time
  l.windowOf now ≠ l.windowOf l.windowAt || passed now l.windowAt (BitVec.ofNat 64 (1000 * l.windowUs * 65536))

/-- A window that has ended is cleared. -/
def State.closeWindow (s : State) (die m : Nat) : State :=
  if s.windowOver die m then
    s.modLink die m (fun l => { l with windowCnt := 0, windowSent := false, windowAt := (s.chip die).time })
  else s

/-- LNK_RETRY_WINDOW_END (R31, R395): the window has ended by elvtime. -/
def execLnkRetryWindowEnd (die m : Nat) (s : State) : Host.Outcome State Fault Refusal := .next (s.closeWindow die m)

/-- FLIT_CRC_ERROR (R395, R397): the receiver counts a link-level retry and notes the lanes; a count that reaches the
threshold raises its event. -/
def execFlitCrcError (die m : Nat) (lanes : BitVec 64) (s : State) : Host.Outcome State Fault Refusal :=
  .next ((((s.closeWindow die m).modLink die m (fun l => { l with
    retryCnt := l.retryCnt + 1, errlane := l.errlane ||| lanes, windowCnt := l.windowCnt + 1 })).lifeCount
      (lifeRetry die m)).retryThreshold die m)

/-! Lost flits and beats (R397, R398). -/

/-- The requests that a flit's beats name are lost on their way. -/
def State.loseBeats (s : State) (beats : List (Nat × Nat × Nat)) : State :=
  { s with reqs := s.reqs.map (fun (r : Req) =>
      if r.phase = ReqPhase.transit && beats.contains (r.src, r.dst, r.seq) then { r with lost := true } else r) }

/-- FLIT_REPLAY (R397). -/
def State.replayFlit (s : State) (die m corrected : Nat) (dataOk metaOk : Bool) (beats : List (Nat × Nat × Nat)) : State :=
  let s := s.modLink die m (fun l => { l with corrected := (l.corrected + corrected) % 2 ^ 32 })
  if dataOk then s
  else
    let s := s.loseBeats beats
    if metaOk then
      let s := (s.modLink die m (fun l => { l with gaps := (l.gaps + 1) % 2 ^ 32 })).lifeCount (lifeGap die m)
      let s := s.plans (beats.map (fun (b : Nat × Nat × Nat) => .gapNotice b.1 b.2.1 b.2.2))
      match beats with
      | b :: _ => s.linkEvent die m 2 (b.2.2 * 2 ^ 16 + b.1 % 1024)
      | [] => s.linkEvent die m 2 0
    else s.linkEvent die m 3 0

/-- FLIT_REPLAY (R397). -/
def execFlitReplay (die m : Nat) (corrected : Nat) (dataOk metaOk : Bool) (beats : List (Nat × Nat × Nat)) (s : State) :
    Host.Outcome State Fault Refusal := .next (s.replayFlit die m corrected dataOk metaOk beats)

/-- Every core of a chiplet stops for a cause, with its notice to the management core (R259, R398, R437). -/
def State.stopChip (s : State) (chip cause : Nat) : State :=
  let dst := s.trust.mgmtOfChip chip
  let s := (natsFrom (chip * 2244) 2244).foldl (fun s k =>
    let c := s.core k
    if c.stopped then s
    else (s.modCore k (fun c => { c with stopped := true, stopCause := cause })).monitorNotice k dst cause) s
  s.pokeDispatcher chip

/-- BEAT_LOST (R398) (DEDUCED, log entry 66). -/
def State.beatLost (s : State) (chip cluster : Nat) : State :=
  let svc := coreKey chip cluster 16
  let s := s.sendHw svc 8 svc 28 [linkWord 0 4 (s.linkState chip 0) cLINK_DATA_LOSS 0] .hardware
  s.stopChip chip cMACHINE_CHECK

/-- BEAT_LOST (R398). -/
def execBeatLost (chip cluster : Nat) (s : State) : Host.Outcome State Fault Refusal := .next (s.beatLost chip cluster)

/-- BEAT_LINK_LEVEL_RETRY (R398): the beat goes again from the sender's buffer, or is lost when that copy is bad too. -/
def execBeatLinkLevelRetry (chip cluster : Nat) (copyOk : Bool) (s : State) : Host.Outcome State Fault Refusal :=
  .next (if copyOk then s else s.beatLost chip cluster)

/-! Time (R31, R32). -/

/-- Has a die entered service, so that corrections may only slew its time (R31)? -/
def State.slews (s : State) (die : Nat) : Bool :=
  match (s.die die).state with
  | .active | .degraded | .gated => true
  | _ => false

/-- The time after an exchange: stepped to the reference before service; afterwards moved towards it by at most 500 ppm of the
time since the last exchange, and never back. -/
def State.corrected (s : State) (die : Nat) (ref : Word) : Word :=
  let c := s.chip die
  if !s.slews die then ref
  else
    let ahead := (ref - c.time).toNat
    if 2 ^ 63 ≤ ahead then c.time
    else c.time + BitVec.ofNat 64 (min ahead ((c.time - c.lastSync).toNat / 2000))

/-- What an exchange measures: the time of the trust die, which holds the module reference, with an error within the bound; the trust
die itself hears of the reference of the domain from outside (R31) (DESIGN CHOICE, log entry 82). -/
def State.measured (s : State) (die : Nat) (ref : Word) (boundPs : Nat) : Word :=
  if die = 608 then ref
  else (s.chip 608).time + (if ref.toInt.natAbs * 1000 ≤ boundPs * 65536 then ref else 0)

/-- TIME_SYNC_EXCHANGE (R31, R32). -/
def State.timeSync (s : State) (die : Nat) (ref : Word) (boundPs : Nat) : State :=
  let t := s.corrected die (s.measured die ref boundPs)
  let cap := if (tget 0 0 (s.chip die).dom).getLsbD 20 then 40000 else 4000
  s.modChip die (fun c => { c with time := t, lastSync := t, holdover := false, boundPs := min boundPs cap })

/-- TIME_SYNC_EXCHANGE (R31). -/
def execTimeSyncExchange (die : Nat) (ref : Word) (boundPs : Nat) (s : State) : Host.Outcome State Fault Refusal :=
  .next (s.timeSync die ref boundPs)

/-- 10 ms of elvtime. -/
def tenMs : Word := 655360000000

/-- HOLDOVER_ENTER (R32): no exchange has succeeded for 10 ms. -/
def execHoldoverEnter (die : Nat) (s : State) : Host.Outcome State Fault Refusal :=
  .next (let c := s.chip die
    if !c.holdover && passed c.time c.lastSync tenMs then s.modChip die (fun c => { c with holdover := true }) else s)

end Sys2Proof.Machine
end

