-- ==== Sys2Proof/Machine/Scaleout.lean ====
section
/-! DEFINITION. Frames from peer modules at a scale-out port (R400-R402): checks, requests performed here, and control of this
module's own streams. -/

namespace Sys2Proof.Machine

/-- A field of a frame: n bytes from byte i. -/
def frameField (bs : List Byte) (i n : Nat) : Nat := leNat ((bs.drop i).take n)

/-- A frame is taken only if its addresses and type are the port's, its version is 1 and its reserved bytes are zero. -/
def State.frameOk (s : State) (die p : Nat) (bs : List Byte) : Bool :=
  let c := s.chip die
  let n := frameField bs 26 1
  decide (bs.length = 46 + 80 * n) && decide (n ≤ 114) &&
    frameField bs 0 6 = (tget 0 p c.macs).toNat && frameField bs 12 1 * 256 + frameField bs 13 1 = c.etype &&
    frameField bs 14 1 % 16 = 1 && decide (frameField bs 14 1 / 16 ≤ 5) && decide (frameField bs 15 1 ≤ 1) &&
    frameField bs 18 2 = c.selfModule && frameField bs 27 19 = 0

/-- The key of the entry that this module's ingress holds for a stream of a peer. -/
def peerKey (smod sdie ddie : Nat) : Nat := 2 ^ 40 + (smod * 1024 + sdie) * 1024 + ddie

/-- A message from a peer that has room in its channel; one for a core that is gone has no effect. -/
def State.peerMessage (s : State) (dst chan : Nat) (ws : List Word) : State :=
  match coreOfIdent s.grade dst with
  | some k => if ws.length ≤ (s.chan k chan).free && (s.chan k chan).reqs.isEmpty && !s.coreGone k then s.append k chan ws else s
  | none => s

/-- Does a message beat find no room at a core that could take it? It is then dropped, and the peer sends it again (R387; DEDUCED, log
entry 64). -/
def State.peerWaits (s : State) (b : List Byte) : Bool :=
  let code := frameField b 2 1
  let attr := frameField b 4 4
  (code = 0x05 || code = 0x06) &&
    (match coreOfIdent s.grade (frameField b 8 8 % 2 ^ 32) with
     | some k => !s.coreGone k && !(decide (attr / 2 ^ 8 % 4 + 1 ≤ (s.chan k (attr / 8 % 32)).free) && (s.chan k (attr / 8 % 32)).reqs.isEmpty)
     | none => false)

/-- The access of a beat to this module's DRAM; another target is counted and has no effect. -/
def State.peerPlaces (s : State) (pa n : Nat) : List Loc :=
  let ls := (natsFrom pa n).map (fun a => s.locOfKey a 0)
  if ls.all (fun l => l.kind = .dram) then ls else []

/-- A request beat is performed, with its reply (R387, R401) (DEDUCED, log entry 64). -/
def State.peerBeat (s : State) (die : Nat) (b : List Byte) : State × List Byte :=
  let code := frameField b 2 1
  let n := frameField b 3 1 % 128
  let attr := frameField b 4 4
  let target := frameField b 8 8
  let pay := b.drop 16
  let ls := s.peerPlaces target n
  let k := mgmtKey die
  match code with
  | 0x01 => (s, ls.map s.byteAt)
  | 0x07 => (s, ls.map s.byteAt)
  | 0x02 => (if ls.isEmpty then s.chipLog die 0 target else s.perform outsideCore 8 (ls.zip pay), [])
  | 0x03 => (if ls.isEmpty then s.chipLog die 0 target else s.perform outsideCore 8 (ls.zip pay), [])
  | 0x08 => (if ls.isEmpty then s.chipLog die 0 target else s.perform outsideCore 8 (ls.zip pay), [])
  | 0x04 =>
    let dbl := attr / 2 ^ 14 % 2 = 1
    let ls := s.peerPlaces target (if dbl then 8 else 4)
    let op : AmoOp := match attr / 2 ^ 10 % 16 with
      | 0 => .add | 1 => .swap | 2 => .and | 3 => .or | 4 => .xor | 5 => .min | 6 => .max | 7 => .minu | 8 => .maxu | _ => .cas
    if ls.isEmpty then (s.chipLog die 0 target, [])
    else
      let r := s.amoAt k 8 ls op dbl (imgWord pay 0) (imgWord pay 1)
      (r.2, leBytes 8 r.1.toNat)
  | 0x05 => (s.peerMessage (target % 2 ^ 32) (attr / 8 % 32) ((natsFrom 0 (attr / 2 ^ 8 % 4 + 1)).map (imgWord pay)), [])
  | 0x06 => (s.peerMessage (target % 2 ^ 32) (attr / 8 % 32) ((natsFrom 0 (attr / 2 ^ 8 % 4 + 1)).map (imgWord pay)), [])
  | _ => (s, [])

/-- The answer to request seq of a peer's stream: the reply, where the request has one, and the cumulative acknowledgement (R240, R387). -/
def State.answerPeer (s : State) (ddie dst seq acked : Nat) (reply : List Byte) : State :=
  let s := if reply.isEmpty then s else s.sendFrame ddie dst 0 false seq [frameBeat seq 0x80 (min reply.length 64) 0 0 reply]
  s.sendFrame ddie dst 1 false acked []

/-- A request beat at the ingress (R386), with the open bit of the frame for the first. -/
def State.peerRequest (s : State) (die smod sdie ddie : Nat) (opened : Bool) (b : List Byte) : State :=
  let seq := frameField b 0 2
  let key := peerKey smod sdie ddie
  let dst := peerDst smod sdie
  let pass (s : State) (g : Ingress) : State :=
    if s.peerWaits b then s else
    let r := s.peerBeat die b
    let s := { r.1 with ingress := tset key { expect := (seq + 1) % 65536, replies := tset (seq % 32) r.2 g.replies } r.1.ingress }
    s.answerPeer ddie dst seq seq r.2
  match tfind key s.ingress with
  | none =>
    if !opened then s.sendFrame ddie dst 3 false seq []
    else if s.entriesAt ddie < 256 then pass s { expect := seq, replies := [] }
    else s.sendFrame ddie dst 2 false seq []
  | some g =>
    let back := (g.expect + 65536 - seq) % 65536
    if seq = g.expect then pass s g
    else if opened && !(decide (1 ≤ back) && decide (back ≤ 32) && (tfind (seq % 32) g.replies).isSome) then
      pass s { expect := seq, replies := [] }
    else if decide (1 ≤ back) && decide (back ≤ 32) then
      s.answerPeer ddie dst seq ((g.expect + 65535) % 65536) (tget [] (seq % 32) g.replies)
    else s

/-- A reply beat: the value of a load or AMO of this module. -/
def State.peerReply (s : State) (smod sdie ddie : Nat) (b : List Byte) : State :=
  match s.reqs.find? (fun r => r.src = ddie && r.dst = peerDst smod sdie && r.seq = frameField b 0 2) with
  | some r => (s.modReq r.id (fun q => { q with reply := imgWord (b.drop 16) 0, phase := .done })).plan (.loadReply r.id)
  | none => s

/-- A frame that has passed its checks. -/
def State.frame (s : State) (die : Nat) (bs : List Byte) : State :=
  let kind := frameField bs 14 1 / 16
  let opened := frameField bs 15 1 = 1
  let smod := frameField bs 16 2 % 4096
  let sdie := frameField bs 20 2 % 1024
  let ddie := frameField bs 22 2 % 1024
  let seq := frameField bs 24 2
  let dst := peerDst smod sdie
  match kind with
  | 0 => (natsFrom 0 (frameField bs 26 1)).foldl (fun s i =>
      let b := (bs.drop (46 + 80 * i)).take 80
      if frameField b 4 4 / 2 ^ 15 ≠ 0 then s.chipLog die 0 i
      else if frameField b 2 1 = 0x80 then s.peerReply smod sdie ddie b
      else s.peerRequest die smod sdie ddie (opened && i = 0) b) s
  | 1 => s.plan (.e2eAck ddie dst seq)
  | 2 => (s.setStream ddie dst { s.stream ddie dst with busy := true, busyAt := (s.chip ddie).cycle }).plan (.e2eBusyResend ddie dst)
  | 3 => s.giveUp ddie dst
  | 4 => s.plan (.gapNotice ddie dst seq)
  | _ => { s with ingress := tdel (peerKey smod sdie ddie) s.ingress }

/-- SCALEOUT_FRAME_RECEIVE (R401): a frame that fails a check is dropped and counted. -/
def execScaleoutFrameReceive (die p : Nat) (fcsOk : Bool) (bytes : List Byte) (s : State) : Host.Outcome State Fault Refusal :=
  .next (if fcsOk && s.frameOk die p bytes then s.frame die bytes else s.chipLog die 0 p)

end Sys2Proof.Machine
end

