-- ==== Sys2Proof/Machine/Power.lean ====
section
/-! DEFINITION. Operating points, draw and budget, throttling, region wakes, thermal trips and clock losses (R426-R432, R437). -/

namespace Sys2Proof.Machine

/-! Signals to the host (R442). -/

def vFLOOR : Nat := 1025
def vTHERMAL : Nat := 1026
def vMBOX : Nat := 1028

/-- An MSI-X vector is signalled; its four events also raise an in-band interrupt on I3C (R443). -/
def State.msix (s : State) (v : Nat) : State := s.modTrust (fun t => { t with msix := t.msix ++ [v] })

/-- A die changes its state (R434). -/
def State.dieTo (s : State) (die : Nat) (st : DieState) : State :=
  if (s.die die).state = st then s else (s.modDie die (fun d => { d with state := st })).msix vCHIP_STATE

/-! The compute domain of a chiplet (R426, R427). -/

/-- Is the chiplet in service? -/
def State.inService (s : State) (chip : Nat) : Bool :=
  match (s.die chip).state with
  | .active | .degraded | .gated => true
  | _ => false

/-- Does a PREEMPTED kernel without a save area keep its scoreboard in the dispatcher of the chiplet (R314)? -/
def State.holdsBoard (s : State) (chip : Nat) : Bool :=
  s.kernels.any (fun e => e.2.st = .preempted && lrSave e.2.rcd = 0 && !e.2.groups.isEmpty && e.2.chips.contains chip)

/-- Is a group bound to a core of the chiplet? -/
def State.hasGroup (s : State) (chip : Nat) : Bool :=
  s.kernels.any (fun e => e.2.groups.any (fun (g : Nat × Group) => g.2.bound && chipOf g.2.core = chip))

/-- Cores of a chiplet that State lists and that satisfy p. -/
def State.coresWhere (s : State) (chip : Nat) (p : Nat → Bool) : List Nat :=
  (s.cores.map (·.1)).filter (fun k => !isMgmt k && chipOf k = chip && p k)

/-- The local memories of a chiplet's compute cores are zero and empty. -/
def State.dropLocal (s : State) (chip : Nat) : State :=
  let inside (a : Nat) : Bool := a / 2 ^ 46 = chip && a / 2 ^ 40 % 64 = 0 && decide (a / 2 ^ 16 % 32 < 16)
  { s with mem := s.mem.filter (fun c => !inside c.1), full := s.full.filter (fun a => !inside a),
           badParity := s.badParity.filter (fun a => !inside a) }

/-- Core state, local memory and channels of the chiplet's cores that satisfy p are lost (R427). -/
def State.loseCores (s : State) (chip : Nat) (p : Nat → Bool) : State :=
  let s := (s.coresWhere chip p).foldl (fun s k => (s.wipeCore k).freshCore k) s
  s.dropLocal chip

/-- The compute domain enters NEWT (4) or DARK (5). -/
def State.stopDomain (s : State) (chip p : Nat) : State :=
  let s := (s.modDie chip (fun d => { d with op := p, change := none, raising := false })).dieTo chip .gated
  let s := if p = 5 then (s.modChip chip (fun c => { c with cycle := 0 })).loseCores chip isCompute else s
  s.pokeDispatcher chip

/-- Heartbeat counts start from 0 when a chiplet enters ACTIVE from DARK, and are held over NEWT (R126; log entry 103, DEDUCED). -/
def State.zeroBeats (s : State) (chip : Nat) : State :=
  (s.coresWhere chip (fun _ => true)).foldl (fun s k => s.modCore k (fun c => { c with hbcount := 0 })) s

/-- The compute domain is clocked at a point. Service cores that a THERMAL_TRIP stopped start with the others. -/
def State.startDomain (s : State) (chip p : Nat) : State :=
  let d := s.die chip
  let tripped := if d.fail = 6 then s.coresWhere chip (fun k => (s.core k).stopped) else []
  let s := tripped.foldl (fun s k => (s.wipeCore k).freshCore k) s
  let s := s.modDie chip (fun d => { d with op := p, change := none, raising := false, fail := if d.fail = 6 then 0 else d.fail })
  let s := if d.op = 5 then (s.modChip chip (fun c => { c with activeAt := c.cycle })).zeroBeats chip else s
  (s.dieTo chip (if d.degraded then .degraded else .active)).pokeDispatcher chip

/-- A change between clocked points completes. -/
def State.endChange (s : State) (chip : Nat) : State :=
  match (s.die chip).change with
  | none => s
  | some p =>
    (s.modDie chip (fun d => { d with op := if d.raising then p else d.op, change := none, raising := false })).pokeDispatcher chip

/-- A change between clocked points starts: the chiplet runs at the slower of the two until it completes. -/
def State.startChange (s : State) (chip p : Nat) : State :=
  let old := (s.die chip).op
  if p = old then s
  else
    (s.modDie chip (fun d => if p < old then { d with change := some p, raising := true }
      else { d with op := p, change := some old, raising := false })).plan (.opPointChangeDone chip)

/-- The draw and weight registers of a region. -/
def State.region (s : State) (r : Nat) : Region := tget Region.reset r s.trust.regions
def State.modRegion (s : State) (r : Nat) (f : Region → Region) : State :=
  s.modTrust (fun t => { t with regions := tset r (f (tget Region.reset r t.regions)) t.regions })

/-- The region of a logical chiplet. -/
def State.regionOf (s : State) (chip : Nat) : Nat := siteRegion (s.trust.siteOfChip chip)

/-! Region wakes (R431). -/

/-- The neighbours of a region. -/
def neighbours (r : Nat) : List Nat :=
  (if r % 16 = 0 then [] else [r - 1]) ++ (if r % 16 = 15 then [] else [r + 1]) ++
    (if r < 16 then [] else [r - 16]) ++ (if r < 48 then [r + 16] else [])

/-- Does some neighbour draw above 90 % of its limit? A limit in mA and a draw in mW: the comparison is the
implementation's (log entry 24, DESIGN CHOICE). -/
def State.crowded (s : State) (r : Nat) : Bool :=
  (neighbours r).any (fun q => Config.aboveLimit (s.region q).drawMw (s.region q).ilim)

/-- The time of the trust die, which holds the power controller. -/
def State.trustTime (s : State) : Word := (s.chip 608).time

/-- A span of nanoseconds of elvtime (R31). -/
def nanos (n : Nat) : Word := BitVec.ofNat 64 (n * 65536)

/-- The gate steps of a region begin. -/
def State.ramp (s : State) (r : Nat) (slow : Bool) : State :=
  let now := s.trustTime
  (s.modRegion r (fun g => { g with state := 2, steps := 0, slow := slow, stepAt := now, wanted := false })).plan (.regionGateStep r)

/-- 2 ms of elvtime. -/
def twoMs : Word := nanos 2000000

/-- The deferral of a region is over: its timer has expired. -/
def State.deferOver (s : State) (r : Nat) : Bool := passed s.trustTime (tget 0 r s.trust.deferFrom) twoMs

/-- Serve one region's request when no region ramps. -/
def State.serveWake (s : State) (r : Nat) : State :=
  let g := s.region r
  if (natsFrom 0 64).any (fun q => (s.region q).state = 2) then s
  else if g.state = 0 && g.wanted then
    if s.crowded r then
      (s.modRegion r (fun g => { g with state := 1 })).modTrust (fun t => { t with deferFrom := tset r s.trustTime t.deferFrom })
    else s.ramp r false
  else if g.state = 1 then
    if !s.crowded r then s.ramp r false else if s.deferOver r then s.ramp r true else s
  else s

/-- Waiting requests are served in ascending region number, one ramp at a time (DEDUCED, log entry 76). -/
def State.serveWakes (s : State) : State := (natsFrom 0 64).foldl (fun s r => s.serveWake r) s

/-- REGION_WAKE_REQUEST (R431): a chiplet of the region wants to leave DARK. -/
def State.wakeRegion (s : State) (r : Nat) : State :=
  if (s.region r).state = 0 && !(s.trust.regionChips r).isEmpty then (s.modRegion r (fun g => { g with wanted := true })).serveWakes else s

/-! Requests for a point. -/

/-- ON to GATED: every compute domain of the region is DARK. -/
def State.regionOff (s : State) (r : Nat) : State :=
  if (s.region r).state = 3 && (s.trust.regionChips r).all (fun c => (s.die c).op = 5) then
    s.modRegion r (fun g => { g with state := 0, steps := 0 })
  else s

/-- A point is asked for (R427): NEWT and DARK only without a bound group, otherwise refused and counted; a change under way
is complete before the next. -/
def State.requestPoint (s : State) (chip p : Nat) : State :=
  if !s.inService chip then s
  else
    let d := s.die chip
    if 4 ≤ p then
      if p = d.op || (d.op = 5 && p = 4) then s
      else if s.hasGroup chip || (p = 5 && s.holdsBoard chip) then s.modTrust (fun t => { t with refused := (t.refused + 1) % 2 ^ 32 })
      else (s.stopDomain chip p).regionOff (s.regionOf chip)
    else if d.op < 4 then (s.endChange chip).startChange chip p
    else if d.op = 4 then s.startDomain chip p
    else
      let r := s.regionOf chip
      if (s.region r).state = 3 then s.startDomain chip p else s.wakeRegion r

/-- PWR_OP_WRITE (R432): codes 6 and 7 leave a field unchanged. -/
def State.pwrOp (s : State) (chip : Nat) (v : Word) : State :=
  let idle := bits v 6 4
  let target := bits v 2 0
  let s := s.modDie chip (fun d => { d with idle := if idle < 6 then idle else d.idle, target := if target < 6 then target else d.target })
  if target < 6 then s.requestPoint chip target else s

/-- PWR_OP_WRITE (R427). -/
def execPwrOpWrite (chip : Nat) (v : Word) (s : State) : Host.Outcome State Fault Refusal :=
  .next (if chip < s.grade then s.pwrOp chip v else s)

/-! Budget (R429). -/

/-- The chiplets of a region that share its allowance. -/
def State.sharers (s : State) (r : Nat) : List Nat :=
  (s.trust.regionChips r).filter (fun c => ((s.die c).state = .active || (s.die c).state = .degraded) && decide ((s.die c).op < 4))

/-- DISP_PWR_SHARE of a chiplet changes in one write. -/
def State.setShare (s : State) (chip v : Nat) : State :=
  if (s.chip chip).share = v then s else (s.modChip chip (fun c => { c with share := v })).pokeDispatcher chip

/-- The allowance of one region and the shares of its chiplets. -/
def State.allot (s : State) (b sumF sumW r : Nat) : State :=
  let g := s.region r
  let extra := if sumW = 0 then 0 else (b - sumF) * g.weight / sumW
  let on := s.sharers r
  let s := s.modRegion r (fun g => { g with allow := g.fixedMw + extra,
                                            above := if g.fixedMw + extra < g.drawMw then g.above + 1 else 0 })
  (s.trust.regionChips r).foldl (fun s c => s.setShare c (if on.contains c then extra / on.length else 0)) s

/-- Has a millisecond passed since the last recomputation (R429)? -/
def State.recomputeDue (s : State) : Bool := passed s.trustTime s.trust.powerAt (nanos 1000000)

/-- The recomputation, on the draws measured over the last millisecond (R429). -/
def State.recompute (s : State) (draws : List Draw) : State :=
  let s := s.modTrust (fun t => { t with powerAt := s.trustTime })
  let s := draws.foldl (fun s d => if d.region < 64 then
    s.modRegion d.region (fun g => { g with fixedMw := d.fixedMw, drawMw := d.drawMw }) else s) s
  let rs := natsFrom 0 64
  let sumF := (rs.map (fun r => (s.region r).fixedMw)).sum
  let sumW := (rs.map (fun r => (s.region r).weight)).sum
  let budget := s.trust.budget.toNat
  let b := min (max budget sumF) 40000000
  let floor := decide (budget < sumF)
  let s := if floor && !s.trust.floor then s.msix vFLOOR else s
  let s := s.modTrust (fun t => { t with floor := floor })
  rs.foldl (fun s r => s.allot b sumF sumW r) s

/-- POWER_RECOMPUTE (R429): once per millisecond. -/
def execPowerRecompute (draws : List Draw) (s : State) : Host.Outcome State Fault Refusal :=
  .next (if s.recomputeDue then s.recompute draws else s)

/-! Throttling (R430). -/

/-- Throttling moves a chiplet's point. -/
def State.stepPoint (s : State) (chip p : Nat) : State :=
  let now := s.trustTime
  (s.modDie chip (fun d => { d with stepAt := now })).startChange chip p

/-- One point down, recorded as ENERGY_THROTTLE. -/
def State.lowerPoint (s : State) (chip : Nat) : State :=
  let s := s.endChange chip
  let op := (s.die chip).op
  if op < 3 then (s.stepPoint chip (op + 1)).logAt (chip * 132) cENERGY_THROTTLE (op + 1) else s

/-- The chiplet with the highest DISP_PWR_PROJ among those that can be lowered, the lowest number first. -/
def State.busiest (s : State) (r : Nat) : Option Nat :=
  ((s.sharers r).filter (fun c => decide ((s.die c).op < 3))).foldl (fun (b : Option Nat) c => match b with
    | none => some c
    | some a => if (s.chip a).proj < (s.chip c).proj then some c else some a) none

/-- POWER_THROTTLE (R430): a chiplet whose sensor reads 100 °C, or the busiest of a region over its allowance for two
milliseconds; one point in each millisecond. -/
def State.throttle (s : State) (r : Nat) (hot : Option Nat) : State :=
  match hot with
  | some c => if (s.sharers r).contains c && passed s.trustTime (s.die c).stepAt (nanos 1000000) then s.lowerPoint c else s
  | none =>
    if 2 ≤ (s.region r).above then
      let s := s.modRegion r (fun g => { g with above := 1 })
      (match s.busiest r with
       | some c => s.lowerPoint c
       | none => s)
    else s

/-- POWER_THROTTLE (R430). -/
def execPowerThrottle (region : Nat) (hot : Option Nat) (s : State) : Host.Outcome State Fault Refusal := .next (s.throttle region hot)

/-- POWER_UNTHROTTLE (R430): one point up per 10 ms, towards the target. -/
def State.unthrottle (s : State) (chip : Nat) : State :=
  let g := s.region (s.regionOf chip)
  let s' := s.endChange chip
  let d := s'.die chip
  if s.inService chip && decide (d.op < 4) && decide (d.target < d.op) && decide (g.drawMw * 10 < g.allow * 9) &&
      passed s.trustTime d.stepAt tenMs then
    s'.stepPoint chip (d.op - 1)
  else s

/-- POWER_UNTHROTTLE (R430). -/
def execPowerUnthrottle (chip : Nat) (s : State) : Host.Outcome State Fault Refusal := .next (s.unthrottle chip)

/-- OP_POINT_CHANGE_DONE (R427), and a point that a shrink has asked for. -/
def State.pointDone (s : State) (chip : Nat) : State :=
  let s := s.endChange chip
  match (s.die chip).want with
  | some p => (s.modDie chip (fun d => { d with want := none })).requestPoint chip p
  | none => s

/-- OP_POINT_CHANGE_DONE (R427). -/
def execOpPointChangeDone (chip : Nat) (s : State) : Host.Outcome State Fault Refusal := .next (s.pointDone chip)

/-! Events of region wakes (R431). -/

/-- REGION_WAKE_REQUEST (R431). -/
def execRegionWakeRequest (region : Nat) (s : State) : Host.Outcome State Fault Refusal := .next (s.wakeRegion region)

/-- WAKE_DEFER_RELEASE (R431): every neighbour has fallen to 90 % or below. -/
def execWakeDeferRelease (region : Nat) (s : State) : Host.Outcome State Fault Refusal :=
  .next (if (s.region region).state = 1 && !s.crowded region then s.serveWakes else s)

/-- WAKE_DEFER_EXPIRY (R431): the timer of 2 ms has expired. -/
def execWakeDeferExpiry (region : Nat) (s : State) : Host.Outcome State Fault Refusal :=
  .next (if (s.region region).state = 1 && s.deferOver region then s.serveWakes else s)

/-- The region is ON: chiplets in service go to their targets. -/
def State.regionOn (s : State) (r : Nat) : State :=
  let s := s.modRegion r (fun g => { g with state := 3 })
  let s := (s.trust.regionChips r).foldl (fun s c =>
    let d := s.die c
    if s.inService c && d.op = 5 then (if d.target < 4 then s.startDomain c d.target else s.dieTo c .gated) else s) s
  s.serveWakes

/-- The length of a region's gate steps: 2 µs, or 8 µs after a deferral that has expired. -/
def Region.stepLen (g : Region) : Word := nanos (if g.slow then 8000 else 2000)

/-- The next gate step of a region is due. -/
def State.stepDue (s : State) (r : Nat) : Bool :=
  let g := s.region r
  g.state = 2 && passed s.trustTime g.stepAt g.stepLen

/-- REGION_GATE_STEP (R431): the sixty-fourth step ends the ramp. -/
def State.gateStep (s : State) (r : Nat) : State :=
  let g := s.region r
  if !s.stepDue r then s
  else if g.steps + 1 < 64 then
    (s.modRegion r (fun g => { g with steps := g.steps + 1, stepAt := g.stepAt + g.stepLen })).plan (.regionGateStep r)
  else (s.modRegion r (fun g => { g with steps := 64 })).regionOn r

/-- REGION_GATE_STEP (R431). -/
def execRegionGateStep (region : Nat) (s : State) : Host.Outcome State Fault Refusal := .next (s.gateStep region)

/-! Thermal trips and clock losses (R437). -/

/-- The groups bound to cores of a chiplet: kernel, group, entry. -/
def State.groupsOn (s : State) (chip : Nat) : List (Nat × Nat × Group) :=
  s.kernels.flatMap (fun (e : Nat × Kernel) =>
    ((e.2.groups.filter (fun (g : Nat × Group) => g.2.bound && chipOf g.2.core = chip)).map (fun (g : Nat × Group) => (e.1, g.1, g.2))))

/-- A group whose contexts are lost at once leaves its core. -/
def State.tearOff (s : State) (kid g : Nat) (e : Group) : State :=
  let s := (s.strandsOf e.core e.slot).foldl (fun s n => s.killStrand e.core n) s
  ((s.freeMatrix e.core e.slot).dropDraw kid g).unbindGroup kid g .waiting

/-- Every group of a chiplet is unbound, by its kernel's error policy with the cause. -/
def State.unbindChip (s : State) (chip cause : Nat) : State :=
  let s := (s.groupsOn chip).foldl (fun s e => s.groupFailed e.1 e.2.1 cause false true) s
  (s.groupsOn chip).foldl (fun s e => s.tearOff e.1 e.2.1 e.2.2) s

/-- THERMAL_TRIP (R437). -/
def State.tripped (s : State) (chip : Nat) : State :=
  if !s.inService chip then s
  else
    let s := ((s.stopChip chip cTHERMAL_TRIP).unbindChip chip cTHERMAL_TRIP).stopDomain chip 5
    let s := s.modDie chip (fun d => { d with fail := 6 })
    ((s.regionOff (s.regionOf chip)).lifeCount (lifeCause chip cTHERMAL_TRIP)).msix vTHERMAL

/-- THERMAL_TRIP (R437). -/
def execThermalTrip (chip : Nat) (s : State) : Host.Outcome State Fault Refusal := .next (s.tripped chip)

/-- CLOCK_LOSS (R434, R437): back to CLOCKED, and at the third loss retired. -/
def State.clockLost (s : State) (die : Nat) : State :=
  if !s.inService die then s
  else
    let s := if die < 512 then (s.stopChip die cCLOCK_LOSS).unbindChip die cCLOCK_LOSS
      else if 576 ≤ die then s.modCore (mgmtKey die) (fun c => { c with stopped := true, stopCause := cCLOCK_LOSS }) else s
    let s := (s.modDie die (fun d => { d with losses := d.losses + 1, fail := 5 })).lifeCount (lifeCause die cCLOCK_LOSS)
    if (s.die die).losses < 3 then
      (s.modChip die (fun c => { c with cycle := 0 })).modDie die (fun d => { d with
        op := if die < 512 then 5 else d.op, change := none, raising := false, attempts := d.attempts + 1, tries := 0, triedAt := s.trustTime }) |>.dieTo die .clocked
    else if die < 512 then s.retirePart (.site (s.trust.siteOfChip die))
    else s.dieTo die .quarantined

/-- CLOCK_LOSS (R437). -/
def execClockLoss (die : Nat) (s : State) : Host.Outcome State Fault Refusal := .next (s.clockLost die)

end Sys2Proof.Machine
end

