-- ==== Sys2Proof/Machine/Bringup.lean ====
section
/-! DEFINITION. Bring-up (R433-R436) and the updates of images in service (R441). -/

namespace Sys2Proof.Machine

/-! The component classes (R433, R438). -/

/-- The class of a die: 1 trust die, 2 edge chiplet, 3 compute chiplet, 4 DRAM base die. -/
def classOf (die : Nat) : Nat := if die < 512 then 3 else if die < 576 then 4 else if die < 608 then 2 else 1

/-- Does a die of the number exist under the numbering in force? -/
def State.dieExists (s : State) (die : Nat) : Bool :=
  if die < 512 then decide (die < s.grade) else if die < 576 then s.regionAlive (die - 512) else decide (die < 609)

/-- Has a die reached CONFIGURED? -/
def DieState.atLeastConfigured : DieState → Bool
  | .configured | .selfTest | .joined | .active | .degraded | .gated => true
  | _ => false

/-! SAFE (R435). -/

/-- Module self-test has failed: every die is SAFE. -/
def State.goSafe (s : State) (cause : Nat) : State :=
  let s := (natsFrom 0 609).foldl (fun s d => s.modDie d (fun x => { x with state := .safe })) s
  (s.modTrust (fun t => { t with safe := true, safeCause := cause })).msix vCHIP_STATE

/-! The start of a bring-up (R433). -/

/-- What outlasts a bring-up: the records of the trust die and the tape of turns to come. Retirements that had still to take
effect are part of the log's image. -/
def State.restart (s : State) : State :=
  let t := s.trust.deferredRetire.foldl Trust.withPart s.trust
  { State.reset with
    turns := s.turns, clock := s.clock,
    trust := { Trust.reset with
      fuseSites := t.fuseSites, fuseClusters := t.fuseClusters, fuseSlots := t.fuseSlots, logSites := t.logSites,
      logClusters := t.logClusters, logSlots := t.logSlots, logSeq := t.logSeq, reinst := t.reinst, lifetime := t.lifetime,
      code := t.code } }

/-- BRINGUP_START (R433): the images are loaded, checked against the signed manifests, and their digests recorded by class. -/
def State.bringup (s : State) (digests : List Nat) (selfOk sigsOk : Bool) : State :=
  let s := s.restart
  if !selfOk then s.goSafe 1
  else if !sigsOk then s.goSafe 2
  else
    let ds : Tbl Nat := (natsFrom 1 4).zip digests
    s.modTrust (fun t => { t with digests := ds, measures := ds })

/-- BRINGUP_START (R433). -/
def execBringupStart (digests : List Nat) (selfOk sigsOk : Bool) (s : State) : Host.Outcome State Fault Refusal :=
  .next (s.bringup digests selfOk sigsOk)

/-- DIE_SUPPLY_PRESENT (R434). -/
def execDieSupplyPresent (die : Nat) (s : State) : Host.Outcome State Fault Refusal :=
  .next (if (s.die die).state = .dark && s.dieExists die then s.dieTo die .powered else s)

/-! The stream (R433). -/

/-- The site column of a die of the grid. -/
def State.dieX (s : State) (die : Nat) : Nat :=
  if die < 512 then siteX (s.trust.siteOfChip die) else 9 * ((die - 512) / 16) + 4

/-- The die that a stream comes from, by the side it is taken from: 0 west, 1 east, 2 north, 3 south. -/
def State.upstream (s : State) (die side : Nat) : Option Nat :=
  if die < 512 then
    let g := s.gridOf die
    match side with
    | 0 => if g.1 = 0 then some (576 + g.2) else s.chipAt (g.1 - 1) g.2
    | 1 => if g.1 = 31 then some (592 + g.2) else s.chipAt (g.1 + 1) g.2
    | 2 => if g.2 = 0 then none else s.chipAt g.1 (g.2 - 1)
    | _ => if g.2 = 15 then none else s.chipAt g.1 (g.2 + 1)
  else if die < 576 then (s.trust.regionChips (die - 512)).head?
  else none

/-- The side of the die's wavefront. -/
def State.firstSide (s : State) (die : Nat) : Nat :=
  if die < 512 then (if s.dieX die < 18 then 0 else 1)
  else if die < 576 then
    (match (s.trust.regionChips (die - 512)).head? with
     | some c => if s.dieX c < s.dieX die then 0 else 1
     | none => 0)
  else 0

/-- Has the neighbour that a stream would come from the configuration? Edge chiplets and the trust die have none before them. -/
def State.fed (s : State) (die side : Nat) : Bool :=
  if 576 ≤ die then true
  else match s.upstream die side with
    | some d => (s.die d).state.atLeastConfigured
    | none => false

/-- The other sides, in the order in which a chiplet tries them: north, south, then the other wavefront's. -/
def State.otherSides (s : State) (die : Nat) : List Nat :=
  ([2, 3, 1 - s.firstSide die] : List Nat).filter (fun (e : Nat) => (s.upstream die e).isSome)

/-- DIE_REFERENCE_LOCKED (R30, R434): the clock runs from 0, and the die waits for the stream. -/
def State.locked (s : State) (die : Nat) : State :=
  if (s.die die).state ≠ .powered then s
  else
    let s := s.modChip die (fun c => { c with cycle := 0 })
    let now := s.trustTime
    (s.modDie die (fun d => { d with
      side := s.firstSide die, attempts := d.attempts + 1, tries := 0, triedAt := now, op := if die < 512 then d.op else 1 })).dieTo die
      .clocked

/-- DIE_REFERENCE_LOCKED (R434). -/
def execDieReferenceLocked (die : Nat) (s : State) : Host.Outcome State Fault Refusal := .next (s.locked die)

/-- DIE_IMAGE_RECEIVED (R434): the digest is compared with the trust die's. -/
def State.imageArrives (s : State) (die digest : Nat) : State :=
  let d := s.die die
  if d.state ≠ .clocked || !s.fed die d.side then s
  else if tfind (classOf die) s.trust.digests = some digest then
    (s.modDie die (fun d => { d with digest := digest, fail := 0 })).dieTo die .measured
  else (s.modDie die (fun d => { d with fail := 1 })).dieTo die .quarantined

/-- DIE_IMAGE_RECEIVED (R434). -/
def execDieImageReceived (die digest : Nat) (s : State) : Host.Outcome State Fault Refusal := .next (s.imageArrives die digest)

/-- The stream is overdue: 2 ms have passed since the neighbour it would come from reached CONFIGURED, and since the attempt began; a
neighbour that is not there or is QUARANTINED feeds nobody (DEDUCED, log entry 104). -/
def State.streamDue (s : State) (die : Nat) : Bool :=
  let d := s.die die
  let now := s.trustTime
  passed now d.triedAt twoMs &&
    (match s.upstream die d.side with
     | none => true
     | some u => (s.die u).state = .quarantined ||
        ((s.die u).state.atLeastConfigured && passed now (s.die u).configuredAt twoMs))

/-- STREAM_TIMEOUT (R433, R434): the next side is tried; the third attempt that fails ends the die's bring-up. -/
def State.streamTimedOut (s : State) (die : Nat) : State :=
  let d := s.die die
  if d.state ≠ .clocked || 576 ≤ die || !s.streamDue die then s
  else if 2 ≤ d.tries then (s.modDie die (fun d => { d with fail := 4 })).dieTo die .quarantined
  else
    let side := if die < 512 then (s.otherSides die).getD d.tries d.side else d.side
    let now := s.trustTime
    s.modDie die (fun d => { d with attempts := d.attempts + 1, tries := d.tries + 1, side := side, triedAt := now })

/-- STREAM_TIMEOUT (R433). -/
def execStreamTimeout (die : Nat) (s : State) : Host.Outcome State Fault Refusal := .next (s.streamTimedOut die)

/-! Configuration, self-test and publication (R434). -/

/-- The cores of a chiplet start with nothing in them, and every index is BOUND again (R247). -/
def State.resetCores (s : State) (die : Nat) : State :=
  if 576 ≤ die then (s.wipeCore (mgmtKey die)).freshCore (mgmtKey die)
  else if 512 ≤ die then s
  else
    let s := s.loseCores die (fun _ => true)
    { s with clusters := s.clusters.map (fun (e : Nat × Cluster) =>
        (e.1, if e.1 / 132 = die then { e.2 with binds := [], spareFor := none } else e.2)) }

/-- DIE_CONFIGURED (R434): the configuration is applied; a die that is CONFIGURED starts its self-test (DESIGN CHOICE, log entry 68). -/
def execDieConfigured (die : Nat) (s : State) : Host.Outcome State Fault Refusal :=
  .next (match (s.die die).state with
    | .measured => ((s.resetCores die).modDie die (fun d => { d with configuredAt := s.trustTime })).dieTo die .configured
    | .configured => s.dieTo die .selfTest
    | _ => s)

/-- Is every part of a die in full service (R434)? -/
def State.fullService (s : State) (die : Nat) : Bool :=
  (decide (512 ≤ die) || !s.trust.touched (s.trust.siteOfChip die)) &&
    (natsFrom 0 48).all (fun m => s.linkNotcon die m || ((s.link die m).state ≠ lDEGRADED && (s.link die m).state ≠ lFAILED))

/-- JOINED to ACTIVE or DEGRADED. -/
def State.activate (s : State) (die : Nat) : State :=
  let full := s.fullService die
  let s := ((s.modChip die (fun c => { c with activeAt := c.cycle })).zeroBeats die).modDie die (fun d => { d with degraded := !full })
  s.dieTo die (if full then .active else .degraded)

/-- A die that joins a module in service becomes active at once; its compute domain goes to its target, through the wake of its
region. -/
def State.joinLate (s : State) (die : Nat) : State :=
  let s := s.activate die
  if die < 512 && decide (4 ≤ (s.die die).op) then
    (if (s.die die).target < 4 then s.requestPoint die (s.die die).target else s.dieTo die .gated)
  else s

/-- DIE_SELF_TEST_DONE (R434, R439): failed parts are written to the log; they take effect with the numbering (DESIGN CHOICE, log entry 68). -/
def State.selfTested (s : State) (die : Nat) (pass : Bool) (failed : List Part) : State :=
  if (s.die die).state ≠ .configured && (s.die die).state ≠ .selfTest then s
  else
    let s := s.dieTo die .selfTest
    let site := s.trust.siteOfChip die
    let mine := if die < 512 then failed.filter (fun p => Part.site? p = site) else []
    if pass then
      if s.trust.published then (s.joinLate die).plans (mine.map (fun (p : Part) => .fieldRetirement p))
      else (mine.foldl (fun s p => s.logPart p) s).dieTo die .joined
    else
      let s := (s.modDie die (fun d => { d with fail := 3 })).dieTo die .quarantined
      if 512 ≤ die then s else if s.trust.published then s.retirePart (.site site) else s.logPart (.site site)

/-- DIE_SELF_TEST_DONE (R434). -/
def execDieSelfTestDone (die : Nat) (pass : Bool) (failed : List Part) (s : State) : Host.Outcome State Fault Refusal :=
  .next (s.selfTested die pass failed)

/-- The map of this bring-up: the log with what self-test has added, without the chiplets quarantined for measurement or
stream failure. -/
def State.bringupMap (s : State) : Trust :=
  let t := s.trust.deferredRetire.foldl Trust.withPart s.trust
  let gone := (natsFrom 0 s.grade).filter (fun d => (s.die d).state = .quarantined && (s.die d).fail ≠ 3)
  { t with deferredRetire := [], absent := gone.map s.trust.siteOfChip }

/-- NUMBERING_PUBLISHED (R434, R435). -/
def State.publish (s : State) : State :=
  if s.trust.published || s.trust.safe then s
  else
    let new := s.bringupMap
    let s := if moves s.trust new then s.renumbered new else { s with trust := new }
    let s := s.modTrust (fun t => { t with mapSeq := 0, renum := false })
    if (s.die 576).state ≠ .joined then s.goSafe 3
    else if s.grade = 0 then s.goSafe 4
    else
      let s := s.modTrust (fun t => { t with published := true })
      let s := (natsFrom 0 609).foldl (fun s d => if (s.die d).state = .joined then s.activate d else s) s
      let want := (natsFrom 0 64).filter (fun r => (s.trust.regionChips r).any (fun c => s.inService c && decide ((s.die c).target < 4)))
      (want.foldl (fun s r => s.modRegion r (fun g => { g with wanted := true })) s).serveWakes

/-- NUMBERING_PUBLISHED (R434). -/
def execNumberingPublished (s : State) : Host.Outcome State Fault Refusal := .next s.publish

/-- MODULE_SELF_TEST_FAIL (R435). -/
def execModuleSelfTestFail (s : State) : Host.Outcome State Fault Refusal :=
  .next (if s.trust.published then s else s.goSafe 5)

/-! Updates (R441). -/

/-- The dies of a region: its compute chiplets and its DRAM die. -/
def State.regionDies (s : State) (r : Nat) : List Nat := s.trust.regionChips r ++ [512 + r]

/-- The update of a region begins: groups still there are lost, and its dies re-enter CONFIGURED. -/
def State.beginUpdate (s : State) (r : Nat) : State :=
  let chips := (s.trust.regionChips r).filter s.inService
  let s := chips.foldl (fun s c => ((s.unbindChip c cMACHINE_CHECK).resetCores c).dieTo c .configured) s
  if (s.die (512 + r)).state.atLeastConfigured then s.dieTo (512 + r) .configured else s

/-- The next region of the update, when there is one. -/
def State.nextUpdate (s : State) : State :=
  match s.trust.updating with
  | r :: _ => s.beginUpdate r
  | [] => s

/-- REGION_UPDATE_REJOIN (R441, R446): the dies have reloaded, been measured and passed self-test; retirements that came during
the update follow. -/
def State.rejoin (s : State) (r : Nat) : State :=
  match s.trust.updating with
  | q :: rest =>
    if q ≠ r then s
    else
      let s := (s.regionDies r).foldl (fun s d =>
        if (s.die d).state = .configured || (s.die d).state = .selfTest then
          (s.modDie d (fun x => { x with digest := tget x.digest (classOf d) s.trust.digests })).joinLate d
        else s) s
      let s := s.modTrust (fun t => { t with updating := rest })
      let due := s.trust.deferredRetire.filter (fun p => siteRegion (Part.site? p) = r)
      (s.plans (due.map (fun (p : Part) => .fieldRetirement p))).nextUpdate
  | [] => s

/-- REGION_UPDATE_REJOIN (R441). -/
def execRegionUpdateRejoin (region : Nat) (s : State) : Host.Outcome State Fault Refusal := .next (s.rejoin region)

end Sys2Proof.Machine
end

