-- ==== Sys2Proof/Machine/Flags.lean ====
section
/-! DEFINITION. The status words that a context reads through CSRs (R19-R21, R30-R32, R125-R128, R294, R321). The hardware has no
condition flags: these words are computed from the state they describe. -/

namespace Sys2Proof.Machine

/-- pstate (R125): a core of the fabric domain runs at GECKO while the compute domain is not clocked (R426). -/
def State.pstate (s : State) (k n : Nat) : Word :=
  let c := s.ctx k n
  let firing := c.st = .firing
  let op := (s.die (dieOf k)).op
  BitVec.ofNat 64 ((if op < 4 then op else 3) * 2 ^ 8 + bitN firing 7 + n * 2 ^ 4 + (if firing then c.hprio % 4 * 2 ^ 2 else 0) + bitN c.super 0)

/-- bound_ps of elvtimeerr: in holdover it grows by 50,000 for each millisecond (R32). -/
def Chip.bound (c : Chip) : Nat :=
  if !c.holdover then min c.boundPs 0xFFFFFFFF
  else
    let ns := (c.time - c.lastSync).toNat / 65536 - 10000000
    min (c.boundPs + ns / 1000000 * 50000) 0xFFFFFFFF

/-- elvtimeerr (R32). -/
def Chip.timeErr (c : Chip) : Word := BitVec.ofNat 64 (bitN c.holdover 32 + c.bound)

/-- vwin (R128). -/
def State.vwin (s : State) (k n : Nat) : Word :=
  let c := s.ctx k n
  if !isCompute k || c.st ≠ .strand then 0
  else
    let o := s.core k
    BitVec.ofNat 64 (bitN (o.reservedFor c.slot).isSome 2 + (match o.heldBy c.slot with
      | some w => w * 2 + 1
      | none => 0))

/-- gcoord, gstrand and gkernel as a context reads them: zero in a handler (R321). -/
def Ctx.readGcoord (c : Ctx) : Word := if c.st = .strand then c.gcoord else 0
def Ctx.readGstrand (c : Ctx) : Word := if c.st = .strand then BitVec.ofNat 64 (c.nstr % 4 * 4 + c.gstrand % 4) else 0
def Ctx.readGkernel (c : Ctx) : Word := if c.st = .strand then c.gkernel else 0

/-- The presence bits of q0-q31 (R276). -/
def Core.present (c : Core) : Nat := (natsFrom 0 32).foldl (fun v i => v + bitN (!(c.chan i).words.isEmpty) i) 0

/-- qstat (R294). -/
def State.qstat (s : State) (k n : Nat) : Word :=
  let o := s.core k
  BitVec.ofNat 64 ((s.ctx k n).stmask.toNat * 2 ^ 40 + bitN o.switching 33 + bitN o.credit 32 + o.present)

/-- qwindow (R294). -/
def State.qwindow (s : State) (k n : Nat) : Word :=
  let o := s.core k
  let gen := (s.ctx k n).gen
  let own := (o.window.filter (fun m => m.ctx = n && m.gen = gen && m.frm = .ctx)).length
  let most := o.window.foldl (fun v m => max v m.nacks) 0
  BitVec.ofNat 64 (min most 255 * 2 ^ 16 + own * 2 ^ 8 + o.window.length)

/-- mhartid and elvcoord of a core (R19, R20), elvgrade (R21). -/
def mhartidWord (k : Nat) : Word := BitVec.ofNat 64 (mhartid k)
def State.elvcoordWord (s : State) (k : Nat) : Word := BitVec.ofNat 64 (s.trust.elvcoord k)
def State.elvgradeWord (s : State) : Word := BitVec.ofNat 64 s.grade

end Sys2Proof.Machine
end

