-- ==== Sys2Proof/Machine/Csr.lean ====
section
/-! DEFINITION. CSRRW, CSRRS and CSRRC (R123-R126): the value of every CSR and what a write of it does. -/

namespace Sys2Proof.Machine

/-- The value of a CSR as context n of core k reads it; none for an address without a CSR (R124) (DEDUCED, log entry 34). -/
def State.csr (s : State) (k n : Nat) (a : Nat) : Option Word :=
  let c := s.ctx k n
  let o := s.core k
  match a with
  | 0xF14 => some (mhartidWord k)
  | 0xCC0 => some (s.elvcoordWord k)
  | 0xCC1 => some s.elvgradeWord
  | 0xCC2 => some (s.cycleOf k)
  | 0xCC3 => some (s.timeOf k)
  | 0xCC4 => some (s.chip (dieOf k)).timeErr
  | 0xCC5 => some (s.pstate k n)
  | 0xCC6 => some (o.hbcount.setWidth 64)
  | 0xCC8 => some c.readGcoord
  | 0xCC9 => some c.readGstrand
  | 0xCCA => some c.readGkernel
  | 0xCCB => some (s.vwin k n)
  | 0xCCC => some (s.qstat k n)
  | 0xCCD => some (s.qwindow k n)
  | 0x800 => some c.vtype
  | 0x801 => some (c.rndseed.setWidth 64)
  | 0x5C0 => some o.qbackoff
  | 0x5C1 => some o.qretry
  | 0x5C2 => some o.feretry
  | 0x5C3 => some o.wfetimeout
  | 0x5C4 => some c.ecause
  | 0x5C5 => some c.eaddr
  | 0x5C6 => some c.epc
  | 0x5C7 => some c.einfo
  | _ => none

/-- May the level write the CSR (R124)? -/
def csrWritable (super : Bool) (a : Nat) : Bool :=
  a = 0x800 || a = 0x801 || (super && decide (0x5C0 ≤ a) && decide (a ≤ 0x5C7))

/-- A field to which a write of zero stores 1 (R294, R336). -/
def atLeastOne (v : Nat) : Nat := if v = 0 then 1 else v

/-- Write a CSR of the executing context or its core, with the value its fields keep (R51, R246, R294, R336, R341). -/
def State.csrWrite (s : State) (a : Nat) (v : Word) : State :=
  match a with
  | 0x800 => s.modCur (fun c => { c with vtype := v })
  | 0x801 => s.modCur (fun c => { c with rndseed := if v.setWidth 32 = 0#32 then 1 else v.setWidth 32 })
  | 0x5C0 => s.modHere (fun c => { c with qbackoff := BitVec.ofNat 64 (bits v 19 16 * 2 ^ 16 + atLeastOne (bits v 15 0)) })
  | 0x5C1 => s.modHere (fun c => { c with qretry := BitVec.ofNat 64 (atLeastOne (bits v 7 0)) })
  | 0x5C2 => s.modHere (fun c => { c with
      feretry := BitVec.ofNat 64 (atLeastOne (bits v 23 8) * 2 ^ 8 + atLeastOne (bits v 7 0)) })
  | 0x5C3 => s.modHere (fun c => { c with wfetimeout := BitVec.ofNat 64 (bits v 31 0) })
  | 0x5C4 => s.modCur (fun c => { c with ecause := v &&& 63 })
  | 0x5C5 => s.modCur (fun c => { c with eaddr := v })
  | 0x5C6 => s.modCur (fun c => { c with epc := v &&& ~~~3 })
  | 0x5C7 => s.modCur (fun c => { c with einfo := v })
  | _ => s

/-- The operand of a Zicsr instruction, and whether CSRRS and CSRRC write with it (R123). -/
def State.csrSrc (s : State) : CsrSrc → Word
  | .reg r => s.rx r
  | .imm v => v.setWidth 64

def CsrSrc.writes : CsrSrc → Bool
  | .reg r => r ≠ 0
  | .imm v => v ≠ 0

/-- A Zicsr instruction: the old value to rd, the new one, if any, written. -/
def State.csrOp (s : State) (rd : Reg) (a : Nat) (new : Option (Word → Word)) : State :=
  match s.csr s.curCore s.curCtx a with
  | none => s.trap cILLEGAL_INSTR 0
  | some old =>
    match new with
    | none => s.done rd old
    | some f =>
      if !csrWritable s.cur.super a then s.trap cCSR_ACCESS 0
      else if a = 0x800 && !vtypeOk (f old) then s.trap cILLEGAL_INSTR 0
      else (s.csrWrite a (f old)).done rd old

/-- CSRRW (R123). -/
def execCsrrw (rd : Reg) (src : CsrSrc) (csr : BitVec 12) (s : State) : Host.Outcome State Fault Refusal :=
  .next (s.csrOp rd csr.toNat (some (fun _ => s.csrSrc src)))

/-- CSRRS (R123). -/
def execCsrrs (rd : Reg) (src : CsrSrc) (csr : BitVec 12) (s : State) : Host.Outcome State Fault Refusal :=
  .next (s.csrOp rd csr.toNat (if CsrSrc.writes src then some (fun old => old ||| s.csrSrc src) else none))

/-- CSRRC (R123). -/
def execCsrrc (rd : Reg) (src : CsrSrc) (csr : BitVec 12) (s : State) : Host.Outcome State Fault Refusal :=
  .next (s.csrOp rd csr.toNat (if CsrSrc.writes src then some (fun old => old &&& ~~~(s.csrSrc src)) else none))

end Sys2Proof.Machine
end

