-- ==== Sys2Proof/Machine/Mmio.lean ====
section
/-! DEFINITION. The memory-mapped registers (R6, R7, R221): the map of each die's block, reads, and writes by half or whole. -/

namespace Sys2Proof.Machine

/-! Writing by halves (R221). -/

/-- A register's value with the bits of a mask replaced. -/
def merged (old v mask : Word) : Word := (old &&& ~~~mask) ||| (v &&& mask)

def maskAll : Word := ~~~0
def maskLow : Word := 0xFFFFFFFF
def maskHigh : Word := 0xFFFFFFFF00000000

/-- Is the low half of the register written? -/
def lowWritten (mask : Word) : Bool := mask.getLsbD 0

/-- Element i and the offset in it of an offset in a block of n elements. -/
def inBlock (base stride n off : Nat) : Option (Nat × Nat) :=
  if base ≤ off && off < base + stride * n then some ((off - base) / stride, (off - base) % stride) else none

/-- The sum of fields, each a value at a bit position. -/
def fields (l : List (Nat × Nat)) : Word := BitVec.ofNat 64 (l.foldl (fun v f => v + f.1 * 2 ^ f.2) 0)

/-! The trust-die block (R36, R432, R436, R442, R444). -/

def DieState.code : DieState → Nat
  | .dark => 0 | .powered => 1 | .clocked => 2 | .measured => 3 | .configured => 4 | .selfTest => 5 | .joined => 6
  | .active => 7 | .degraded => 8 | .gated => 9 | .quarantined => 10 | .safe => 11

/-- CHIP_STATE (R436). -/
def Die.word (d : Die) : Word :=
  fields [(d.attempts % 256, 24), (d.side % 4, 16), (d.fail % 16, 12), (d.op % 8, 8), (d.state.code, 0)]

/-- Eight bytes of a mailbox. -/
def boxWord (t : Tbl Byte) (off : Nat) : Word := BitVec.ofNat 64 (leNat ((natsFrom off 8).map (fun i => tget 0 i t)))

def State.trustRead (s : State) (off : Nat) : Option Word :=
  let t := s.trust
  if off = 0x40 then some t.mapId
  else if off = 0x48 then some (fields [(bitN t.renum 0, 32), (t.mapSeq.toNat, 0)])
  else if off = 0x50 then some t.hwin
  else if off = 0x58 then some 0xEFF4
  else if off = 0x2000 then some (t.budget.setWidth 64)
  else if off = 0x2008 then some (fields [(t.refused, 32), (bitN t.floor 0, 0)])
  else match inBlock 0x2100 8 64 off with
  | some (r, _) => some (BitVec.ofNat 64 (s.region r).weight)
  | none => match inBlock 0x2400 8 64 off with
  | some (r, _) => some (BitVec.ofNat 64 ((s.region r).allow % 2 ^ 32))
  | none => match inBlock 0x2600 8 64 off with
  | some (r, _) => some (fields [((s.region r).fixedMw % 2 ^ 32, 32), ((s.region r).drawMw % 2 ^ 32, 0)])
  | none => match inBlock 0x2800 8 64 off with
  | some (r, _) => some (BitVec.ofNat 64 (s.region r).ilim)
  | none => match inBlock 0x2A00 8 64 off with
  | some (r, _) => some (BitVec.ofNat 64 (s.region r).state)
  | none => match inBlock 0x3000 8 512 off with
  | some (c, _) => some (fields [((s.die c).idle, 4), ((s.die c).target, 0)])
  | none => match inBlock 0x4000 8 609 off with
  | some (n, _) => some (s.die n).word
  | none => match inBlock 0xF000 8 128 off with
  | some (i, _) => some (boxWord t.mboxReq (8 * i))
  | none => match inBlock 0xF400 8 128 off with
  | some (i, _) => some (boxWord t.mboxRsp (8 * i))
  | none => if off = 0xF800 then some (fields [(bitN t.mboxDone 0, 1), (bitN t.mboxGo 0, 0)]) else none

/-- A write of the mailbox request: the bytes that the mask covers. -/
def boxWrite (t : Tbl Byte) (off : Nat) (v mask : Word) : Tbl Byte :=
  (natsFrom 0 8).foldl (fun t i =>
    if mask.getLsbD (8 * i) then tset (off + i) (v.extractLsb' (8 * i) 8) t else t) t

/-- BUP_MBOX_CTL (R444): done is cleared by 1; go is set by 1, and the trust die takes the request. -/
def State.boxControl (s : State) (v mask : Word) : State :=
  let w := v &&& mask
  let s := if w.getLsbD 1 then s.modTrust (fun t => { t with mboxDone := false }) else s
  if w.getLsbD 0 && !s.trust.mboxGo then (s.modTrust (fun t => { t with mboxGo := true })).plan .bupMboxGo else s

def State.trustWrite (s : State) (off : Nat) (v mask : Word) : State :=
  if off = 0x50 then s.modTrust (fun t => { t with hwin := merged t.hwin v mask &&& 0x1FFFFFFFF })
  else if off = 0x2000 then s.modTrust (fun t => { t with budget := (merged (t.budget.setWidth 64) v mask).setWidth 32 })
  else match inBlock 0x2100 8 64 off with
  | some (r, _) => s.modRegion r (fun g => { g with weight := bits (merged (BitVec.ofNat 64 g.weight) v mask) 7 0 })
  | none => match inBlock 0x3000 8 512 off with
  | some (c, _) => if lowWritten mask && decide (c < s.grade) then s.pwrOp c v else s
  | none => match inBlock 0xF000 8 128 off with
  | some (i, _) => s.modTrust (fun t => { t with mboxReq := boxWrite t.mboxReq (8 * i) v mask })
  | none => if off = 0xF800 then s.boxControl v mask else s

/-! Blocks that several kinds of chiplet have. -/

/-- DISP_AGING (R310). -/
def agingValue (old : Nat) (v mask : Word) : Nat :=
  if lowWritten mask then (if bits v 31 0 = 0 then 1 else bits v 31 0) else old

/-- LNK_STATE and its block (R395); the low six bits of the offset name the register. -/
def State.linkRead (s : State) (die m r : Nat) : Word :=
  let l := s.link die m
  match r / 8 with
  | 0 => fields [(l.trains, 24), (l.spares, 16), (bitN (s.linkNotcon die m) 0, 11), (bitN l.half 0, 10), (bitN l.x32 0, 9),
                 (s.linkState die m, 0)]
  | 1 => fields [(bitN l.force32 0, 4), (bitN l.evtEn 0, 3)]
  | 2 => l.lanemap
  | 3 => l.retryCnt.setWidth 64
  | 4 => fields [(l.windowUs, 32), (l.thr.toNat, 0)]
  | 5 => fields [(l.corrected, 32), (l.gaps, 0)]
  | 6 => l.errlane
  | _ => BitVec.ofNat 64 l.dropped

/-- DEDUCED, log entry 79. -/
def State.linkWrite (s : State) (die m r : Nat) (v mask : Word) : State :=
  match r / 8 with
  | 1 =>
    if lowWritten mask then
      (s.modLink die m (fun l => { l with force32 := v.getLsbD 4, evtEn := v.getLsbD 3 })).linkCommand die m (bits v 2 0)
    else s
  | 2 => s.modLink die m (fun l => { l with lanemap := merged l.lanemap v mask })
  | 3 => if lowWritten mask then s.modLink die m (fun l => { l with retryCnt := v.setWidth 32 }) else s
  | 4 => s.modLink die m (fun l => { l with
      thr := if lowWritten mask then v.setWidth 32 else l.thr,
      windowUs := if mask.getLsbD 32 then (if bits v 47 32 = 0 then 1 else bits v 47 32) else l.windowUs })
  | 6 => s.modLink die m (fun l => { l with errlane := l.errlane &&& ~~~(v &&& mask) })
  | _ => s

/-- Does the chiplet have the module? -/
def hasModule (die m : Nat) : Bool :=
  if die < 512 then decide (m < 48) else if die < 592 then m / 12 = 1 else m / 12 = 3

/-- The transport and scale-out registers that compute and edge chiplets share (R383, R388, R402, R403). -/
def State.transportRead (s : State) (die off : Nat) : Option Word :=
  let c := s.chip die
  match inBlock 0x40000 64 48 off with
  | some (m, r) => if hasModule die m then some (s.linkRead die m r) else none
  | none => match inBlock 0x42000 8 1024 off with
  | some (d, _) => some (tget 0 d c.nsel)
  | none =>
    if off = 0x44000 then some (fields [(c.e2eBusy, 24), (c.e2eLimit, 16), (c.e2eTmo, 0)])
    else if off = 0x44008 then
      let opened := (s.streams.filter (fun e => e.1 / 1024 % 1024 = die && e.2.opened)).length
      some (fields [(c.giveups, 48), (min opened 65535, 32), (c.resends, 0)])
    else match inBlock 0x44100 8 4 off with
    | some (i, _) => some (tget 0 i c.dom)
    | none => match inBlock 0x44200 8 16 off with
    | some (i, _) => some (tget 0 i c.xcol)
    | none => none

/-- LNK_E2E (R388): a write of 0 to a field stores 1. -/
def Chip.setE2e (c : Chip) (v mask : Word) : Chip :=
  let old := fields [(c.e2eBusy, 24), (c.e2eLimit, 16), (c.e2eTmo, 0)]
  let w := merged old v mask
  { c with e2eBusy := atLeastOne (bits w 39 24), e2eLimit := atLeastOne (bits w 23 16), e2eTmo := atLeastOne (bits w 15 0) }

def State.transportWrite (s : State) (die off : Nat) (v mask : Word) : State :=
  match inBlock 0x40000 64 48 off with
  | some (m, r) => s.linkWrite die m r v mask
  | none => match inBlock 0x42000 8 1024 off with
  | some (d, _) => if lowWritten mask then s.nselWrite die d v else s
  | none =>
    if off = 0x44000 then s.modChip die (fun c => c.setE2e v mask)
    else match inBlock 0x44100 8 4 off with
    | some (i, _) => s.modChip die (fun c => { c with
        dom := tset i (merged (tget 0 i c.dom) v mask &&& (if i = 0 then 0x1F0FFF else maskAll)) c.dom })
    | none => match inBlock 0x44200 8 16 off with
    | some (i, _) => s.modChip die (fun c => { c with xcol := tset i (merged (tget 0 i c.xcol) v mask &&& 0xFF01FFFF) c.xcol })
    | none => s

/-! The block of a compute chiplet (R289, R310, R325, R349, R367, R368, R376, R423, R445). -/

/-- DISP_GSTAT (R325). -/
def State.gstat (s : State) (die : Nat) : Word :=
  let count (p : GState → Bool) : Nat :=
    s.kernels.foldl (fun n e => n + (e.2.groups.filter (fun (g : Nat × Group) => e.2.homeChip g.1 = die && p g.2.st)).length) 0
  fields [(bitN (s.chip die).powerWait 0, 48), (min 65535 (count (fun st => st = .running || st = .parked)), 32),
          (min 65535 (count (fun st => st = .released)), 16), (min 65535 (count (fun st => st = .ready)), 0)]

/-- The synchronisation block of a cluster (R349). -/
def State.syncRead (s : State) (clu r : Nat) : Option Word :=
  let c := s.cluster clu
  let bitsOf (p : Mutex → Bool) : Nat := (natsFrom 0 16).foldl (fun v i => v + bitN (p (c.mutex i)) i) 0
  if r = 0 then some (fields [(bitsOf (fun m => m.broken), 16), (bitsOf (fun m => m.holder.isSome), 0)])
  else if r < 0x28 then
    let k := r / 8 - 1
    some (fields ((natsFrom 0 4).map (fun i => ((c.sem (4 * k + i)).count, 16 * i))))
  else if 0x40 ≤ r then
    let b := c.bar ((r - 0x40) / 8)
    some (fields [(bitN b.phase 0, 16), (b.arrived, 8), (b.count, 0)])
  else none

/-- DISP_SYNC_SEMk is written: parked SEMWAITs proceed (R349). -/
def State.semWrite (s : State) (clu k : Nat) (v : Word) : State :=
  (natsFrom 0 4).foldl (fun s i =>
    let j := 4 * k + i
    (s.setSem clu j { (s.cluster clu).sem j with count := bits v (16 * i + 15) (16 * i) }).serveSem clu j 136) s

def State.syncWrite (s : State) (clu r : Nat) (v mask : Word) : State :=
  if r = 0 then
    (natsFrom 0 16).foldl (fun s i =>
      if (v &&& mask).getLsbD (16 + i) && ((s.cluster clu).mutex i).broken then
        s.setMutex clu i { (s.cluster clu).mutex i with broken := false } else s) s
  else if r < 0x28 then
    match s.syncRead clu r with
    | some old => s.semWrite clu (r / 8 - 1) (merged old v mask)
    | none => s
  else s

/-- DISP_SYNC_SEM_WRITE (R349). -/
def execDispSyncSemWrite (chip cluster k : Nat) (v : Word) (s : State) : Host.Outcome State Fault Refusal :=
  .next (if cluster < 132 && k < 4 then s.semWrite (chip * 132 + cluster) k v else s)

/-- Is the agent the service core of the cluster? -/
def Agent.serves (a : Agent) (clu : Nat) : Bool :=
  match a with
  | .serviceCore c => c = clu
  | .context k _ => k = svcOfClu clu
  | _ => false

/-- DISP_QMODE_WRITE (R289): only the cluster's service core selects the mode; any other write is counted in the chiplet's log. -/
def State.qmodeWrite (s : State) (a : Agent) (chip cluster : Nat) (v : Word) : State :=
  let clu := chip * 132 + cluster
  if !Agent.serves a clu then s.chipLog chip 0 cluster
  else
    let s := s.modChip chip (fun c => { c with qmode := tset cluster (v &&& 0x1FFFF) c.qmode })
    (natsFrom 0 17).foldl (fun s i =>
      let k := coreKey chip cluster i
      if (s.core k).creditNext = v.getLsbD i then s
      else (s.modCore k (fun c => { c with creditNext := v.getLsbD i })).settleMode k) s

/-- DISP_QMODE_WRITE (R289). -/
def execDispQmodeWrite (by_ : Agent) (chip cluster : Nat) (v : Word) (s : State) : Host.Outcome State Fault Refusal :=
  .next (if cluster < 132 then s.qmodeWrite by_ chip cluster v else s)

/-- The merge-buffer block of a cluster (R423). -/
def State.mergeRead (s : State) (clu r : Nat) : Option Word :=
  let m := (s.cluster clu).merge
  let bound (lo : Nat) : Word := fields ((natsFrom 0 64).map (fun j => (bitN (tfind (lo + j) m.slots).isSome 0, j)))
  match r with
  | 0x00 => some (fields [(m.hd, 32), (m.nentries, 21), (m.nslots, 13), (m.off, 0)])
  | 0x08 => some (fields [(min m.nacks 65535, 48), (min m.dropped 65535, 32), (m.merges % 2 ^ 23, 9), (m.entries.length, 0)])
  | 0x10 => some (bound 0)
  | 0x18 => some (bound 64)
  | _ => none

def State.chipRead (s : State) (die off : Nat) : Option Word :=
  let c := s.chip die
  match inBlock 0x800 8 132 off with
  | some (i, _) => some (tget 0x1FFFF i c.qmode)
  | none =>
    if off = 0x1000 then some (BitVec.ofNat 64 c.aging)
    else if off = 0x1010 then some (BitVec.ofNat 64 (c.share % 2 ^ 32))
    else if off = 0x1018 then some (BitVec.ofNat 64 (c.proj % 2 ^ 32))
    else if off = 0x1020 then some (s.gstat die)
    else if off = 0x1028 then some (BitVec.ofNat 64 c.sbFree)
    else if off = 0x58000 then some (BitVec.ofNat 64 c.mbTimeout)
    else match inBlock 0x20000 128 132 off with
    | some (i, r) => s.syncRead (die * 132 + i) r
    | none => match inBlock 0x30000 8 64 off with
    | some (i, _) => some (tget 0 i c.ftab)
    | none => match inBlock 0x31000 8 1024 off with
    | some (i, _) => some (tget 0 i c.stripes)
    | none => match inBlock 0x34000 8 132 off with
    | some (i, _) =>
      let v := (s.cluster (die * 132 + i)).carve
      some (fields [(v.backing / 2 ^ 21 % 2 ^ 35, 21), (v.state, 4), (v.ways, 0)])
    | none => match inBlock 0x50000 64 132 off with
    | some (i, r) => s.mergeRead (die * 132 + i) r
    | none => match inBlock 0x60000 16 4224 off with
    | some (i, r) => if r = 0 then some (tget 0 (i % 2) (s.core (coreKey die (i / 32) (i / 2 % 16))).watch) else none
    | none => s.transportRead die off

/-- DISP_WATCH (R445). -/
def State.setWatch (s : State) (k i : Nat) (v : Word) : State :=
  s.modCore k (fun c => { c with watch := tset i (v &&& 0x01FFFFFFFFFFFFFF) c.watch })

def State.chipWrite (s : State) (a : Agent) (die off : Nat) (v mask : Word) : State :=
  match inBlock 0x800 8 132 off with
  | some (i, _) => if lowWritten mask then s.qmodeWrite a die i v else s
  | none =>
    if off = 0x1000 then s.modChip die (fun c => { c with aging := agingValue c.aging v mask })
    else if off = 0x58000 then (if lowWritten mask then s.modChip die (fun c => { c with mbTimeout := bits v 31 0 }) else s)
    else match inBlock 0x20000 128 132 off with
    | some (i, r) => s.syncWrite (die * 132 + i) r v mask
    | none => match inBlock 0x30000 8 64 off with
    | some (i, _) => s.modChip die (fun c => { c with
        ftab := tset i (merged (tget 0 i c.ftab) v mask &&& 0x00FFFFFFFFFFFFC1) c.ftab })
    | none => match inBlock 0x31000 8 1024 off with
    | some (i, _) => s.modChip die (fun c => { c with
        stripes := tset i (merged (tget 0 i c.stripes) v mask &&& (if i % 4 = 0 then 0x1F else maskAll)) c.stripes })
    | none => match inBlock 0x60000 16 4224 off with
    | some (i, _) =>
      let k := coreKey die (i / 32) (i / 2 % 16)
      s.setWatch k (i % 2) (merged (tget 0 (i % 2) (s.core k).watch) v mask)
    | none => s.transportWrite die off v mask

/-! The block of an edge chiplet (R297, R310, R401, R423). -/

/-- MB_SWEEP (R423). -/
def State.sweepRead (s : State) (sw : Nat) : Word :=
  match tfind sw s.sweeps with
  | none => 0
  | some w =>
    let st : Nat := match w.st with
      | .opened => 1
      | .sweeping => 2
      | .closedDone => 3
    fields [(w.keyid, 47), (w.hd, 38), (w.pblk, 28), (bitN w.det 0, 27), (w.bound % 2 ^ 24, 3), (st, 0)]

def State.edgeRead (s : State) (die off : Nat) : Option Word :=
  let c := s.chip die
  let e := die - 576
  if off = 0x1000 then some (BitVec.ofNat 64 c.aging)
  else if off = 0x44300 then some (BitVec.ofNat 64 c.etype)
  else match inBlock 0x10000 32 32 off with
  | some (w, r) => some ((s.wq (32 * e + w)).reg (r / 8))
  | none => match inBlock 0x44310 8 2 off with
  | some (p, _) => some (tget 0 p c.macs)
  | none => match inBlock 0x48000 8 4096 off with
  | some (n, _) => some (tget 0 n c.peers)
  | none => match inBlock 0x50000 8 8 off with
  | some (n, _) => some (s.sweepRead (32 * n + e))
  | none => s.transportRead die off

/-- Does the agent configure the scale-out ports: programs have no access to them (R400)? -/
def Agent.configures : Agent → Bool
  | .bartan | .host | .controller => true
  | _ => false

/-- A register of a work queue (R297). -/
def State.wqRegWrite (s : State) (q r : Nat) (v mask : Word) : State :=
  if !lowWritten mask then s
  else match r / 8 with
  | 0 => s.wqCtl q v
  | 3 => s.wqTail q (bits v 15 0)
  | _ => s

def State.edgeWrite (s : State) (a : Agent) (die off : Nat) (v mask : Word) : State :=
  let e := die - 576
  if off = 0x1000 then s.modChip die (fun c => { c with aging := agingValue c.aging v mask })
  else if off = 0x44300 then
    (if Agent.configures a && lowWritten mask then s.modChip die (fun c => { c with etype := bits v 15 0 }) else s)
  else match inBlock 0x10000 32 32 off with
  | some (w, r) => s.wqRegWrite (32 * e + w) r v mask
  | none => match inBlock 0x44310 8 2 off with
  | some (p, _) =>
    if Agent.configures a then
      s.modChip die (fun c => { c with macs := tset p (merged (tget 0 p c.macs) v mask &&& 0xFFFFFFFFFFFF) c.macs })
    else s
  | none => match inBlock 0x48000 8 4096 off with
  | some (n, _) =>
    if Agent.configures a then
      (s.modChip die (fun c => { c with peers := tset n (merged (tget 0 n c.peers) v mask &&& 0x1FFFFFFFFFFFF) c.peers })).departAll
    else s
  | none => s.transportWrite die off v mask

/-! Any register. -/

/-- The register of a die at an offset that is a multiple of 8: its value, or none (R218, R219). -/
def State.mmioRead (s : State) (die off : Nat) : Option Word :=
  if die < 512 then (if die < s.grade then s.chipRead die off else none)
  else if die < 576 then none
  else if die < 608 then s.edgeRead die off
  else if die = 608 then s.trustRead off
  else none

/-- A write by an agent of the bytes that a mask covers; registers that are read only ignore it (DEDUCED, log entry 37). -/
def State.mmioWrite (s : State) (a : Agent) (die off : Nat) (v mask : Word) : State :=
  if die < 512 then s.chipWrite a die off v mask
  else if die < 608 then s.edgeWrite a die off v mask
  else s.trustWrite off v mask

/-- A write of 4 or 8 bytes at an offset (R221). -/
def State.mmioStore (s : State) (a : Agent) (die off : Nat) (wide : Bool) (v : Word) : State :=
  if wide then s.mmioWrite a die off v maskAll
  else if off % 8 = 0 then s.mmioWrite a die off v maskLow
  else s.mmioWrite a die (off - 4) (v <<< 32) maskHigh

/-! The host's windows (R442). -/

/-- A record window: eight or four bytes of slot i of a queue. -/
def State.slotWrite (s : State) (q byte : Nat) (wide : Bool) (v : Word) : State :=
  let i := byte / 64 % 64
  let n := if wide then 64 else 32
  let sh := 8 * (byte % 64)
  s.modWq q (fun w =>
    let old : Rec := tget 0 i w.slots
    let mask : Rec := BitVec.ofNat 512 ((2 ^ n - 1) * 2 ^ sh)
    { w with slots := tset i ((old &&& ~~~mask) ||| (BitVec.ofNat 512 (v.toNat % 2 ^ n * 2 ^ sh) &&& mask)) w.slots })

/-- The host's write through its window to memory of the module (DEDUCED, log entry 80). -/
def State.hostStore (s : State) (pa : Nat) (wide : Bool) (v : Word) : State :=
  let n := if wide then 8 else 4
  let rs := (natsFrom pa n).map (fun a => s.paLoc a 0)
  let ls := rs.filterMap (fun r => match r with
    | .ok l => some l
    | .error _ => none)
  if ls.length = n then s.perform (mgmtKey 608) 8 (ls.zip (leBytes n v.toNat)) else s

/-- REGISTER_WRITE (R6, R221, R442). An offset below 2^40 lies in the die's MMIO space; from 2^40 on a host's write reaches a
record window (edge chiplets) or, counted from there, the die's other spaces; on a DRAM die it is the byte offset. -/
def State.registerWrite (s : State) (a : Agent) (die off : Nat) (wide : Bool) (v : Word) : State :=
  let aligned := off % (if wide then 8 else 4) = 0
  let host : Bool := a = .host
  if !aligned then s
  else if 512 ≤ die && die < 576 then (if host then s.hostStore (die * 2 ^ 46 + off) wide v else s)
  else if off < 2 ^ 40 then (if (s.mmioRead die (off / 8 * 8)).isSome then s.mmioStore a die off wide v else s)
  else if !host then s
  else if 576 ≤ die && die < 608 then
    let b := off - 2 ^ 40
    (if b < 131072 then s.slotWrite (32 * (die - 576) + b / 4096) (b % 4096) wide v else s)
  else if die < 512 then s.hostStore (die * 2 ^ 46 + (off - 2 ^ 40)) wide v
  else s

/-- REGISTER_WRITE (R6). -/
def execRegisterWrite (by_ : Agent) (die off : Nat) (wide : Bool) (v : Word) (s : State) : Host.Outcome State Fault Refusal :=
  .next (s.registerWrite by_ die off wide v)

end Sys2Proof.Machine
end

