-- ==== Sys2Proof/Machine/Access.lean ====
section
/-! DEFINITION. Scalar memory instructions (R107-R111, R116-R120): loads, stores, atomics, fences, PAUSE and WFI; and what becomes
of a request at its home and on the way back (R227-R229, R238, R385). -/

namespace Sys2Proof.Machine

/-! What an access asks. -/

/-- How a load orders and what may serve it (R116, R228). -/
structure LoadForm where
  strong : Bool
  /-- May the L1 serve it? -/
  cached : Bool
  /-- The scope of an acquire. -/
  acq : Option Scope
  signed : Bool
  lr : Bool
  /-- The base register of a weak load, which it may have been performed early for (R228). -/
  base : Option Reg := none

/-- The value of loaded bytes in a register (R106, R116). -/
def extended (signed : Bool) (bs : List Byte) : Word :=
  let v := leNat bs
  if signed && decide (2 ^ (8 * bs.length - 1) ≤ v) then BitVec.ofNat 64 (v + (2 ^ 64 - 2 ^ (8 * bs.length))) else BitVec.ofNat 64 v

/-- The pending errors that are due at an instruction that waits for acknowledgements (R242, R253). -/
def State.dueIf (s : State) (waits : Bool) (act : State → State) : State := if waits then s.orPending [.store] act else act s

/-- Wait for the acknowledgement of earlier stores when the instruction releases (R238). -/
def State.afterAcks (s : State) (waits : Bool) (act : State → State) : State :=
  if waits && s.owes then s.block .acks else act s

/-- Is the scope of a release or acquire wider than .core? -/
def wideOpt : Option Scope → Bool
  | some sc => scopeWide sc
  | none => false

/-- A strong access must be naturally aligned (R110, R117, R119). -/
def State.alignedTo (s : State) (va : Word) (len : Nat) (act : State → State) : State :=
  if va.toNat % len ≠ 0 then s.trap cMISALIGNED_ATOMIC va else act s

/-! Registers (R221). -/

/-- The register access that a range makes: die, offset and width, or none for a range that holds no register; an error where the
access is not one to one register. -/
def State.mmioOf (s : State) (acc : Acc) (va : Word) (ls : List Loc) : Except Flt (Option (Nat × Nat)) :=
  match mmioFlt acc va ls with
  | none => .ok none
  | some f =>
    match ls with
    | l :: _ =>
      match l.kind with
      | .mmio off =>
        if (ls.length = 4 || ls.length = 8) && off % ls.length = 0 && (s.mmioRead l.die (off / 8 * 8)).isSome then .ok (some (l.die, off))
        else .error { f with addr := va }
      | _ => .error f
    | [] => .error f

/-- May the access to a register be performed now: the way is open, and earlier accesses of the context are through (R221)? -/
def State.regOpen (s : State) (ls : List Loc) : Bool :=
  s.waysOpen s.curCore ls && ls.all (fun l => !s.ahead s.curCore l.die)

/-- The half or the whole of a register. -/
def mmioPart (v : Word) (off len : Nat) : List Byte := (leBytes 8 v.toNat).drop (off % 8) |>.take len

/-! Loads. -/

/-- The L1 line that serves a place for the executing context (R226, R235). -/
def State.l1Byte (s : State) (k n : Nat) (l : Loc) : Option Byte :=
  match (s.core k).l1d.find? (fun e => e.line = lineOf l.key && e.views.getLsbD n) with
  | some e => e.bytes[l.key % 128]?
  | none => none

/-- The byte that a weak load may return: the context's own store in flight, the L1's, or the home's. -/
def State.weakByte (s : State) (k n : Nat) (l : Loc) : Byte :=
  match s.l1Byte k n l with
  | some v => v
  | none => s.seenByte k n l

/-- The lines an L1 of n lines holds when one enters: when it is full one of them, whichever, makes room (R109, R226; log entry 15,
DESIGN CHOICE). -/
def evictOne (n clock : Nat) (ls : List L1Line) : List L1Line :=
  if ls.length < n then ls else ls.eraseIdx (Config.victim clock % ls.length)

/-- A miss fills the line, in the context's view; a line that is there joins the view when its bytes are the home's. -/
def State.fillL1D (s : State) (k n : Nat) (l : Loc) : State :=
  let bytes := (natsFrom 0 128).map (fun i => s.seenByte k n { l with key := 128 * lineOf l.key + i })
  let views := match (s.core k).l1d.find? (fun e => e.line = lineOf l.key && e.bytes = bytes) with
    | some e => e.views
    | none => 0
  let new : L1Line := { line := lineOf l.key, bytes := bytes, views := views ||| (1#8 <<< n) }
  s.modCore k (fun c => { c with l1d := new :: evictOne 64 s.clock (c.l1d.filter (fun e => e.line != lineOf l.key)) })

/-- The L1 takes the lines of a weak load, when the turn says so (log entry 7, DESIGN CHOICE). -/
def State.fillFor (s : State) (kind : LoadForm) (ls : List Loc) : State :=
  if kind.cached && s.mode.fill then
    ls.foldl (fun s l => if l.cacheable && (s.l1Byte s.curCore s.curCtx l).isNone then s.fillL1D s.curCore s.curCtx l else s) s
  else s

/-- The acquire of an access that reads some places, when it has one (R231, R235). -/
def State.acquireOf (s : State) (k n : Nat) (sc : Option Scope) (keys : List Nat) : State :=
  match sc with
  | some sc => s.acquireFrom k n sc (some (keys.map lineOf))
  | none => s

def State.acquireOpt (s : State) (sc : Option Scope) (ls : List Loc) : State :=
  s.acquireOf s.curCore s.curCtx sc (ls.map (·.key))

/-- The reservation of an LR (R110). -/
def State.reserve (s : State) (lr : Bool) (l : Loc) : State :=
  if lr then s.modCur (fun c => { c with lrRes := some (lineOf l.key) }) else s

/-- Are all places at one home? -/
def oneHome : List Loc → Bool
  | [] => false
  | l :: r => r.all (fun m => m.die = l.die && m.clu = l.clu && m.keyid = l.keyid)

/-- The bytes of a weak load that has been performed early, in one piece or byte by byte (R228). -/
def State.earlyLoad (s : State) (kind : LoadForm) (ls : List Loc) : Option (List Byte) :=
  if kind.strong || s.cur.early.isEmpty then none
  else ls.mapM (fun l => s.earlyByte s.curCore s.curCtx kind.base l.key)

/-- The load has been performed early, is performed, or travels as a request, or waits for its way. -/
def State.performLoad (s : State) (kind : LoadForm) (rd : Reg) (va : Word) (ls : List Loc) : State :=
  let k := s.curCore
  let n := s.curCtx
  match s.earlyLoad kind ls with
  | some bs => (s.dropEarly k n (ls.map (·.key))).done rd (extended kind.signed bs)
  | none =>
  let cached := kind.cached && ls.all (fun l => (s.l1Byte k n l).isSome)
  let now := ls.all (fun l => if kind.strong then s.atOnce k l else l.kind = .own || (!s.mode.slow && s.wayOpen k l))
  if cached || now then
    let v := extended kind.signed (ls.map (if kind.cached then s.weakByte k n else s.seenByte k n))
    let s := if cached then s else s.ownAccess k n (ls.map (·.key))
    let s := (s.fillFor kind ls).acquireOpt kind.acq ls
    match ls with
    | l :: _ => (s.reserve kind.lr l).done rd v
    | [] => s.done rd v
  else if oneHome ls then
    match ls with
    | l :: _ =>
      let id := s.clock
      ((s.ownAccess k n (ls.map (·.key))).sendReq { Req.fresh id k n l.keyid (dieOf k) l.die va
        (.load (ls.map (·.key)) kind.signed rd kind.lr) with acq := kind.acq }).block (.reply id)
    | [] => s
  else s

/-- A load of len bytes at va. -/
def State.load (s : State) (kind : LoadForm) (acc : Acc) (rel : Bool) (rd : Reg) (va : Word) (len : Nat) : State :=
  let go (s : State) : State :=
    s.andThen (s.xlateRange s.whoCur acc va len) (fun ls =>
      s.andThen (s.mmioOf acc va ls) (fun reg =>
        match reg with
        | some (die, off) =>
          if kind.lr then s.trap cLOAD_ACCESS va
          else if s.regOpen ls then
            (s.acquireOpt kind.acq ls).done rd (extended kind.signed (mmioPart ((s.mmioRead die (off / 8 * 8)).getD 0) off len))
          else s
        | none =>
          match s.firstDataError va ls with
          | some f => s.fault f
          | none => s.afterAcks rel (fun s => s.performLoad kind rd va ls)))
  s.dueIf rel (fun s => s.watched [watchLoad] (addrsFrom va len) (fun s =>
    if kind.strong then s.alignedTo va len go else go s))

def weakLoad (signed : Bool) : LoadForm := { strong := false, cached := true, acq := none, signed := signed, lr := false }
def directLoad : LoadForm := { strong := false, cached := false, acq := none, signed := true, lr := false }
def strongLoad (acq : Option Scope) : LoadForm := { strong := true, cached := false, acq := acq, signed := true, lr := false }

/-- The size in bytes of a standard load, and whether it extends the sign (R106). -/
def LoadKind.shape : LoadKind → Nat × Bool
  | .lb => (1, true) | .lh => (2, true) | .lw => (4, true) | .ld => (8, true)
  | .lbu => (1, false) | .lhu => (2, false) | .lwu => (4, false)

/-- RV_LOAD (R107). -/
def execRvLoad (k : LoadKind) (rd rs1 : Reg) (imm : BitVec 12) (s : State) : Host.Outcome State Fault Refusal :=
  .next (s.load { weakLoad (LoadKind.shape k).2 with base := some rs1 } .load false rd (s.rx rs1 + sx imm) (LoadKind.shape k).1)

/-- LQ (R116). -/
def execLq (bypass : Bool) (sz : QSize) (rd rs1 : Reg) (off : BitVec 7) (s : State) : Host.Outcome State Fault Refusal :=
  .next (s.load { (if bypass then directLoad else weakLoad true) with base := some rs1 } .load false rd (qAddr (s.rx rs1) off sz) (QSize.bytes sz))

/-- LQ_S (R116, R117). -/
def execLqS (_sc : Scope) (sz : QSize) (rd rs1 : Reg) (off : BitVec 7) (s : State) : Host.Outcome State Fault Refusal :=
  .next (s.load (strongLoad none) .load false rd (qAddr (s.rx rs1) off sz) (QSize.bytes sz))

/-- LQ_AQ (R116, R117). -/
def execLqAq (sc : Scope) (sz : QSize) (rd rs1 : Reg) (off : BitVec 7) (s : State) : Host.Outcome State Fault Refusal :=
  .next (s.load (strongLoad (some sc)) .load false rd (qAddr (s.rx rs1) off sz) (QSize.bytes sz))

/-- LR (R110). -/
def execLr (dbl aq rl : Bool) (rd rs1 : Reg) (s : State) : Host.Outcome State Fault Refusal :=
  .next (s.load { strongLoad (if aq then some .clu else none) with lr := true } .lr rl rd (s.rx rs1) (if dbl then 8 else 4))

/-! Stores. -/

/-- A request for the home of the places, for which the context waits, with the scope of its acquire. -/
def State.askHome (s : State) (va : Word) (ls : List Loc) (kind : ReqKind) (acq : Option Scope) : State :=
  match ls with
  | l :: _ =>
    let id := s.clock
    ((s.ownAccess s.curCore s.curCtx (ls.map (·.key))).sendReq
      { Req.fresh id s.curCore s.curCtx l.keyid (dieOf s.curCore) l.die va kind with acq := acq }).block (.reply id)
  | [] => s

/-- A store of bytes at va, after the acknowledgements that a release waits for. A strong one is complete only once it has been
performed (R242). -/
def State.store (s : State) (strong rel : Bool) (va : Word) (bs : List Byte) : State :=
  let go (s : State) : State :=
    s.andThen (s.xlateRange s.whoCur .store va bs.length) (fun ls =>
      s.andThen (s.mmioOf .store va ls) (fun reg =>
        s.afterAcks rel (fun s =>
          match reg with
          | some (die, off) =>
            if s.regOpen ls then
              (s.mmioStore (.context s.curCore s.curCtx) die off (bs.length = 8) (BitVec.ofNat 64 (leNat bs))).complete
            else s
          | none =>
            if !strong then (s.storeLocs s.curCore s.curCtx va (ls.zip bs)).complete
            else
              let s := s.letOut s.curCore s.curCtx
              if ls.all (s.atOnce s.curCore) then (s.perform s.curCore s.curCtx (ls.zip bs)).complete
              else s.askHome va ls (.store ((ls.map (·.key)).zip bs) true) none)))
  s.dueIf rel (fun s => s.watched [watchStore] (addrsFrom va bs.length) (fun s =>
    if strong then s.alignedTo va bs.length go else go s))

/-- The size of a standard store (R106). -/
def StoreKind.bytes : StoreKind → Nat
  | .sb => 1 | .sh => 2 | .sw => 4 | .sd => 8

/-- RV_STORE (R107). -/
def execRvStore (k : StoreKind) (rs2 rs1 : Reg) (imm : BitVec 12) (s : State) : Host.Outcome State Fault Refusal :=
  .next (s.store false false (s.rx rs1 + sx imm) (leBytes (StoreKind.bytes k) (s.rx rs2).toNat))

/-- SQ (R116). -/
def execSq (sz : QSize) (rs2 rs1 : Reg) (off : BitVec 7) (s : State) : Host.Outcome State Fault Refusal :=
  .next (s.store false false (qAddr (s.rx rs1) off sz) (leBytes (QSize.bytes sz) (s.rx rs2).toNat))

/-- SQ_S (R116, R117). -/
def execSqS (_sc : Scope) (sz : QSize) (rs2 rs1 : Reg) (off : BitVec 7) (s : State) : Host.Outcome State Fault Refusal :=
  .next (s.store true false (qAddr (s.rx rs1) off sz) (leBytes (QSize.bytes sz) (s.rx rs2).toNat))

/-- SQ_RL (R116, R117, R238). -/
def execSqRl (sc : Scope) (sz : QSize) (rs2 rs1 : Reg) (off : BitVec 7) (s : State) : Host.Outcome State Fault Refusal :=
  .next (s.store true (scopeWide sc) (qAddr (s.rx rs1) off sz) (leBytes (QSize.bytes sz) (s.rx rs2).toNat))

/-! Atomics. -/

/-- The checks that atomics share: alignment, translation, no register, data errors (R105, R110, R119); loads of the same bytes performed
early are over (R234 case 5). -/
def State.atomic (s : State) (rel : Bool) (va : Word) (len : Nat) (act : List Loc → State → State) : State :=
  s.dueIf rel (fun s => s.watched [watchLoad, watchStore] (addrsFrom va len) (fun s => s.alignedTo va len (fun s =>
    s.andThen (s.xlateRange s.whoCur .rmw va len) (fun ls =>
      match mmioFlt .rmw va ls with
      | some f => s.fault { f with addr := va }
      | none =>
        match s.firstDataError va ls with
        | some f => s.fault f
        | none => s.afterAcks rel (fun s => act ls (s.ownAccess s.curCore s.curCtx (ls.map (·.key))))))))

/-- An atomic read-modify-write, with the scopes of its acquire and whether it is a wide release; what is in flight of the context
goes before it for the core's own observers (R119, R230). -/
def State.amo (s : State) (op : AmoOp) (dbl : Bool) (acq : Option Scope) (rel : Bool) (rd : Reg) (va b e : Word) : State :=
  s.atomic rel va (if dbl then 8 else 4) (fun ls s =>
    let s := if acq.isSome then s.letOut s.curCore s.curCtx else s
    if ls.all (s.atOnce s.curCore) then
      let r := s.amoAt s.curCore s.curCtx ls op dbl b e
      (r.2.acquireOpt acq ls).done rd r.1
    else s.askHome va ls (.amo op ((ls.map (·.key)).headD 0) dbl rd b e) acq)

/-- RV_AMO (R110). -/
def execRvAmo (op : StdAmo) (dbl aq rl : Bool) (rd rs1 rs2 : Reg) (s : State) : Host.Outcome State Fault Refusal :=
  .next (s.amo (StdAmo.amo op) dbl (if aq then some .clu else none) rl rd (s.rx rs1) (s.rx rs2) 0)

/-- AMOQ of an operation: acquire and release at its scope (R118, R119). -/
def State.amoq (s : State) (op : AmoOp) (sc : Scope) (dbl : Bool) (rd rs1 rs2 : Reg) : State :=
  s.amo op dbl (some sc) (scopeWide sc) rd (s.rx rs1) (s.rx rs2) (s.rx rd)

/-- AMOQ_ADD (R118). -/
def execAmoqAdd (sc : Scope) (dbl : Bool) (rd rs1 rs2 : Reg) (s : State) : Host.Outcome State Fault Refusal :=
  .next (s.amoq .add sc dbl rd rs1 rs2)

/-- AMOQ_SWAP (R118). -/
def execAmoqSwap (sc : Scope) (dbl : Bool) (rd rs1 rs2 : Reg) (s : State) : Host.Outcome State Fault Refusal :=
  .next (s.amoq .swap sc dbl rd rs1 rs2)

/-- AMOQ_AND (R118). -/
def execAmoqAnd (sc : Scope) (dbl : Bool) (rd rs1 rs2 : Reg) (s : State) : Host.Outcome State Fault Refusal :=
  .next (s.amoq .and sc dbl rd rs1 rs2)

/-- AMOQ_OR (R118). -/
def execAmoqOr (sc : Scope) (dbl : Bool) (rd rs1 rs2 : Reg) (s : State) : Host.Outcome State Fault Refusal :=
  .next (s.amoq .or sc dbl rd rs1 rs2)

/-- AMOQ_XOR (R118). -/
def execAmoqXor (sc : Scope) (dbl : Bool) (rd rs1 rs2 : Reg) (s : State) : Host.Outcome State Fault Refusal :=
  .next (s.amoq .xor sc dbl rd rs1 rs2)

/-- AMOQ_MIN (R118). -/
def execAmoqMin (sc : Scope) (dbl : Bool) (rd rs1 rs2 : Reg) (s : State) : Host.Outcome State Fault Refusal :=
  .next (s.amoq .min sc dbl rd rs1 rs2)

/-- AMOQ_MAX (R118). -/
def execAmoqMax (sc : Scope) (dbl : Bool) (rd rs1 rs2 : Reg) (s : State) : Host.Outcome State Fault Refusal :=
  .next (s.amoq .max sc dbl rd rs1 rs2)

/-- AMOQ_MINU (R118). -/
def execAmoqMinu (sc : Scope) (dbl : Bool) (rd rs1 rs2 : Reg) (s : State) : Host.Outcome State Fault Refusal :=
  .next (s.amoq .minu sc dbl rd rs1 rs2)

/-- AMOQ_MAXU (R118). -/
def execAmoqMaxu (sc : Scope) (dbl : Bool) (rd rs1 rs2 : Reg) (s : State) : Host.Outcome State Fault Refusal :=
  .next (s.amoq .maxu sc dbl rd rs1 rs2)

/-- AMOQ_CAS (R118). -/
def execAmoqCas (sc : Scope) (dbl : Bool) (rd rs1 rs2 : Reg) (s : State) : Host.Outcome State Fault Refusal :=
  .next (s.amoq .cas sc dbl rd rs1 rs2)

/-- SC at the home (R110): context n of core k stores the bytes if its reservation is on their line; in both cases the reservation
is cleared. The result is 0 or 1. -/
def State.scAt (s : State) (k n : Nat) (ls : List Loc) (bs : List Byte) : Word × State :=
  let ok := (ls.map (fun l => lineOf l.key)).head? = (s.ctx k n).lrRes
  let s := s.modCtx k n (fun c => { c with lrRes := none })
  if ok then (0, s.perform k n (ls.zip bs)) else (1, s)

/-- SC (R110). -/
def execSc (dbl aq rl : Bool) (rd rs1 rs2 : Reg) (s : State) : Host.Outcome State Fault Refusal :=
  let len := if dbl then 8 else 4
  let bs := leBytes len (s.rx rs2).toNat
  let acq := if aq then some Scope.clu else none
  .next (s.atomic rl (s.rx rs1) len (fun ls s =>
    if ls.all (s.atOnce s.curCore) then
      let r := s.scAt s.curCore s.curCtx ls bs
      (r.2.acquireOpt acq ls).done rd r.1
    else s.askHome (s.rx rs1) ls (.sc ((ls.map (·.key)).zip bs) rd) acq))

/-! Fences (R108, R109, R120). -/

/-- A fence at a scope: it is a release when it orders stores before something, and acquires when it orders something before loads
(R233) (DEDUCED, log entry 74). -/
def State.fenceAt (s : State) (sc : Scope) (rel acq : Bool) : State :=
  let fin (s : State) : State := (if acq then s.acquire sc else s).complete
  if rel then s.release sc fin else fin s

/-- FENCE (R108): bits 3-0 of a set are I, O, R, W; a fence with an empty set orders nothing. -/
def State.fenceSets (s : State) (pred succ : BitVec 4) : State :=
  let io := pred.getLsbD 3 || pred.getLsbD 2 || succ.getLsbD 3 || succ.getLsbD 2
  let sc : Scope := if io then .sys else .mod
  if pred = 0 || succ = 0 then s.complete
  else s.fenceAt sc (pred.getLsbD 0 || pred.getLsbD 2) (succ.getLsbD 1 || succ.getLsbD 3)

/-- FENCE (R108). -/
def execFence (_fm pred succ : BitVec 4) (_rs1 _rd : Reg) (s : State) : Host.Outcome State Fault Refusal :=
  .next (s.fenceSets pred succ)

/-- FENCE_TSO (R108): as FENCE RW,RW. -/
def execFenceTso (_rs1 _rd : Reg) (s : State) : Host.Outcome State Fault Refusal := .next (s.fenceSets 3 3)

/-- FENCE_I (R109). -/
def execFenceI (_imm : BitVec 12) (_rs1 _rd : Reg) (s : State) : Host.Outcome State Fault Refusal :=
  .next (s.awaitAcks (fun s => (s.modHere (fun c => { c with l1i := [] })).complete))

/-- FENCEQ (R120). -/
def execFenceq (sc : Scope) (s : State) : Host.Outcome State Fault Refusal := .next (s.fenceAt sc true true)

/-! PAUSE and WFI. -/

/-- PAUSE (R108): ineligible for 16 local cycles. -/
def execPause (s : State) : Host.Outcome State Fault Refusal :=
  .next (s.complete.block (.pause (s.cycleOf s.curCore + 16)))

/-- WFI (R111). -/
def execWfi (s : State) : Host.Outcome State Fault Refusal :=
  .next (s.notInHandler (fun s =>
    if s.cur.wake then (s.modCur (fun c => { c with wake := false })).complete else s.block .wfi))

/-! Requests at their homes (R229, R238, R385). -/

/-- A change of a chiplet's own entry takes effect once what travelled inside it has been performed (R384). -/
def State.settleOwnPath (s : State) (die : Nat) : State :=
  if (tfind die (s.chip die).draining).isSome && !s.inDie die then
    (s.modChip die (fun c => { c with draining := tdel die c.draining })).departAll
  else s

/-- The request has been performed: its reply or acknowledgement travels back, and those behind it are looked at. -/
def State.answered (s : State) (r : Req) (reply : Word) (replies acks : Bool) : State :=
  let s := (s.modReq r.id (fun q => { q with phase := .done, reply := reply })).nudge r.core
  let s := if replies then s.plan (.loadReply r.id) else s
  if r.src = r.dst then
    let s := match r.kind with
      | .token _ => { s with reqs := s.reqs.filter (fun q => q.id != r.id) }
      | _ => if acks then s.plan (.storeAck r.id) else s
    s.settleOwnPath r.src
  else s.plan (.e2eAck r.src r.dst r.seq)

/-- Where a request is performed: its die and cluster, or for a message its destination. -/
def State.reqHome (s : State) (r : Req) : Nat × Nat :=
  match r.kind with
  | .msg k uid => (r.dst, match s.msg? k uid with
    | some m => m.dst
    | none => 0)
  | _ => match r.kind.keys with
    | a :: _ => (r.dst, (s.locOfKey a r.keyid).clu)
    | [] => (r.dst, 0)

/-- Must a request wait at its home for an earlier one of its core that has not been performed: of its context and for the same home
(R229, R239), or one that the context has acquired at .core (R232), or a write to the same bytes (R234 case 5)? -/
def State.behind (s : State) (r : Req) : Bool :=
  let seen := (s.ctx r.core r.ctx).seen
  let isMsg (q : Req) : Bool := match q.kind with
    | .msg _ _ => true
    | _ => false
  s.reqs.any (fun q => decide (q.id < r.id) && q.core = r.core && q.phase ≠ .done && isMsg q = isMsg r &&
    (((q.ctx = r.ctx || seen.contains q.id) && s.reqHome q = s.reqHome r) ||
      (q.kind.writes && r.kind.writes && q.kind.keys.any (fun a => r.kind.keys.contains a))))

/-- A load, AMO or SC that meets a data error at its home traps at its instruction. -/
def State.homeError (s : State) (r : Req) (keys : List Nat) (act : State → State) : State :=
  match s.firstDataError r.va (keys.map (fun a => s.locOfKey a r.keyid)) with
  | none => act s
  | some f =>
    let s := if (s.ctx r.core r.ctx).wait = .reply r.id then s.takeTrap r.core r.ctx f.cause f.addr f.info (s.ctx r.core r.ctx).pc else s
    s.answered r 0 true false

/-- A weak store is performed again with the same value (R228, repeat). -/
def State.repeatStore (s : State) (r : Req) : State :=
  match r.kind with
  | .store bs false => if r.again then s.perform r.core r.ctx (bs.map (fun b => (s.locOfKey b.1 r.keyid, b.2))) else s
  | _ => s

/-- MEMORY_REQUEST_AT_HOME (R229). -/
def State.atHome (s : State) (id : Nat) : State :=
  match s.req? id with
  | none => s
  | some r =>
    if r.phase = .done then s.repeatStore r
    else if r.phase ≠ .home || s.behind r then s
    else
      let loc (a : Nat) : Loc := s.locOfKey a r.keyid
      match r.kind with
      | .store bs _ => (s.perform r.core r.ctx (bs.map (fun b => (loc b.1, b.2)))).answered r 0 false true
      | .load keys signed _ lr =>
        s.homeError r keys (fun s =>
          let v := extended signed (keys.map (fun a => s.byteAt (loc a)))
          let s := if lr && (s.ctx r.core r.ctx).wait = .reply r.id then
              s.modCtx r.core r.ctx (fun c => { c with lrRes := keys.head?.map lineOf }) else s
          (s.acquireOf r.core r.ctx r.acq keys).answered r v true false)
      | .amo op a dbl _ b e =>
        let keys := natsFrom a (if dbl then 8 else 4)
        s.homeError r keys (fun s =>
          let p := s.amoAt r.core r.ctx (keys.map loc) op dbl b e
          (p.2.acquireOf r.core r.ctx r.acq keys).answered r p.1 true false)
      | .sc bs _ =>
        let p := s.scAt r.core r.ctx (bs.map (fun b => loc b.1)) (bs.map (·.2))
        (p.2.acquireOf r.core r.ctx r.acq (bs.map (·.1))).answered r p.1 true false
      | .msg k uid => (s.arriveMsg k uid).answered r 0 false false
      | .drain _ => s.answered r 0 false false
      | .token i => (s.plan i).answered r 0 false false

/-- MEMORY_REQUEST_AT_HOME (R229). -/
def execMemoryRequestAtHome (id : Nat) (s : State) : Host.Outcome State Fault Refusal := .next (s.atHome id)

/-- The register that the reply of a request goes to, when it has one. -/
def ReqKind.target : ReqKind → Option Reg
  | .load _ _ rd _ => some rd
  | .amo _ _ _ rd _ _ => some rd
  | .sc _ rd => some rd
  | _ => none

/-- LOAD_REPLY (R227): the instruction completes with the reply. -/
def State.replied (s : State) (id : Nat) : State :=
  match s.req? id with
  | none => s
  | some r =>
    match ReqKind.target r.kind with
    | none => s
    | some rd =>
      if r.phase ≠ .done then s
      else
        let s := { s with reqs := s.reqs.filter (fun q => q.id != id) }
        if (s.ctx r.core r.ctx).wait = .reply id then s.finish r.core r.ctx rd r.reply else s

/-- LOAD_REPLY (R227). -/
def execLoadReply (id : Nat) (s : State) : Host.Outcome State Fault Refusal := .next (s.replied id)

/-- STORE_ACK (R238): of a request of another chiplet, the end-to-end acknowledgement. -/
def State.storeAcked (s : State) (id : Nat) : State :=
  match s.req? id with
  | none => s
  | some r =>
    match r.kind with
    | .store _ strong =>
      if r.phase ≠ .done || (r.src ≠ r.dst && (s.stream r.src r.dst).unacked.contains r.seq) then s
      else
        let s := { s with reqs := s.reqs.filter (fun q => q.id != id) }
        if strong then
          (if (s.ctx r.core r.ctx).wait = .reply id then s.modCtx r.core r.ctx (fun c => { c with pc := c.pc + 4, wait := .none }) else s)
        else
          let s := if r.ctx < 8 then s.modCtx r.core r.ctx (fun c => { c with unacked := (s.storesOf r.core r.ctx).length }) else s
          let s := s.wakeUnits r.core
          if r.group.isSome then s.pokeDispatcher (chipOf r.core) else s
    | _ => s

/-- STORE_ACK (R238). -/
def execStoreAck (id : Nat) (s : State) : Host.Outcome State Fault Refusal := .next (s.storeAcked id)

/-! DRAM (R223, R225). -/

/-- DRAM_FILL_COMPLETE (R223): a read whose ECC fails fills the line as poisoned. -/
def execDramFillComplete (line : Nat) (eccFail : Bool) (s : State) : Host.Outcome State Fault Refusal :=
  .next (let die := line * 128 / 2 ^ 46
    if eccFail && decide (512 ≤ die) && decide (die < 576) && (tfind line s.poison).isNone then
      { s with poison := tset line (2 ^ 128 - 1) s.poison }
    else s)

/-- DRAM_REFRESH (R225): the base die refreshes; no program sees it. -/
def execDramRefresh (_die : Nat) (s : State) : Host.Outcome State Fault Refusal := .next s

end Sys2Proof.Machine
end

