-- ==== Sys2Proof/Machine/Bartan.lean ====
section
/-! DEFINITION. The management interfaces of the trust die (R438-R445): SPDM, MCTP control, Bartan over I3C and through the
mailbox, the retirement log and lifetime records, images, and debug halts. -/

namespace Sys2Proof.Machine

/-! Bartan (R444). -/

/-- What a command answers: its status, its payload, and the state after it. -/
structure Answer where
  status : Nat
  payload : List Byte
  state : State

def State.says (s : State) (status : Nat) : Answer := { status := status, payload := [], state := s }

/-- Is the range of doublewords inside the trust-die block? -/
def rangeOk (off count : Nat) : Bool := off % 8 = 0 && decide (1 ≤ count) && decide (count ≤ 16) && decide (off + 8 * count ≤ 0x10000)

/-- REG_READ: an offset with no register reads as zero. -/
def State.bartanRead (s : State) (off count : Nat) : Answer :=
  if !rangeOk off count then s.says 2
  else
    let ws := (natsFrom 0 count).map (fun i => (s.trustRead (off + 8 * i)).getD 0)
    { status := 0, payload := ws.flatMap (fun w => leBytes 8 w.toNat), state := s }

/-- Does a register accept writes through Bartan? -/
def State.bartanWritable (s : State) (off : Nat) : Bool :=
  off = 0x2000 || (inBlock 0x2100 8 64 off).isSome || (inBlock 0x3000 8 s.grade off).isSome

/-- REG_WRITE: nothing is written when one of the registers accepts no write (DEDUCED, log entry 38). -/
def State.bartanWrite (s : State) (off count : Nat) (vs : List Word) : Answer :=
  if !rangeOk off count || decide (vs.length < count) then s.says 2
  else if !(natsFrom 0 count).all (fun i => s.bartanWritable (off + 8 * i)) then s.says 3
  else (((natsFrom 0 count).zip vs).foldl (fun s p => s.trustWrite (off + 8 * p.1) p.2 maskAll) s).says 0

/-- The map that the log alone describes (R439). -/
def Trust.logOnly (t : Trust) : Trust :=
  t.deferredRetire.foldl Trust.withPart { t with fuseSites := [], fuseClusters := [], fuseSlots := [] }

/-- Byte i of the retirement log: the image, the sequence, then what has no layout (R439). -/
def State.logByte (s : State) (records : Tbl (List Nat)) (i : Nat) : Byte :=
  if i < 176128 then BitVec.ofNat 8 ((tget [] (i / 344) records).getD (i % 344) 0)
  else if i < 176132 then BitVec.ofNat 8 (s.trust.logSeq.toNat / 256 ^ (i - 176128))
  else Config.recordByte s.clock i

/-- REC_READ: the retirement log, or the lifetime records with what Bartan reports of the grade and the DRAM (R2, R14). -/
def State.bartanRecord (s : State) (cls off len : Nat) : Answer :=
  if 1 < cls || 1000 < len then s.says 2
  else if cls = 1 then
    { status := 0, payload := (natsFrom off len).map (Config.reportByte s.trust.belowFloor s.trust.dramRegions s.clock), state := s.tick }
  else
    let t := s.trust.logOnly
    let sites := sortNats ((natsFrom off len).map (· / 344))
    let records : Tbl (List Nat) := (sites.filter (· < 512)).map (fun k => (k, t.siteRecord k))
    { status := 0, payload := (natsFrom off len).map (s.logByte records), state := s.tick }

/-- HALT: a debug halt of a context is requested (R445). -/
def State.bartanHalt (s : State) (rank n : Nat) : Answer :=
  if s.grade * 2112 ≤ rank || 7 < n then s.says 2
  else
    let k := coreOfRank rank
    ((s.modCtx k n (fun c => { c with haltReq := true })).plan (.debugHalt k n)).says 0

/-- WATCH. -/
def State.bartanWatch (s : State) (chip cluster core i : Nat) (v : Word) : Answer :=
  if s.grade ≤ chip || 131 < cluster || 15 < core || 1 < i then s.says 2
  else (s.setWatch (coreKey chip cluster core) i v).says 0

/-- IMAGE_DATA: bytes are staged. -/
def State.bartanImage (s : State) (cls off : Nat) (bytes : List Byte) : Answer :=
  if cls < 1 || 4 < cls || 1000 < bytes.length || 2 ^ 32 ≤ off then s.says 2
  else
    let put (t : Tbl Byte) : Tbl Byte := ((natsFrom off bytes.length).zip bytes).foldl (fun t e => tset e.1 e.2 t) t
    (s.modTrust (fun t => { t with images := tset cls (put (tget [] cls t.images)) t.images })).says 0

/-- The digest of a staged image, as a number. -/
def imageDigest (t : Tbl Byte) : Nat :=
  let n := (t.getLast?.map (fun e => e.1 + 1)).getD 0
  (sha512 ((natsFrom 0 n).map (fun i => (tget (0 : Byte) i t).toNat))).foldl (fun v b => v * 256 + b) 0

/-- IMAGE_COMMIT: the staged image is checked and the update of R441 starts (DEDUCED, log entry 39). -/
def State.bartanCommit (s : State) (cls : Nat) (regions : Word) (ok : Nat → Bool) : Answer :=
  let staged := tget [] cls s.trust.images
  if cls < 1 || 4 < cls then s.says 2
  else if !s.trust.updating.isEmpty then s.says 4
  else if cls = 2 && s.queues.any (fun e => e.2.st ≠ .disabled) then s.says 3
  else
    let d := imageDigest staged
    let s := s.modTrust (fun t => { t with images := tdel cls t.images })
    if staged.isEmpty || !ok d then s.says 5
    else if cls = 1 then s.says 0
    else
      let s := s.modTrust (fun t => { t with digests := tset cls d t.digests, measures := tset cls d t.measures })
      if cls = 2 then
        ((natsFrom 576 32).foldl (fun s e => if (s.die e).state.atLeastConfigured then s.modDie e (fun x => { x with digest := d }) else s) s).says 0
      else
        let rs := (natsFrom 0 64).filter (fun r => regions.getLsbD r)
        (s.modTrust (fun t => { t with updating := rs })).nextUpdate.says 0

/-- In SAFE only the commands that read are permitted (R435). -/
def State.unlessSafe (s : State) (a : Answer) : Answer := if s.trust.safe then s.says 3 else a

/-! Bartan over I3C (R443). -/

/-- The response of a command. -/
def Answer.respond (a : Answer) (cmd seq : Nat) : State :=
  a.state.modTrust (fun t => { t with responses := ([cmd, 1, seq, a.status] ++ a.payload.map (·.toNat)) :: t.responses })

/-- REG_READ (R444). -/
def execRegRead (seq off count : Nat) (s : State) : Host.Outcome State Fault Refusal := .next ((s.bartanRead off count).respond 1 seq)

/-- REG_WRITE (R444). -/
def execRegWrite (seq off count : Nat) (vals : List Word) (s : State) : Host.Outcome State Fault Refusal :=
  .next ((s.unlessSafe (s.bartanWrite off count vals)).respond 2 seq)

/-- REC_READ (R444). -/
def execRecRead (seq cls off len : Nat) (s : State) : Host.Outcome State Fault Refusal :=
  .next ((s.bartanRecord cls off len).respond 3 seq)

/-- HALT (R444). -/
def execHalt (seq rank ctx : Nat) (s : State) : Host.Outcome State Fault Refusal :=
  .next ((s.unlessSafe (s.bartanHalt rank ctx)).respond 4 seq)

/-- WATCH (R444). -/
def execWatch (seq chip cluster core i : Nat) (v : Word) (s : State) : Host.Outcome State Fault Refusal :=
  .next ((s.unlessSafe (s.bartanWatch chip cluster core i v)).respond 5 seq)

/-- IMAGE_DATA (R444). -/
def execImageData (seq cls off : Nat) (bytes : List Byte) (s : State) : Host.Outcome State Fault Refusal :=
  .next ((s.unlessSafe (s.bartanImage cls off bytes)).respond 6 seq)

/-- IMAGE_COMMIT (R441, R444). -/
def execImageCommit (seq cls : Nat) (regions : Word) (sigOk : Bool) (s : State) : Host.Outcome State Fault Refusal :=
  .next ((s.unlessSafe (s.bartanCommit cls regions (fun _ => sigOk))).respond 7 seq)

/-! Bartan through the mailbox (R444). -/

/-- A field of the request, n bytes from byte i of its payload. -/
def Trust.boxField (t : Trust) (i n : Nat) : Nat := leNat ((natsFrom (7 + i) n).map (fun j => tget 0 j t.mboxReq))

/-- The mailbox request is carried out. -/
def State.boxAnswer (s : State) : Answer :=
  let t := s.trust
  let f := t.boxField
  let cmd := (tget (0 : Byte) 0 t.mboxReq).toNat
  if tget (0 : Byte) 1 t.mboxReq ≠ 0 || (natsFrom 3 4).any (fun i => tget (0 : Byte) i t.mboxReq ≠ 0) then s.says 1
  else match cmd with
  | 1 => s.bartanRead (f 0 4) (f 4 1)
  | 2 => s.unlessSafe (s.bartanWrite (f 0 4) (f 4 1) ((natsFrom 0 (min 16 (f 4 1))).map (fun i => BitVec.ofNat 64 (f (8 + 8 * i) 8))))
  | 3 => s.bartanRecord (f 0 1) (f 4 4) (f 8 2)
  | 4 => s.unlessSafe (s.bartanHalt (f 0 4) (f 4 1))
  | 5 => s.unlessSafe (s.bartanWatch (f 0 2) (f 2 1) (f 3 1) (f 4 1) (BitVec.ofNat 64 (f 8 8)))
  | 6 => s.unlessSafe (if 1000 < f 8 2 then s.says 2
      else s.bartanImage (f 0 1) (f 4 4) ((natsFrom 0 (f 8 2)).map (fun i => BitVec.ofNat 8 (f (12 + i) 1))))
  | 7 => s.unlessSafe (s.bartanCommit (f 0 1) (BitVec.ofNat 64 (f 8 8)) (Config.manifestOk (f 0 1)))
  | _ => s.says 1

/-- BUP_MBOX_GO: the trust die takes the request, answers it, and sets done. -/
def State.boxGo (s : State) : State :=
  if !s.trust.mboxGo then s
  else
    let s := { s.modTrust (fun t => { t with mboxGo := false }) with pending := s.pending.filter (fun (i : Instr) => i ≠ Instr.bupMboxGo) }
    let a := s.boxAnswer
    let head : List Byte := [tget 0 0 s.trust.mboxReq, 1, tget 0 2 s.trust.mboxReq] ++ leBytes 4 a.status
    let bytes := head ++ a.payload
    (a.state.modTrust (fun t => { t with mboxRsp := (natsFrom 0 bytes.length).zip bytes, mboxDone := true })).msix vMBOX

/-- BUP_MBOX_GO (R444): the host sets go, or has set it. -/
def execBupMboxGo (s : State) : Host.Outcome State Fault Refusal := .next (s.modTrust (fun t => { t with mboxGo := true })).boxGo

/-! Debug (R445). -/

/-- DEBUG_HALT: a halt that has been requested is taken at an instruction boundary. -/
def State.takeHalt (s : State) (k n : Nat) : State :=
  let c := s.ctx k n
  if !c.haltReq || !c.running then s
  else if c.wait.inProgress then s.plan (.debugHalt k n)
  else (s.modCtx k n (fun c => { c with haltReq := false })).takeTrap k n cDEBUG_HALT 0 0 c.pc

/-- DEBUG_HALT (R445). -/
def execDebugHalt (core ctx : Nat) (s : State) : Host.Outcome State Fault Refusal := .next (s.takeHalt core ctx)

/-! SPDM, MCTP control and I3C (R438, R443). -/

/-- A response of type t. -/
def State.reply (s : State) (r : List Nat) : State := s.modTrust (fun t => { t with responses := r :: t.responses })

/-- The digests in service of a class, each with its count of dies. -/
def State.digestCounts (s : State) (cls : Nat) : List Nat :=
  let ds := (s.trust.dies.filter (fun e => classOf e.1 = cls && e.2.state.atLeastConfigured)).map (fun e => e.2.digest)
  (sortNats ds).flatMap (fun d => [d, (ds.filter (· = d)).length])

/-- The content of a measurement block (R438). -/
def State.measurement (s : State) (b : Nat) : Option (List Nat) :=
  match b with
  | 1 => some [tget 0 1 s.trust.measures]
  | 2 | 3 | 4 => some (s.digestCounts b)
  | 5 => some [s.trust.mapId.toNat, s.grade]
  | 6 => some [s.trust.logSeq.toNat]
  | _ => none

/-- SPDM_REQUEST (R438): keys for identifiers 1-63 are installed inside a session, after the flush of R380. -/
def State.spdm (s : State) (q : SpdmReq) : State :=
  match q with
  | .openSession => (s.modTrust (fun t => { t with sessions := true })).reply [5, 0]
  | .closeSession => (s.modTrust (fun t => { t with sessions := false })).reply [5, 0]
  | .challenge => s.reply [5, 0]
  | .measurement b =>
    match s.measurement b with
    | some l => s.reply ([5, 0, b] ++ l)
    | none => s.reply [5, 1]
  | .installKey id key =>
    if s.trust.sessions && decide (1 ≤ id) && decide (id ≤ 63) then
      ({ s with keyEpochs := tset id (tget 0 id s.keyEpochs + 1) s.keyEpochs }.modTrust (fun t =>
        { t with keys := tset id key t.keys })).reply [5, 0]
    else s.reply [5, 1]
  | .other => s.reply [5, 1]

/-- SPDM_REQUEST (R438). -/
def execSpdmRequest (q : SpdmReq) (s : State) : Host.Outcome State Fault Refusal := .next (s.spdm q)

/-- MCTP_CONTROL (R443). -/
def State.mctp (s : State) (q : MctpCmd) : State :=
  match q with
  | .setEid e => (s.modTrust (fun t => { t with eid := e })).reply [0, 0, e.toNat]
  | .getEid => s.reply [0, 0, s.trust.eid.toNat]
  | .getVersion => s.reply [0, 0]
  | .getMsgTypes => s.reply [0, 0, 0x00, 0x05, 0x7F]
  | .getVendor => s.reply [0, 0, 61428]
  | .other => s.reply [0, 1]

/-- MCTP_CONTROL (R443). -/
def execMctpControl (q : MctpCmd) (s : State) : Host.Outcome State Fault Refusal := .next (s.mctp q)

/-- ENTDAA (R443). -/
def execEntdaa (addr : BitVec 7) (s : State) : Host.Outcome State Fault Refusal :=
  .next (s.modTrust (fun t => { t with i3cAddr := some addr }))

end Sys2Proof.Machine
end

