-- ==== Sys2Proof/Machine/Issue.lean ====
section
/-! DEFINITION. ISSUE (R84, R189): reading a command word, the checks common to all units, and the unit it goes to. -/

namespace Sys2Proof.Machine

/-- The unit that an opcode range selects (R83, R189). -/
def unitOf (op : Nat) : EngUnit :=
  if 0x20 ≤ op && op ≤ 0x4F then .matrix
  else if 0xA0 ≤ op && op ≤ 0xAF then .sweep
  else if 0xC0 ≤ op && op ≤ 0xCF then .coll
  else .copy

/-- Step 4 of R84. -/
def cmdHeaderOk (w : CmdWord) : Bool :=
  match unitOf (cOpcode w) with
  | .copy => copyHeaderOk w
  | .matrix => matHeaderOk w
  | .sweep => sweepHeaderOk w
  | .coll => collHeaderOk w

/-- Step 6 of R84, channels apart. -/
def State.cmdWordOk (s : State) (w : CmdWord) : Bool :=
  match unitOf (cOpcode w) with
  | .copy => copyWordOk w
  | .matrix => matWordOk w
  | .sweep => s.sweepWordOk w
  | .coll => collWordOk w

/-- Does a command issued at user level name a channel that the level may not name (R277)? -/
def cmdUserBad (w : CmdWord) : Bool := (cNotify w && decide (26 < cChan w)) || copyUserBad w

/-- ILLEGAL_CMD at the command word va (R84). -/
def State.illegalCmd (s : State) (va : Word) (op : Nat) : State := s.trapInfo cILLEGAL_CMD va (BitVec.ofNat 64 op)

/-- The steps of the unit that a command word selects. -/
def State.issueUnit (s : State) (va : Word) (w : CmdWord) : State :=
  match unitOf (cOpcode w) with
  | .copy => s.issueCopy va w
  | .matrix => s.issueMatrix va w
  | .sweep => s.issueSweep va w
  | .coll => s.issueColl va w

/-- Steps 2-6 of R84 and the unit's own steps, for the word w at va. -/
def State.issueWord (s : State) (va : Word) (w : CmdWord) : State :=
  let op := cOpcode w
  let first := bits w 31 0
  if first = 0 || first = 0x700B then s.illegalCmd va 0
  else if (cmdEvent op { core := 0, seq := 0 }).isNone then s.illegalCmd va op
  else if !cmdHeaderOk w then s.trap cRESERVED_FIELD va
  else if unitOf op = .matrix && (!isCompute s.curCore || cCtx w ≠ idxOf s.curCore) then s.trap cFORMAT_CONTEXT_INVALID va
  else if !s.cmdWordOk w then s.trap cRESERVED_FIELD va
  else if !s.cur.super && cmdUserBad w then s.trap cPRIVILEGE va
  else s.issueUnit va w

/-- ISSUE (R189); the offset counts 32-byte units. One that has waited for an entry repeats its unit's steps only, with the word it has
read. -/
def State.issueCmd (s : State) (rs1 : Reg) (imm : BitVec 12) : State :=
  let va := s.rx rs1 + sx imm * 32
  match s.cur.cmdRead with
  | some w => (s.modCur (fun c => { c with cmdRead := none })).issueUnit va w
  | none =>
    if bits va 4 0 ≠ 0 then s.trap cLOAD_ACCESS va
    else s.loadThen va 32 (fun bs => s.issueWord va (BitVec.ofNat 256 (leNat bs)))

/-- ISSUE (R189). -/
def execIssue (rs1 : Reg) (imm : BitVec 12) (s : State) : Host.Outcome State Fault Refusal := .next (s.issueCmd rs1 imm)

end Sys2Proof.Machine
end

