-- ==== Sys2Proof/Machine/Stream.lean ====
section
/-! DEFINITION. The stream-vector commands of the copy engine (R206-R211). -/

namespace Sys2Proof.Machine

/-- The compute type with the round and saturate of the first input record (R206). -/
def shVT (r : Rec) : VT := { ty := shType r, mode := shRound r, sat := shSat r }

/-- The element function that fn names (R207, R74). -/
def streamOp (fn : Nat) (t : VT) (a b : Nat) : Nat :=
  match fn with
  | 0 => arith2 (· + ·) FV.add t 0 0 a b
  | 1 => arith2 (· - ·) FV.sub t 0 0 a b
  | 2 => arith2 (· * ·) (fun _ => FV.mul) t 0 0 a b
  | 5 => minE t 0 0 a b
  | 6 => maxE t 0 0 a b
  | 7 => absE t a
  | 8 => negE t a
  | 9 => a &&& b
  | 10 => a ||| b
  | 11 => a ^^^ b
  | 12 => a ^^^ (a &&& b)
  | 16 => a * 2 ^ (b % t.ty.width) % 2 ^ t.ty.width
  | 17 => a / 2 ^ (b % t.ty.width)
  | 18 => sraNat t.ty.width a (b % t.ty.width)
  | 24 => clzNat t.ty.width a
  | 25 => popNat t.ty.width a
  | 44 => exp2E t a
  | 45 => rcpE t a
  | _ => rsqE t a

/-- cval as an element: sign-extended for .i64 (R207). -/
def cvalOf (t : ElemTy) (v : Nat) : Nat := if t = .i64 && v / 2 ^ 31 = 1 then v + (2 ^ 64 - 2 ^ 32) else v

/-- Elements lo, lo + 1, ... of the out-record take the values given, converted (R192). -/
def State.streamPut (s : State) (k : Nat) (q : CopyCmd) (out : Rec) (lo rows : Nat) (vs : List Nat) : RowEnd :=
  rowPut q.row rows (s.engPuts k q.hd out ((natsFrom lo vs.length).zip (q.conv.elems q.seed lo vs)))

/-- Elements of a row of the in-record, or the error of reading them. -/
def State.withRow (s : State) (k : Nat) (q : CopyCmd) (r : Rec) (act : List Nat → RowEnd) : RowEnd :=
  let p := rowOf r q.row
  match s.engElems k q.hd r p.1 p.2 with
  | .ok vs => act vs
  | .error e => .err e

/-- SMAP (R207): one row. -/
def execSmap (r : CmdRef) (s : State) : Host.Outcome State Fault Refusal :=
  .next (s.copyRun r (fun q s =>
    let f := q.recs.getD 0 0
    let t := shVT f
    let c := cvalOf t.ty (cOp q.hd.word 6)
    s.withRow r.core q f (fun vs =>
      s.streamPut r.core q (q.recs.getD 1 0) (rowOf f q.row).1 (rowsOf f) (vs.map (fun a => streamOp (streamFn q.hd.word) t a c)))))

/-- SBIN (R207): one row of A with the same elements of B. -/
def execSbin (r : CmdRef) (s : State) : Host.Outcome State Fault Refusal :=
  .next (s.copyRun r (fun q s =>
    let f := q.recs.getD 0 0
    let t := shVT f
    let p := rowOf f q.row
    s.withRow r.core q f (fun as =>
      match s.engElems r.core q.hd (q.recs.getD 1 0) p.1 p.2 with
      | .error e => .err e
      | .ok bs =>
        s.streamPut r.core q (q.recs.getD 2 0) p.1 (rowsOf f)
          ((as.zip bs).map (fun x => streamOp (streamFn q.hd.word) t x.1 x.2)))))

/-- The reduction of a row (R208). -/
def rowReduce (kind : Nat) (t : VT) (vs : List Nat) : Nat :=
  let xs := vs.map some
  if kind = 0 then redSum t 0 xs else redPick (kind = 1) t xs

/-- SRED (R208): one row to one element. -/
def execSred (r : CmdRef) (s : State) : Host.Outcome State Fault Refusal :=
  .next (s.copyRun r (fun q s =>
    let f := q.recs.getD 0 0
    s.withRow r.core q f (fun vs =>
      s.streamPut r.core q (q.recs.getD 1 0) q.row (rowsOf f) [rowReduce (cBits q.hd.word 5 1 0) (shVT f) vs])))

/-- The blocks of eight of a row, as values (R209). -/
def rowBlocks (t : ElemTy) (vs : List Nat) : List (List FV) := chunksOf 8 (vs.length / 8) (vs.map (fval t))

/-- SCVT (R209): the blocks of one row, elements and scales. -/
def execScvt (r : CmdRef) (s : State) : Host.Outcome State Fault Refusal :=
  .next (s.copyRun r (fun q s =>
    let f := q.recs.getD 0 0
    let out := q.recs.getD 1 0
    let lo := (rowOf f q.row).1
    s.withRow r.core q f (fun vs =>
      let blocks := rowBlocks (shType f) vs
      let scales := blocks.map (fun b => blockScale (blockMax b))
      let rs := q.conv.rnds q.seed lo vs.length
      let es := ((natsFrom 0 blocks.length).zip blocks).flatMap (fun b =>
        ((natsFrom 0 8).zip b.2).map (fun x =>
          blockElem (shRound out) (rs.getD (8 * b.1 + x.1) 0) (scales.getD b.1 0) x.2))
      match s.engPuts r.core q.hd out ((natsFrom lo es.length).zip es) with
      | .error e => .err e
      | .ok s => rowPut q.row (rowsOf f) (s.engPuts r.core q.hd (q.recs.getD 2 0) ((natsFrom (lo / 8) scales.length).zip scales)))))

/-- The values of SNORM for a row, as FP32 codes (R210). -/
def normRow (t : ElemTy) (eps : Nat) (vs : List Nat) : List Nat :=
  let xs := vs.map (fval t)
  let sq := xs.map (fun x => fval .f32 (rne32 (x.mul x)))
  let sum := (treeFold (fun a b => fval .f32 (rne32 (a.add .rne b))) 17 sq).headD (.fin false 0 0)
  let mean := rne32 (sum.quot vs.length 0)
  let y := rne32 ((fval .f32 mean).add .rne (fval .f32 eps))
  let rs := fval .f32 (rsqE { ty := .f32, mode := .rne, sat := false } y)
  xs.map (fun x => rne32 (x.mul rs))

/-- SNORM (R210): one row. -/
def execSnorm (r : CmdRef) (s : State) : Host.Outcome State Fault Refusal :=
  .next (s.copyRun r (fun q s =>
    let f := q.recs.getD 0 0
    s.withRow r.core q f (fun vs =>
      s.streamPut r.core q (q.recs.getD 1 0) (rowOf f q.row).1 (rowsOf f) (normRow (shType f) (cOp q.hd.word 5) vs))))

/-- SPERM (R211): one row of the out-record; an index out of range ends the command after the elements before it. -/
def execSperm (r : CmdRef) (s : State) : Host.Outcome State Fault Refusal :=
  .next (s.copyRun r (fun q s =>
    let f := q.recs.getD 0 0
    let out := q.recs.getD 1 0
    let ix := q.recs.getD 2 0
    let p := rowOf out q.row
    match s.engElems r.core q.hd ix 0 p.2 with
    | .error e => .err e
    | .ok is =>
      let good := is.takeWhile (fun i => decide (i < shLen f 0))
      let read := good.foldr (fun i (a : Except EngErr (List Nat)) => match a, s.engElem r.core q.hd f (i + shLen f 0 * q.row) with
        | .ok vs, .ok v => .ok (v :: vs)
        | .error e, _ => .error e
        | _, .error e => .error e) (.ok [])
      match read with
      | .error e => .err e
      | .ok vs =>
        if good.length = is.length then s.streamPut r.core q out p.1 (rowsOf out) vs
        else
          match s.engPuts r.core q.hd out ((natsFrom p.1 vs.length).zip (q.conv.elems q.seed p.1 vs)) with
          | .error e => .err e
          | .ok s => .bad s cCOPY_BOUNDS (shAddr ix (shIdx ix good.length))))

end Sys2Proof.Machine
end

