-- ==== Sys2Proof/Machine/Dispatch.lean ====
section
/-! DEFINITION. The dispatcher: one arm per constructor of Instr, each one direct call of its meaning. -/

namespace Sys2Proof.Machine

def exec (i : Instr) (s : State) : Host.Outcome State Fault Refusal :=
  match i with
  | .rvLoad k rd rs1 imm => Sys2Proof.Machine.execRvLoad k rd rs1 imm s
  | .rvStore k rs2 rs1 imm => Sys2Proof.Machine.execRvStore k rs2 rs1 imm s
  | .rvIntegerOp op => Sys2Proof.Machine.execRvIntegerOp op s
  | .rvBranchJump j => Sys2Proof.Machine.execRvBranchJump j s
  | .fence fm pred succ rs1 rd => Sys2Proof.Machine.execFence fm pred succ rs1 rd s
  | .fenceTso rs1 rd => Sys2Proof.Machine.execFenceTso rs1 rd s
  | .fenceI imm rs1 rd => Sys2Proof.Machine.execFenceI imm rs1 rd s
  | .lr dbl aq rl rd rs1 => Sys2Proof.Machine.execLr dbl aq rl rd rs1 s
  | .sc dbl aq rl rd rs1 rs2 => Sys2Proof.Machine.execSc dbl aq rl rd rs1 rs2 s
  | .rvAmo op dbl aq rl rd rs1 rs2 => Sys2Proof.Machine.execRvAmo op dbl aq rl rd rs1 rs2 s
  | .csrrw rd src csr => Sys2Proof.Machine.execCsrrw rd src csr s
  | .csrrs rd src csr => Sys2Proof.Machine.execCsrrs rd src csr s
  | .csrrc rd src csr => Sys2Proof.Machine.execCsrrc rd src csr s
  | .fsl rd rs1 rs2 rs3 => Sys2Proof.Machine.execFsl rd rs1 rs2 rs3 s
  | .fsr rd rs1 rs2 rs3 => Sys2Proof.Machine.execFsr rd rs1 rs2 rs3 s
  | .bfi rd rs1 rs2 rs3 => Sys2Proof.Machine.execBfi rd rs1 rs2 rs3 s
  | .fslw rd rs1 rs2 rs3 => Sys2Proof.Machine.execFslw rd rs1 rs2 rs3 s
  | .fsrw rd rs1 rs2 rs3 => Sys2Proof.Machine.execFsrw rd rs1 rs2 rs3 s
  | .bfiw rd rs1 rs2 rs3 => Sys2Proof.Machine.execBfiw rd rs1 rs2 rs3 s
  | .bfx rd rs1 rs2 => Sys2Proof.Machine.execBfx rd rs1 rs2 s
  | .bfxu rd rs1 rs2 => Sys2Proof.Machine.execBfxu rd rs1 rs2 s
  | .bfxw rd rs1 rs2 => Sys2Proof.Machine.execBfxw rd rs1 rs2 s
  | .bfxuw rd rs1 rs2 => Sys2Proof.Machine.execBfxuw rd rs1 rs2 s
  | .msgw n rs1 => Sys2Proof.Machine.execMsgw n rs1 s
  | .msgsi rd rs1 chan cm1 => Sys2Proof.Machine.execMsgsi rd rs1 chan cm1 s
  | .msgs rd rs1 rs2 => Sys2Proof.Machine.execMsgs rd rs1 rs2 s
  | .sendipi rs1 rs2 => Sys2Proof.Machine.execSendipi rs1 rs2 s
  | .lq bypass sz rd rs1 off => Sys2Proof.Machine.execLq bypass sz rd rs1 off s
  | .lqS sc sz rd rs1 off => Sys2Proof.Machine.execLqS sc sz rd rs1 off s
  | .lqAq sc sz rd rs1 off => Sys2Proof.Machine.execLqAq sc sz rd rs1 off s
  | .sq sz rs2 rs1 off => Sys2Proof.Machine.execSq sz rs2 rs1 off s
  | .sqS sc sz rs2 rs1 off => Sys2Proof.Machine.execSqS sc sz rs2 rs1 off s
  | .sqRl sc sz rs2 rs1 off => Sys2Proof.Machine.execSqRl sc sz rs2 rs1 off s
  | .amoqAdd sc dbl rd rs1 rs2 => Sys2Proof.Machine.execAmoqAdd sc dbl rd rs1 rs2 s
  | .amoqSwap sc dbl rd rs1 rs2 => Sys2Proof.Machine.execAmoqSwap sc dbl rd rs1 rs2 s
  | .amoqAnd sc dbl rd rs1 rs2 => Sys2Proof.Machine.execAmoqAnd sc dbl rd rs1 rs2 s
  | .amoqOr sc dbl rd rs1 rs2 => Sys2Proof.Machine.execAmoqOr sc dbl rd rs1 rs2 s
  | .amoqXor sc dbl rd rs1 rs2 => Sys2Proof.Machine.execAmoqXor sc dbl rd rs1 rs2 s
  | .amoqMin sc dbl rd rs1 rs2 => Sys2Proof.Machine.execAmoqMin sc dbl rd rs1 rs2 s
  | .amoqMax sc dbl rd rs1 rs2 => Sys2Proof.Machine.execAmoqMax sc dbl rd rs1 rs2 s
  | .amoqMinu sc dbl rd rs1 rs2 => Sys2Proof.Machine.execAmoqMinu sc dbl rd rs1 rs2 s
  | .amoqMaxu sc dbl rd rs1 rs2 => Sys2Proof.Machine.execAmoqMaxu sc dbl rd rs1 rs2 s
  | .amoqCas sc dbl rd rs1 rs2 => Sys2Proof.Machine.execAmoqCas sc dbl rd rs1 rs2 s
  | .ldfe sc rd rs1 => Sys2Proof.Machine.execLdfe sc rd rs1 s
  | .ldff sc rd rs1 => Sys2Proof.Machine.execLdff sc rd rs1 s
  | .stfe sc rs2 rs1 => Sys2Proof.Machine.execStfe sc rs2 rs1 s
  | .stff sc rs2 rs1 => Sys2Proof.Machine.execStff sc rs2 rs1 s
  | .feinit sc rs2 rs1 => Sys2Proof.Machine.execFeinit sc rs2 rs1 s
  | .fenceq sc => Sys2Proof.Machine.execFenceq sc s
  | .monarm rs1 => Sys2Proof.Machine.execMonarm rs1 s
  | .wfe rd => Sys2Proof.Machine.execWfe rd s
  | .semwait rs1 => Sys2Proof.Machine.execSemwait rs1 s
  | .semtry rd rs1 => Sys2Proof.Machine.execSemtry rd rs1 s
  | .semsig rs1 rs2 => Sys2Proof.Machine.execSemsig rs1 rs2 s
  | .mtxacq rs1 => Sys2Proof.Machine.execMtxacq rs1 s
  | .mtxtry rd rs1 => Sys2Proof.Machine.execMtxtry rd rs1 s
  | .mtxrel rs1 => Sys2Proof.Machine.execMtxrel rs1 s
  | .barinit rs1 rs2 => Sys2Proof.Machine.execBarinit rs1 rs2 s
  | .bararr rd rs1 => Sys2Proof.Machine.execBararr rd rs1 s
  | .barwait rs1 rs2 => Sys2Proof.Machine.execBarwait rs1 rs2 s
  | .vadd o => Sys2Proof.Machine.execVadd o s
  | .vsub o => Sys2Proof.Machine.execVsub o s
  | .vmul o => Sys2Proof.Machine.execVmul o s
  | .vmulh o => Sys2Proof.Machine.execVmulh o s
  | .vfma o => Sys2Proof.Machine.execVfma o s
  | .vmin o => Sys2Proof.Machine.execVmin o s
  | .vmax o => Sys2Proof.Machine.execVmax o s
  | .vabs o => Sys2Proof.Machine.execVabs o s
  | .vneg o => Sys2Proof.Machine.execVneg o s
  | .vand o => Sys2Proof.Machine.execVand o s
  | .vor o => Sys2Proof.Machine.execVor o s
  | .vxor o => Sys2Proof.Machine.execVxor o s
  | .vandn o => Sys2Proof.Machine.execVandn o s
  | .vsel o => Sys2Proof.Machine.execVsel o s
  | .vcvt ty o => Sys2Proof.Machine.execVcvt ty o s
  | .vsll o => Sys2Proof.Machine.execVsll o s
  | .vsrl o => Sys2Proof.Machine.execVsrl o s
  | .vsra o => Sys2Proof.Machine.execVsra o s
  | .vfsl o => Sys2Proof.Machine.execVfsl o s
  | .vfsr o => Sys2Proof.Machine.execVfsr o s
  | .vbfx o => Sys2Proof.Machine.execVbfx o s
  | .vbfxu o => Sys2Proof.Machine.execVbfxu o s
  | .vbfi o => Sys2Proof.Machine.execVbfi o s
  | .vclz o => Sys2Proof.Machine.execVclz o s
  | .vpopc o => Sys2Proof.Machine.execVpopc o s
  | .vcmpeq o => Sys2Proof.Machine.execVcmpeq o s
  | .vcmplt o => Sys2Proof.Machine.execVcmplt o s
  | .vcmple o => Sys2Proof.Machine.execVcmple o s
  | .vcmpltu o => Sys2Proof.Machine.execVcmpltu o s
  | .vredsum o => Sys2Proof.Machine.execVredsum o s
  | .vredmax o => Sys2Proof.Machine.execVredmax o s
  | .vredmin o => Sys2Proof.Machine.execVredmin o s
  | .vredmaxG g o => Sys2Proof.Machine.execVredmaxG g o s
  | .vredminG g o => Sys2Proof.Machine.execVredminG g o s
  | .vscan o => Sys2Proof.Machine.execVscan o s
  | .vslide o => Sys2Proof.Machine.execVslide o s
  | .vperm o => Sys2Proof.Machine.execVperm o s
  | .vbcast o => Sys2Proof.Machine.execVbcast o s
  | .viota msel vd => Sys2Proof.Machine.execViota msel vd s
  | .vexp2 o => Sys2Proof.Machine.execVexp2 o s
  | .vrcp o => Sys2Proof.Machine.execVrcp o s
  | .vrsq o => Sys2Proof.Machine.execVrsq o s
  | .mand md ms1 ms2 => Sys2Proof.Machine.execMand md ms1 ms2 s
  | .mor md ms1 ms2 => Sys2Proof.Machine.execMor md ms1 ms2 s
  | .mxor md ms1 ms2 => Sys2Proof.Machine.execMxor md ms1 ms2 s
  | .mnot md ms1 => Sys2Proof.Machine.execMnot md ms1 s
  | .mset md rs1 => Sys2Proof.Machine.execMset md rs1 s
  | .mcnt rd ms1 => Sys2Proof.Machine.execMcnt rd ms1 s
  | .mfirst rd ms1 => Sys2Proof.Machine.execMfirst rd ms1 s
  | .vld vd rs1 imm => Sys2Proof.Machine.execVld vd rs1 imm s
  | .vst vs rs1 imm => Sys2Proof.Machine.execVst vs rs1 imm s
  | .vldu vd rs1 => Sys2Proof.Machine.execVldu vd rs1 s
  | .vstu vs rs1 mn => Sys2Proof.Machine.execVstu vs rs1 mn s
  | .vldx vd vs2 rs1 => Sys2Proof.Machine.execVldx vd vs2 rs1 s
  | .vstx vs vs2 rs1 => Sys2Proof.Machine.execVstx vs vs2 rs1 s
  | .vacc vd acc rs1 => Sys2Proof.Machine.execVacc vd acc rs1 s
  | .vmvxs rd vs rs2 => Sys2Proof.Machine.execVmvxs rd vs rs2 s
  | .vmvsx vd rs1 rs2 => Sys2Proof.Machine.execVmvsx vd rs1 rs2 s
  | .vclaim rd => Sys2Proof.Machine.execVclaim rd s
  | .issue rs1 imm => Sys2Proof.Machine.execIssue rs1 imm s
  | .vsettImm rd imm => Sys2Proof.Machine.execVsettImm rd imm s
  | .vsettReg rd rs1 => Sys2Proof.Machine.execVsettReg rd rs1 s
  | .csave rs1 rs2 => Sys2Proof.Machine.execCsave rs1 rs2 s
  | .crest rs1 rs2 => Sys2Proof.Machine.execCrest rs1 rs2 s
  | .cresume rs1 => Sys2Proof.Machine.execCresume rs1 s
  | .ckill rs1 => Sys2Proof.Machine.execCkill rs1 s
  | .sleep rs1 => Sys2Proof.Machine.execSleep rs1 s
  | .launch rd rs1 rs2 => Sys2Proof.Machine.execLaunch rd rs1 rs2 s
  | .kstat rd rs1 => Sys2Proof.Machine.execKstat rd rs1 s
  | .kpreemptDrain rd rs1 rs2 => Sys2Proof.Machine.execKpreemptDrain rd rs1 rs2 s
  | .kshrink rd rs1 rs2 => Sys2Proof.Machine.execKshrink rd rs1 rs2 s
  | .wqpop rd rs1 rs2 => Sys2Proof.Machine.execWqpop rd rs1 rs2 s
  | .wqpopt rd rs1 rs2 => Sys2Proof.Machine.execWqpopt rd rs1 rs2 s
  | .wqpush rd rs1 rs2 => Sys2Proof.Machine.execWqpush rd rs1 rs2 s
  | .tlbwWrite rs1 rs2 => Sys2Proof.Machine.execTlbwWrite rs1 rs2 s
  | .tlbinvGranule rs1 rs2 => Sys2Proof.Machine.execTlbinvGranule rs1 rs2 s
  | .tlbprobe rd rs1 rs2 => Sys2Proof.Machine.execTlbprobe rd rs1 rs2 s
  | .lpin rd rs1 rs2 => Sys2Proof.Machine.execLpin rd rs1 rs2 s
  | .lunpin rd rs1 rs2 => Sys2Proof.Machine.execLunpin rd rs1 rs2 s
  | .carve rd rs1 rs2 => Sys2Proof.Machine.execCarve rd rs1 rs2 s
  | .uncarve rd rs1 => Sys2Proof.Machine.execUncarve rd rs1 s
  | .shootOnly rd rs1 rs2 => Sys2Proof.Machine.execShootOnly rd rs1 rs2 s
  | .fwakeRaise rs1 rs2 => Sys2Proof.Machine.execFwakeRaise rs1 rs2 s
  | .qpop rd chan => Sys2Proof.Machine.execQpop rd chan s
  | .qtry rd chan => Sys2Proof.Machine.execQtry rd chan s
  | .qpush chan rs1 => Sys2Proof.Machine.execQpush chan rs1 s
  | .qcnt rd chan => Sys2Proof.Machine.execQcnt rd chan s
  | .hbind chan rs1 => Sys2Proof.Machine.execHbind chan rs1 s
  | .hmask chan => Sys2Proof.Machine.execHmask chan s
  | .hunmask chan => Sys2Proof.Machine.execHunmask chan s
  | .cpy r => Sys2Proof.Machine.execCpy r s
  | .cpyn r => Sys2Proof.Machine.execCpyn r s
  | .gather r => Sys2Proof.Machine.execGather r s
  | .scatter r => Sys2Proof.Machine.execScatter r s
  | .mcastRect r => Sys2Proof.Machine.execMcastRect r s
  | .mcastList r => Sys2Proof.Machine.execMcastList r s
  | .fill r => Sys2Proof.Machine.execFill r s
  | .ringput r => Sys2Proof.Machine.execRingput r s
  | .streamin r => Sys2Proof.Machine.execStreamin r s
  | .streamout r => Sys2Proof.Machine.execStreamout r s
  | .l2pinfill r => Sys2Proof.Machine.execL2pinfill r s
  | .smap r => Sys2Proof.Machine.execSmap r s
  | .sbin r => Sys2Proof.Machine.execSbin r s
  | .sred r => Sys2Proof.Machine.execSred r s
  | .scvt r => Sys2Proof.Machine.execScvt r s
  | .snorm r => Sys2Proof.Machine.execSnorm r s
  | .sperm r => Sys2Proof.Machine.execSperm r s
  | .mfmt r => Sys2Proof.Machine.execMfmt r s
  | .mzero r => Sys2Proof.Machine.execMzero r s
  | .mldacc r => Sys2Proof.Machine.execMldacc r s
  | .mstacc r => Sys2Proof.Machine.execMstacc r s
  | .mcfgring r => Sys2Proof.Machine.execMcfgring r s
  | .mringstat r => Sys2Proof.Machine.execMringstat r s
  | .mmaBf16 r => Sys2Proof.Machine.execMmaBf16 r s
  | .mmaE4m3 r => Sys2Proof.Machine.execMmaE4m3 r s
  | .mmaE5m2 r => Sys2Proof.Machine.execMmaE5m2 r s
  | .mmaE4e5 r => Sys2Proof.Machine.execMmaE4e5 r s
  | .mmaE2m1 r => Sys2Proof.Machine.execMmaE2m1 r s
  | .mmaI8 r => Sys2Proof.Machine.execMmaI8 r s
  | .mmaI8w4 r => Sys2Proof.Machine.execMmaI8w4 r s
  | .nred r => Sys2Proof.Machine.execNred r s
  | .nallred r => Sys2Proof.Machine.execNallred r s
  | .nbcast r => Sys2Proof.Machine.execNbcast r s
  | .nbar r => Sys2Proof.Machine.execNbar r s
  | .asopen r => Sys2Proof.Machine.execAsopen r s
  | .asub r => Sys2Proof.Machine.execAsub r s
  | .asclose r => Sys2Proof.Machine.execAsclose r s
  | .apart r => Sys2Proof.Machine.execApart r s
  | .amcfg r => Sys2Proof.Machine.execAmcfg r s
  | .amread r => Sys2Proof.Machine.execAmread r s
  | .illegalInstruction w => Sys2Proof.Machine.execIllegalInstruction w s
  | .instructionFetchFault f addr => Sys2Proof.Machine.execInstructionFetchFault f addr s
  | .matrixCommandRetire core => Sys2Proof.Machine.execMatrixCommandRetire core s
  | .copyCommandRetire r => Sys2Proof.Machine.execCopyCommandRetire r s
  | .collectiveContribution r router => Sys2Proof.Machine.execCollectiveContribution r router s
  | .collectiveContribResend r => Sys2Proof.Machine.execCollectiveContribResend r s
  | .collectiveComplete r => Sys2Proof.Machine.execCollectiveComplete r s
  | .subscriptionAtSlot r => Sys2Proof.Machine.execSubscriptionAtSlot r s
  | .subscriptionAtPage r => Sys2Proof.Machine.execSubscriptionAtPage r s
  | .pageReadComplete ctl sweep pa => Sys2Proof.Machine.execPageReadComplete ctl sweep pa s
  | .sweepDelivery core sweep q => Sys2Proof.Machine.execSweepDelivery core sweep q s
  | .sweepClosedDone sweep => Sys2Proof.Machine.execSweepClosedDone sweep s
  | .partialArrival core sweep q => Sys2Proof.Machine.execPartialArrival core sweep q s
  | .trapNoticeSend core => Sys2Proof.Machine.execTrapNoticeSend core s
  | .handlerFire core chan => Sys2Proof.Machine.execHandlerFire core chan s
  | .messageDelivery core uid => Sys2Proof.Machine.execMessageDelivery core uid s
  | .nackReceived core uid => Sys2Proof.Machine.execNackReceived core uid s
  | .messageResend core uid => Sys2Proof.Machine.execMessageResend core uid s
  | .messageAck core uid => Sys2Proof.Machine.execMessageAck core uid s
  | .creditGrant core chan => Sys2Proof.Machine.execCreditGrant core chan s
  | .grantReceived core uid => Sys2Proof.Machine.execGrantReceived core uid s
  | .refusalWordPush core => Sys2Proof.Machine.execRefusalWordPush core s
  | .proxyReturn core uid => Sys2Proof.Machine.execProxyReturn core uid s
  | .memoryRequestAtHome id => Sys2Proof.Machine.execMemoryRequestAtHome id s
  | .loadReply id => Sys2Proof.Machine.execLoadReply id s
  | .storeAck id => Sys2Proof.Machine.execStoreAck id s
  | .fullEmptyRequest id => Sys2Proof.Machine.execFullEmptyRequest id s
  | .faultRaiseAtRouter id => Sys2Proof.Machine.execFaultRaiseAtRouter id s
  | .faultWordDown id => Sys2Proof.Machine.execFaultWordDown id s
  | .launchRecordTake queue => Sys2Proof.Machine.execLaunchRecordTake queue s
  | .kernelGrant kid => Sys2Proof.Machine.execKernelGrant kid s
  | .retirementToken kid g pred => Sys2Proof.Machine.execRetirementToken kid g pred s
  | .groupRetirementReport kid g => Sys2Proof.Machine.execGroupRetirementReport kid g s
  | .groupRelease chip => Sys2Proof.Machine.execGroupRelease chip s
  | .groupBind kid g => Sys2Proof.Machine.execGroupBind kid g s
  | .saveComplete kid => Sys2Proof.Machine.execSaveComplete kid s
  | .wqpopRetry core ctx => Sys2Proof.Machine.execWqpopRetry core ctx s
  | .partialResend core sweep q => Sys2Proof.Machine.execPartialResend core sweep q s
  | .sweepDeliveryResend core sweep q => Sys2Proof.Machine.execSweepDeliveryResend core sweep q s
  | .e2eRequestArrival src dst seq => Sys2Proof.Machine.execE2eRequestArrival src dst seq s
  | .e2eAck src dst seq => Sys2Proof.Machine.execE2eAck src dst seq s
  | .grantRequestRetry core uid => Sys2Proof.Machine.execGrantRequestRetry core uid s
  | .feResend id => Sys2Proof.Machine.execFeResend id s
  | .gyieldTimeout core ctx => Sys2Proof.Machine.execGyieldTimeout core ctx s
  | .e2eBusyResend src dst => Sys2Proof.Machine.execE2eBusyResend src dst s
  | .e2eResetReply src dst => Sys2Proof.Machine.execE2eResetReply src dst s
  | .e2eCloseMarker src dst => Sys2Proof.Machine.execE2eCloseMarker src dst s
  | .gapNotice src dst seq => Sys2Proof.Machine.execGapNotice src dst seq s
  | .linkPauseComplete die m => Sys2Proof.Machine.execLinkPauseComplete die m s
  | .opPointChangeDone chip => Sys2Proof.Machine.execOpPointChangeDone chip s
  | .regionGateStep region => Sys2Proof.Machine.execRegionGateStep region s
  | .debugHalt core ctx => Sys2Proof.Machine.execDebugHalt core ctx s
  | .fieldRetirement part => Sys2Proof.Machine.execFieldRetirement part s
  | .reinstatement parts sigOk => Sys2Proof.Machine.execReinstatement parts sigOk s
  | .e2eTimeout src dst => Sys2Proof.Machine.execE2eTimeout src dst s
  | .wakeDeferRelease region => Sys2Proof.Machine.execWakeDeferRelease region s
  | .kpreemptSave rd rs1 rs2 => Sys2Proof.Machine.execKpreemptSave rd rs1 rs2 s
  | .kpreemptResume rd rs1 rs2 => Sys2Proof.Machine.execKpreemptResume rd rs1 rs2 s
  | .kpreemptCancel rd rs1 rs2 => Sys2Proof.Machine.execKpreemptCancel rd rs1 rs2 s
  | .tlbwResume rs1 rs2 => Sys2Proof.Machine.execTlbwResume rs1 rs2 s
  | .tlbwFail rs1 rs2 => Sys2Proof.Machine.execTlbwFail rs1 rs2 s
  | .tlbinvAll rs1 rs2 => Sys2Proof.Machine.execTlbinvAll rs1 rs2 s
  | .tlbinvMask rs1 rs2 => Sys2Proof.Machine.execTlbinvMask rs1 rs2 s
  | .shootMigrate rd rs1 rs2 => Sys2Proof.Machine.execShootMigrate rd rs1 rs2 s
  | .shootFlip rd rs1 rs2 => Sys2Proof.Machine.execShootFlip rd rs1 rs2 s
  | .shootEvict rd rs1 rs2 => Sys2Proof.Machine.execShootEvict rd rs1 rs2 s
  | .shootUnmap rd rs1 rs2 => Sys2Proof.Machine.execShootUnmap rd rs1 rs2 s
  | .shootForce rd rs1 rs2 => Sys2Proof.Machine.execShootForce rd rs1 rs2 s
  | .shootAbort rd rs1 rs2 => Sys2Proof.Machine.execShootAbort rd rs1 rs2 s
  | .fwakeWake rs1 rs2 => Sys2Proof.Machine.execFwakeWake rs1 rs2 s
  | .fwakeFail rs1 rs2 => Sys2Proof.Machine.execFwakeFail rs1 rs2 s
  | .mbTimeoutExpiry amread r => Sys2Proof.Machine.execMbTimeoutExpiry amread r s
  | .coreQuarantine core cause => Sys2Proof.Machine.execCoreQuarantine core cause s
  | .rebind core selfTest => Sys2Proof.Machine.execRebind core selfTest s
  | .heartbeatPost core => Sys2Proof.Machine.execHeartbeatPost core s
  | .heartbeatMissed core => Sys2Proof.Machine.execHeartbeatMissed core s
  | .serviceCoreLost cluster selfTest => Sys2Proof.Machine.execServiceCoreLost cluster selfTest s
  | .coreLogicError core unit => Sys2Proof.Machine.execCoreLogicError core unit s
  | .sleepExpiry core ctx => Sys2Proof.Machine.execSleepExpiry core ctx s
  | .wfeTimeout core ctx => Sys2Proof.Machine.execWfeTimeout core ctx s
  | .dramFillComplete line eccFail => Sys2Proof.Machine.execDramFillComplete line eccFail s
  | .dramRefresh die => Sys2Proof.Machine.execDramRefresh die s
  | .agingInterval kid => Sys2Proof.Machine.execAgingInterval kid s
  | .wqTailWrite queue tail => Sys2Proof.Machine.execWqTailWrite queue tail s
  | .wqEnable queue => Sys2Proof.Machine.execWqEnable queue s
  | .wqSuspend queue => Sys2Proof.Machine.execWqSuspend queue s
  | .wqResume queue => Sys2Proof.Machine.execWqResume queue s
  | .wqClose queue => Sys2Proof.Machine.execWqClose queue s
  | .wqDisable queue => Sys2Proof.Machine.execWqDisable queue s
  | .dispQmodeWrite by_ chip cluster v => Sys2Proof.Machine.execDispQmodeWrite by_ chip cluster v s
  | .dispSyncSemWrite chip cluster k v => Sys2Proof.Machine.execDispSyncSemWrite chip cluster k v s
  | .lnkNselWrite die d v => Sys2Proof.Machine.execLnkNselWrite die d v s
  | .registerWrite by_ die off wide v => Sys2Proof.Machine.execRegisterWrite by_ die off wide v s
  | .flitCrcError die m lanes => Sys2Proof.Machine.execFlitCrcError die m lanes s
  | .flitReplay die m corrected dataOk metaOk beats => Sys2Proof.Machine.execFlitReplay die m corrected dataOk metaOk beats s
  | .beatLost chip cluster => Sys2Proof.Machine.execBeatLost chip cluster s
  | .lnkPause die m => Sys2Proof.Machine.execLnkPause die m s
  | .lnkRetrain die m => Sys2Proof.Machine.execLnkRetrain die m s
  | .lnkResume die m => Sys2Proof.Machine.execLnkResume die m s
  | .lnkFail die m => Sys2Proof.Machine.execLnkFail die m s
  | .linkTrainingDone die m bad badFar => Sys2Proof.Machine.execLinkTrainingDone die m bad badFar s
  | .linkRetryExhausted die m => Sys2Proof.Machine.execLinkRetryExhausted die m s
  | .lnkRetryThreshold die m => Sys2Proof.Machine.execLnkRetryThreshold die m s
  | .lnkRetryWindowEnd die m => Sys2Proof.Machine.execLnkRetryWindowEnd die m s
  | .scaleoutFrameReceive die p fcsOk bytes => Sys2Proof.Machine.execScaleoutFrameReceive die p fcsOk bytes s
  | .timeSyncExchange die ref boundPs => Sys2Proof.Machine.execTimeSyncExchange die ref boundPs s
  | .holdoverEnter die => Sys2Proof.Machine.execHoldoverEnter die s
  | .powerRecompute draws => Sys2Proof.Machine.execPowerRecompute draws s
  | .powerThrottle region hot => Sys2Proof.Machine.execPowerThrottle region hot s
  | .powerUnthrottle chip => Sys2Proof.Machine.execPowerUnthrottle chip s
  | .pwrOpWrite chip v => Sys2Proof.Machine.execPwrOpWrite chip v s
  | .regionWakeRequest region => Sys2Proof.Machine.execRegionWakeRequest region s
  | .wakeDeferExpiry region => Sys2Proof.Machine.execWakeDeferExpiry region s
  | .thermalTrip chip => Sys2Proof.Machine.execThermalTrip chip s
  | .clockLoss die => Sys2Proof.Machine.execClockLoss die s
  | .bringupStart digests selfOk sigsOk => Sys2Proof.Machine.execBringupStart digests selfOk sigsOk s
  | .dieSupplyPresent die => Sys2Proof.Machine.execDieSupplyPresent die s
  | .dieReferenceLocked die => Sys2Proof.Machine.execDieReferenceLocked die s
  | .dieImageReceived die digest => Sys2Proof.Machine.execDieImageReceived die digest s
  | .dieConfigured die => Sys2Proof.Machine.execDieConfigured die s
  | .dieSelfTestDone die pass failed => Sys2Proof.Machine.execDieSelfTestDone die pass failed s
  | .numberingPublished => Sys2Proof.Machine.execNumberingPublished s
  | .streamTimeout die => Sys2Proof.Machine.execStreamTimeout die s
  | .moduleSelfTestFail => Sys2Proof.Machine.execModuleSelfTestFail s
  | .spdmRequest q => Sys2Proof.Machine.execSpdmRequest q s
  | .mctpControl q => Sys2Proof.Machine.execMctpControl q s
  | .bupMboxGo => Sys2Proof.Machine.execBupMboxGo s
  | .regRead seq off count => Sys2Proof.Machine.execRegRead seq off count s
  | .regWrite seq off count vals => Sys2Proof.Machine.execRegWrite seq off count vals s
  | .recRead seq cls off len => Sys2Proof.Machine.execRecRead seq cls off len s
  | .halt seq rank ctx => Sys2Proof.Machine.execHalt seq rank ctx s
  | .watch seq chip cluster core idx v => Sys2Proof.Machine.execWatch seq chip cluster core idx v s
  | .imageData seq cls off bytes => Sys2Proof.Machine.execImageData seq cls off bytes s
  | .imageCommit seq cls regions sigOk => Sys2Proof.Machine.execImageCommit seq cls regions sigOk s
  | .regionUpdateRejoin region => Sys2Proof.Machine.execRegionUpdateRejoin region s
  | .pauseWindowExpiry core ctx => Sys2Proof.Machine.execPauseWindowExpiry core ctx s
  | .beatLinkLevelRetry chip cluster copyOk => Sys2Proof.Machine.execBeatLinkLevelRetry chip cluster copyOk s
  | .entdaa addr => Sys2Proof.Machine.execEntdaa addr s
  | .pause => Sys2Proof.Machine.execPause s
  | .ecall => Sys2Proof.Machine.execEcall s
  | .ebreak => Sys2Proof.Machine.execEbreak s
  | .wfi => Sys2Proof.Machine.execWfi s
  | .poolGuard => Sys2Proof.Machine.execPoolGuard s
  | .vrelease => Sys2Proof.Machine.execVrelease s
  | .yield => Sys2Proof.Machine.execYield s
  | .tret => Sys2Proof.Machine.execTret s
  | .retire => Sys2Proof.Machine.execRetire s
  | .gyield => Sys2Proof.Machine.execGyield s
  | .hexit => Sys2Proof.Machine.execHexit s

end Sys2Proof.Machine
end

