-- ==== Sys2Proof/WellFormed.lean ====
section
/-! DEFINITION. Well-formedness of an instruction as syntax: the checks of R65, R73 and R75 that need nothing but the
fields (the port and hold rules, the reserved codes), and R80 for the two forms of vsett. -/

namespace Sys2Proof

/-- A field that is only read may name v0-v29 or vin (R73). -/
def readOk (v : VReg) : Bool := v ≠ 31

/-- A field that is only written may name v0-v29 or vout (R73). -/
def writeOk (v : VReg) : Bool := v ≠ 30

/-- A field that is both read and written may name neither port (R73). -/
def regOnly (v : VReg) : Bool := v.toNat < 30

/-- A hold bit may stand only on a register (R73). -/
def holdOk (h : Bool) (v : VReg) : Bool := !h || regOnly v

/-- Binary class (R75). -/
def VOps.wf (o : VOps) : Bool :=
  writeOk o.vd && readOk o.vs1 && readOk o.vs2 && holdOk o.h1 o.vs1 && holdOk o.h2 o.vs2

/-- Binary class with vd also read (R75). -/
def VOps.wfAcc (o : VOps) : Bool :=
  regOnly o.vd && readOk o.vs1 && readOk o.vs2 && holdOk o.h1 o.vs1 && holdOk o.h2 o.vs2

/-- Select class: msel must not be none (R75). -/
def VOps.wfSel (o : VOps) : Bool := o.wf && o.msel ≠ .none

/-- Unary class (R75). -/
def VUn.wf (o : VUn) : Bool := writeOk o.vd && readOk o.vs1 && holdOk o.h1 o.vs1

/-- Slide and broadcast classes (R75). -/
def VImm.wf (o : VImm) : Bool := writeOk o.vd && readOk o.vs1 && holdOk o.h1 o.vs1

/-- Compare class (R75). -/
def VCmp.wf (o : VCmp) : Bool := readOk o.vs1 && readOk o.vs2 && holdOk o.h1 o.vs1 && holdOk o.h2 o.vs2

/-- The FENCE words that have names of their own (R108): PAUSE and FENCE.TSO. -/
def fenceOwnName (fm pred succ : BitVec 4) (rs1 rd : Reg) : Bool :=
  (fm = 0 && pred = 1 && succ = 0 && rs1 = 0 && rd = 0) || (fm = 8 && pred = 3 && succ = 3)

/-- Well-formedness of every constructor that has a word of its own; commands and events carry no fields that the
encoding constrains. -/
def Instr.wf : Instr → Bool
  | .fence fm pred succ rs1 rd => !fenceOwnName fm pred succ rs1 rd
  | .vadd o | .vsub o | .vmul o | .vmulh o | .vmin o | .vmax o => o.wf
  | .vand o | .vor o | .vxor o | .vandn o => o.wf
  | .vsll o | .vsrl o | .vsra o | .vbfx o | .vbfxu o | .vperm o => o.wf
  | .vfma o | .vfsl o | .vfsr o | .vbfi o => o.wfAcc
  | .vsel o => o.wfSel
  | .vabs o | .vneg o | .vclz o | .vpopc o | .vexp2 o | .vrcp o | .vrsq o => o.wf
  | .vredsum o | .vredmax o | .vredmin o | .vscan o => o.wf
  | .vredmaxG _ o | .vredminG _ o => o.wf
  | .vcvt ty o => o.wf && ty.toNat < 13
  | .vcmpeq o | .vcmplt o | .vcmple o | .vcmpltu o => o.wf
  | .vslide o | .vbcast o => o.wf
  | .viota _ vd => writeOk vd
  | .vld vd _ _ => writeOk vd
  | .vst vs _ _ => readOk vs
  | .vldu vd _ => writeOk vd
  | .vstu vs _ _ => readOk vs
  | .vldx vd vs2 _ => writeOk vd && readOk vs2
  | .vstx vs vs2 _ => readOk vs && readOk vs2
  | .vacc vd _ _ => writeOk vd
  | .vmvxs _ vs _ => readOk vs
  | .vmvsx vd _ _ => regOnly vd
  | .vsettReg _ rs1 => rs1 ≠ 0
  | _ => true

/-- The rows that share their word with another row of their command, which decodes for all of them (log entry 9, DEDUCED). -/
def Instr.sharesWord : Instr → Bool
  | .kpreemptSave _ _ _ | .kpreemptResume _ _ _ | .kpreemptCancel _ _ _ => true
  | .tlbwResume _ _ | .tlbwFail _ _ | .tlbinvAll _ _ | .tlbinvMask _ _ => true
  | .shootMigrate _ _ _ | .shootFlip _ _ _ | .shootEvict _ _ _ | .shootUnmap _ _ _ | .shootForce _ _ _ | .shootAbort _ _ _ => true
  | .fwakeWake _ _ | .fwakeFail _ _ => true
  | _ => false

end Sys2Proof
end

