-- ==== Sys2Proof/Decode.lean ====
section
/-! DEFINITION. The decoder of 32-bit instruction words (R63-R80, R106 and the RISC-V unprivileged encodings it names),
total on every word and rejecting by name, and after it the encoder written from the same tables. -/

namespace Sys2Proof

/-- Why a word has no instruction (each traps ILLEGAL_INSTR, R63-R65). -/
inductive DecodeReject where
  /-- Bits [1:0] are not 0b11 (R63). -/
  | sixteenBit
  /-- A major opcode marked ✗ (R64). -/
  | majorOpcode
  /-- An unassigned value of a selector field (R65). -/
  | selector
  /-- A nonzero reserved field (R65). -/
  | reservedField
  /-- A reserved qualifier or scope (R69). -/
  | qualifier
  /-- A breach of the port or hold rules (R73, R75). -/
  | portRule
deriving DecidableEq, Repr

/-- What decoding gives. -/
abbrev Decoded := Except DecodeReject Instr

/-- The field of len bits of w from bit lo. -/
abbrev fld (w : IWord) (lo len : Nat) : BitVec len := w.extractLsb' lo len

def rdOf (w : IWord) : Reg := fld w 7 5
def rs1Of (w : IWord) : Reg := fld w 15 5
def rs2Of (w : IWord) : Reg := fld w 20 5
def rs3Of (w : IWord) : Reg := fld w 27 5
def funct3Of (w : IWord) : BitVec 3 := fld w 12 3
def funct7Of (w : IWord) : BitVec 7 := fld w 25 7
def immIOf (w : IWord) : BitVec 12 := fld w 20 12
def immSOf (w : IWord) : BitVec 12 := fld w 25 7 ++ fld w 7 5

/-- The scope of a 3-bit code (R69). -/
def scopeOf : BitVec 3 → Option Scope
  | 0 => some .core
  | 1 => some .clu
  | 2 => some .chp
  | 3 => some .mod
  | 4 => some .sys
  | _ => none

/-- The size of funct3[1:0] in QL and QS (R68). -/
def qsizeOf : BitVec 2 → QSize
  | 0 => .b
  | 1 => .h
  | 2 => .w
  | _ => .d

def mselOf : BitVec 2 → MSel
  | 0 => .none
  | 1 => .m1
  | 2 => .m2
  | _ => .m3

def groupOf : BitVec 3 → Option GroupSize
  | 0 => some .g2
  | 1 => some .g4
  | 2 => some .g8
  | 3 => some .g16
  | 4 => some .g32
  | _ => none

/-- Accept i when ok holds, otherwise reject with r. -/
def acceptIf (ok : Bool) (r : DecodeReject) (i : Instr) : Decoded := if ok then .ok i else .error r

/-- LOAD (R106). -/
def decodeLoad (w : IWord) : Decoded :=
  match funct3Of w with
  | 0 => .ok (.rvLoad .lb (rdOf w) (rs1Of w) (immIOf w))
  | 1 => .ok (.rvLoad .lh (rdOf w) (rs1Of w) (immIOf w))
  | 2 => .ok (.rvLoad .lw (rdOf w) (rs1Of w) (immIOf w))
  | 3 => .ok (.rvLoad .ld (rdOf w) (rs1Of w) (immIOf w))
  | 4 => .ok (.rvLoad .lbu (rdOf w) (rs1Of w) (immIOf w))
  | 5 => .ok (.rvLoad .lhu (rdOf w) (rs1Of w) (immIOf w))
  | 6 => .ok (.rvLoad .lwu (rdOf w) (rs1Of w) (immIOf w))
  | _ => .error .selector

/-- STORE (R106). -/
def decodeStore (w : IWord) : Decoded :=
  match funct3Of w with
  | 0 => .ok (.rvStore .sb (rs2Of w) (rs1Of w) (immSOf w))
  | 1 => .ok (.rvStore .sh (rs2Of w) (rs1Of w) (immSOf w))
  | 2 => .ok (.rvStore .sw (rs2Of w) (rs1Of w) (immSOf w))
  | 3 => .ok (.rvStore .sd (rs2Of w) (rs1Of w) (immSOf w))
  | _ => .error .selector

/-- MISC-MEM (R108, R109). -/
def decodeMiscMem (w : IWord) : Decoded :=
  match funct3Of w with
  | 0 =>
    if fld w 28 4 = 0 && fld w 24 4 = 1 && fld w 20 4 = 0 && rs1Of w = 0 && rdOf w = 0 then .ok .pause
    else if fld w 28 4 = 8 && fld w 24 4 = 3 && fld w 20 4 = 3 then .ok (.fenceTso (rs1Of w) (rdOf w))
    else .ok (.fence (fld w 28 4) (fld w 24 4) (fld w 20 4) (rs1Of w) (rdOf w))
  | 1 => .ok (.fenceI (immIOf w) (rs1Of w) (rdOf w))
  | _ => .error .selector

/-- OP-IMM (R106). -/
def decodeOpImm (w : IWord) : Decoded :=
  let int (o : IntOp) : Decoded := .ok (.rvIntegerOp o)
  let sh (o : Shift6Op) : Decoded := int (.shift6 o (rdOf w) (rs1Of w) (fld w 20 6))
  let un (o : UnOp) : Decoded := int (.un o (rdOf w) (rs1Of w))
  let imm (o : ImmOp) : Decoded := int (.imm o (rdOf w) (rs1Of w) (immIOf w))
  match funct3Of w with
  | 0 => imm .addi
  | 2 => imm .slti
  | 3 => imm .sltiu
  | 4 => imm .xori
  | 6 => imm .ori
  | 7 => imm .andi
  | 1 =>
    if fld w 26 6 = 0x00 then sh .slli
    else if fld w 26 6 = 0x12 then sh .bclri
    else if fld w 26 6 = 0x1A then sh .binvi
    else if fld w 26 6 = 0x0A then sh .bseti
    else if immIOf w = 0x600 then un .clz
    else if immIOf w = 0x601 then un .ctz
    else if immIOf w = 0x602 then un .cpop
    else if immIOf w = 0x604 then un .sextB
    else if immIOf w = 0x605 then un .sextH
    else .error .selector
  | _ =>
    if fld w 26 6 = 0x00 then sh .srli
    else if fld w 26 6 = 0x10 then sh .srai
    else if fld w 26 6 = 0x18 then sh .rori
    else if fld w 26 6 = 0x12 then sh .bexti
    else if immIOf w = 0x287 then un .orcB
    else if immIOf w = 0x6B8 then un .rev8
    else .error .selector

/-- OP-IMM-32 (R106). -/
def decodeOpImm32 (w : IWord) : Decoded :=
  let int (o : IntOp) : Decoded := .ok (.rvIntegerOp o)
  let sh (o : Shift5Op) : Decoded := int (.shift5 o (rdOf w) (rs1Of w) (fld w 20 5))
  let un (o : UnOp) : Decoded := int (.un o (rdOf w) (rs1Of w))
  match funct3Of w with
  | 0 => int (.imm .addiw (rdOf w) (rs1Of w) (immIOf w))
  | 1 =>
    if funct7Of w = 0x00 then sh .slliw
    else if fld w 26 6 = 0x02 then int (.shift6 .slliUw (rdOf w) (rs1Of w) (fld w 20 6))
    else if immIOf w = 0x600 then un .clzw
    else if immIOf w = 0x601 then un .ctzw
    else if immIOf w = 0x602 then un .cpopw
    else .error .selector
  | 5 =>
    if funct7Of w = 0x00 then sh .srliw
    else if funct7Of w = 0x20 then sh .sraiw
    else if funct7Of w = 0x30 then sh .roriw
    else .error .selector
  | _ => .error .selector

/-- The register operation of (funct7, funct3) in OP (R106). -/
def regOp64 (f7 : BitVec 7) (f3 : BitVec 3) : Option RegOp :=
  match f7.toNat, f3.toNat with
  | 0x00, 0 => some .add
  | 0x20, 0 => some .sub
  | 0x00, 1 => some .sll
  | 0x00, 2 => some .slt
  | 0x00, 3 => some .sltu
  | 0x00, 4 => some .xor
  | 0x00, 5 => some .srl
  | 0x20, 5 => some .sra
  | 0x00, 6 => some .or
  | 0x00, 7 => some .and
  | 0x01, 0 => some .mul
  | 0x01, 1 => some .mulh
  | 0x01, 2 => some .mulhsu
  | 0x01, 3 => some .mulhu
  | 0x01, 4 => some .div
  | 0x01, 5 => some .divu
  | 0x01, 6 => some .rem
  | 0x01, 7 => some .remu
  | 0x10, 2 => some .sh1add
  | 0x10, 4 => some .sh2add
  | 0x10, 6 => some .sh3add
  | 0x20, 7 => some .andn
  | 0x20, 6 => some .orn
  | 0x20, 4 => some .xnor
  | 0x05, 6 => some .max
  | 0x05, 7 => some .maxu
  | 0x05, 4 => some .min
  | 0x05, 5 => some .minu
  | 0x30, 1 => some .rol
  | 0x30, 5 => some .ror
  | 0x24, 1 => some .bclr
  | 0x24, 5 => some .bext
  | 0x34, 1 => some .binv
  | 0x14, 1 => some .bset
  | 0x07, 5 => some .czeroEqz
  | 0x07, 7 => some .czeroNez
  | _, _ => none

/-- The register operation of (funct7, funct3) in OP-32 (R106). -/
def regOp32 (f7 : BitVec 7) (f3 : BitVec 3) : Option RegOp :=
  match f7.toNat, f3.toNat with
  | 0x00, 0 => some .addw
  | 0x20, 0 => some .subw
  | 0x00, 1 => some .sllw
  | 0x00, 5 => some .srlw
  | 0x20, 5 => some .sraw
  | 0x01, 0 => some .mulw
  | 0x01, 4 => some .divw
  | 0x01, 5 => some .divuw
  | 0x01, 6 => some .remw
  | 0x01, 7 => some .remuw
  | 0x04, 0 => some .addUw
  | 0x10, 2 => some .sh1addUw
  | 0x10, 4 => some .sh2addUw
  | 0x10, 6 => some .sh3addUw
  | 0x30, 1 => some .rolw
  | 0x30, 5 => some .rorw
  | _, _ => none

/-- OP (R106). -/
def decodeOp (w : IWord) : Decoded :=
  match regOp64 (funct7Of w) (funct3Of w) with
  | some o => .ok (.rvIntegerOp (.reg o (rdOf w) (rs1Of w) (rs2Of w)))
  | none => .error .selector

/-- OP-32 (R106); zext.h is the word with funct7 0x04, funct3 4 and rs2 = 0. -/
def decodeOp32 (w : IWord) : Decoded :=
  match regOp32 (funct7Of w) (funct3Of w) with
  | some o => .ok (.rvIntegerOp (.reg o (rdOf w) (rs1Of w) (rs2Of w)))
  | none =>
    if funct7Of w = 0x04 && funct3Of w = 4 && rs2Of w = 0 then
      .ok (.rvIntegerOp (.un .zextH (rdOf w) (rs1Of w)))
    else .error .selector

/-- The standard AMO of funct5 (R110). -/
def stdAmoOf (f5 : BitVec 5) : Option StdAmo :=
  match f5.toNat with
  | 0x00 => some .add
  | 0x01 => some .swap
  | 0x04 => some .xor
  | 0x08 => some .or
  | 0x0C => some .and
  | 0x10 => some .min
  | 0x14 => some .max
  | 0x18 => some .minu
  | 0x1C => some .maxu
  | _ => none

/-- AMO (R110). -/
def decodeAmo (w : IWord) : Decoded :=
  let aq := w.getLsbD 26
  let rl := w.getLsbD 25
  let go (dbl : Bool) : Decoded :=
    if fld w 27 5 = 0x02 then acceptIf (rs2Of w = 0) .reservedField (.lr dbl aq rl (rdOf w) (rs1Of w))
    else if fld w 27 5 = 0x03 then .ok (.sc dbl aq rl (rdOf w) (rs1Of w) (rs2Of w))
    else match stdAmoOf (fld w 27 5) with
      | some o => .ok (.rvAmo o dbl aq rl (rdOf w) (rs1Of w) (rs2Of w))
      | none => .error .selector
  match funct3Of w with
  | 2 => go false
  | 3 => go true
  | _ => .error .selector

/-- BRANCH: the offset bits [12:1] (R106). -/
def decodeBranch (w : IWord) : Decoded :=
  let off : BitVec 12 := fld w 31 1 ++ fld w 7 1 ++ fld w 25 6 ++ fld w 8 4
  let br (c : BrCond) : Decoded := .ok (.rvBranchJump (.branch c (rs1Of w) (rs2Of w) off))
  match funct3Of w with
  | 0 => br .eq
  | 1 => br .ne
  | 4 => br .lt
  | 5 => br .ge
  | 6 => br .ltu
  | 7 => br .geu
  | _ => .error .selector

/-- JAL: the offset bits [20:1] (R106). -/
def decodeJal (w : IWord) : Decoded :=
  .ok (.rvBranchJump (.jal (rdOf w) (fld w 31 1 ++ fld w 12 8 ++ fld w 20 1 ++ fld w 21 10)))

/-- JALR (R106). -/
def decodeJalr (w : IWord) : Decoded :=
  acceptIf (funct3Of w = 0) .selector (.rvBranchJump (.jalr (rdOf w) (rs1Of w) (immIOf w)))

/-- SYSTEM (R106, R123). -/
def decodeSystem (w : IWord) : Decoded :=
  match funct3Of w with
  | 0 =>
    if w = 0x00000073 then .ok .ecall
    else if w = 0x00100073 then .ok .ebreak
    else if w = 0x10500073 then .ok .wfi
    else .error .selector
  | 1 => .ok (.csrrw (rdOf w) (.reg (rs1Of w)) (immIOf w))
  | 2 => .ok (.csrrs (rdOf w) (.reg (rs1Of w)) (immIOf w))
  | 3 => .ok (.csrrc (rdOf w) (.reg (rs1Of w)) (immIOf w))
  | 5 => .ok (.csrrw (rdOf w) (.imm (rs1Of w)) (immIOf w))
  | 6 => .ok (.csrrs (rdOf w) (.imm (rs1Of w)) (immIOf w))
  | 7 => .ok (.csrrc (rdOf w) (.imm (rs1Of w)) (immIOf w))
  | _ => .error .selector

/-- custom-0 (R66, R67). -/
def decodeCustom0 (w : IWord) : Decoded :=
  let rd := rdOf w
  let rs1 := rs1Of w
  let rs2 := rs2Of w
  let rs3 := rs3Of w
  match funct3Of w with
  | 0 =>
    match fld w 25 2 with
    | 0 => .ok (.fsl rd rs1 rs2 rs3)
    | 1 => .ok (.fsr rd rs1 rs2 rs3)
    | 2 => .ok (.bfi rd rs1 rs2 rs3)
    | _ => .error .selector
  | 1 =>
    match fld w 25 2 with
    | 0 => .ok (.fslw rd rs1 rs2 rs3)
    | 1 => .ok (.fsrw rd rs1 rs2 rs3)
    | 2 => .ok (.bfiw rd rs1 rs2 rs3)
    | _ => .error .selector
  | 2 =>
    if funct7Of w = 0 then .ok (.bfx rd rs1 rs2)
    else if funct7Of w = 1 then .ok (.bfxu rd rs1 rs2)
    else if funct7Of w = 2 then .ok (.bfxw rd rs1 rs2)
    else if funct7Of w = 3 then .ok (.bfxuw rd rs1 rs2)
    else .error .selector
  | 3 => acceptIf (fld w 22 10 = 0 && rd = 0) .reservedField (.msgw (fld w 20 2) rs1)
  | 4 => acceptIf (fld w 27 5 = 0) .reservedField (.msgsi rd rs1 (fld w 20 5) (fld w 25 2))
  | 5 =>
    if funct7Of w = 0 then .ok (.msgs rd rs1 rs2)
    else if funct7Of w = 1 then acceptIf (rd = 0) .reservedField (.sendipi rs1 rs2)
    else .error .selector
  | 7 => acceptIf (w = 0x0000700B) .selector .poolGuard
  | _ => .error .selector

/-- The loads of the QL layout (R68, R69). -/
def decodeQL (w : IWord) : Decoded :=
  let off : BitVec 7 := fld w 25 2 ++ fld w 20 5
  let sz := qsizeOf (fld w 12 2)
  match fld w 30 2 with
  | 0 =>
    if fld w 27 3 = 0 then .ok (.lq false sz (rdOf w) (rs1Of w) off)
    else if fld w 27 3 = 1 then .ok (.lq true sz (rdOf w) (rs1Of w) off)
    else .error .qualifier
  | 1 =>
    match scopeOf (fld w 27 3) with
    | some s => .ok (.lqS s sz (rdOf w) (rs1Of w) off)
    | none => .error .qualifier
  | _ =>
    match scopeOf (fld w 27 3) with
    | some s => .ok (.lqAq s sz (rdOf w) (rs1Of w) off)
    | none => .error .qualifier

/-- The stores of the QS layout (R68, R69). -/
def decodeQS (w : IWord) : Decoded :=
  let off : BitVec 7 := fld w 25 2 ++ fld w 7 5
  let sz := qsizeOf (fld w 12 2)
  match fld w 30 2 with
  | 0 => acceptIf (fld w 27 3 = 0) .qualifier (.sq sz (rs2Of w) (rs1Of w) off)
  | 1 =>
    match scopeOf (fld w 27 3) with
    | some s => .ok (.sqS s sz (rs2Of w) (rs1Of w) off)
    | none => .error .qualifier
  | _ =>
    match scopeOf (fld w 27 3) with
    | some s => .ok (.sqRl s sz (rs2Of w) (rs1Of w) off)
    | none => .error .qualifier

/-- The scoped group of the QX layout (R71). -/
def decodeScoped (w : IWord) (s : Scope) : Decoded :=
  let rd := rdOf w
  let rs1 := rs1Of w
  let rs2 := rs2Of w
  let dbl := w.getLsbD 25
  match fld w 26 4 with
  | 0 => .ok (.amoqAdd s dbl rd rs1 rs2)
  | 1 => .ok (.amoqSwap s dbl rd rs1 rs2)
  | 2 => .ok (.amoqAnd s dbl rd rs1 rs2)
  | 3 => .ok (.amoqOr s dbl rd rs1 rs2)
  | 4 => .ok (.amoqXor s dbl rd rs1 rs2)
  | 5 => .ok (.amoqMin s dbl rd rs1 rs2)
  | 6 => .ok (.amoqMax s dbl rd rs1 rs2)
  | 7 => .ok (.amoqMinu s dbl rd rs1 rs2)
  | 8 => .ok (.amoqMaxu s dbl rd rs1 rs2)
  | 9 => .ok (.amoqCas s dbl rd rs1 rs2)
  | 10 =>
    if dbl then acceptIf (rs2 = 0) .reservedField (.ldff s rd rs1)
    else acceptIf (rs2 = 0) .reservedField (.ldfe s rd rs1)
  | 11 =>
    if dbl then acceptIf (rd = 0) .reservedField (.stff s rs2 rs1)
    else acceptIf (rd = 0) .reservedField (.stfe s rs2 rs1)
  | 12 =>
    if dbl then acceptIf (rd = 0 && rs1 = 0 && rs2 = 0) .reservedField (.fenceq s)
    else acceptIf (rd = 0) .reservedField (.feinit s rs2 rs1)
  | _ => .error .selector

/-- The unscoped group of the QX layout (R71). -/
def decodeUnscoped (w : IWord) : Decoded :=
  let rd := rdOf w
  let rs1 := rs1Of w
  let rs2 := rs2Of w
  let no2 := rs2 = 0
  let noD := rd = 0
  match (fld w 25 5).toNat with
  | 0 => acceptIf (noD && no2) .reservedField (.monarm rs1)
  | 1 => acceptIf (rs1 = 0 && no2) .reservedField (.wfe rd)
  | 2 => acceptIf (noD && no2) .reservedField (.semwait rs1)
  | 3 => acceptIf no2 .reservedField (.semtry rd rs1)
  | 4 => acceptIf noD .reservedField (.semsig rs1 rs2)
  | 5 => acceptIf (noD && no2) .reservedField (.mtxacq rs1)
  | 6 => acceptIf no2 .reservedField (.mtxtry rd rs1)
  | 7 => acceptIf (noD && no2) .reservedField (.mtxrel rs1)
  | 8 => acceptIf noD .reservedField (.barinit rs1 rs2)
  | 9 => acceptIf no2 .reservedField (.bararr rd rs1)
  | 10 => acceptIf noD .reservedField (.barwait rs1 rs2)
  | _ => .error .selector

/-- custom-1 (R68-R71). -/
def decodeCustom1 (w : IWord) : Decoded :=
  if fld w 30 2 = 3 then
    match scopeOf (funct3Of w) with
    | some s => decodeScoped w s
    | none => if funct3Of w = 5 then decodeUnscoped w else .error .selector
  else if w.getLsbD 14 then decodeQS w
  else decodeQL w

/-- The fields of a two-source V-format word (R72). -/
def vopsOf (w : IWord) : VOps :=
  { msel := mselOf (fld w 27 2), h2 := w.getLsbD 26, h1 := w.getLsbD 25, vs2 := fld w 20 5, vs1 := fld w 15 5,
    vd := fld w 7 5 }

def vunOf (w : IWord) : VUn :=
  { msel := mselOf (fld w 27 2), h1 := w.getLsbD 25, vs1 := fld w 15 5, vd := fld w 7 5 }

def vimmOf (w : IWord) : VImm :=
  { msel := mselOf (fld w 27 2), imm := fld w 26 1 ++ fld w 20 5, h1 := w.getLsbD 25, vs1 := fld w 15 5,
    vd := fld w 7 5 }

def vcmpOf (w : IWord) : VCmp :=
  { msel := mselOf (fld w 27 2), h2 := w.getLsbD 26, h1 := w.getLsbD 25, vs2 := fld w 20 5, vs1 := fld w 15 5,
    md := fld w 7 3 }

/-- Reject an ill-formed instruction (R73, R75). -/
def checked (i : Instr) : Decoded := acceptIf i.wf .portRule i

/-- A unary V-format word: vs2 and h2 are reserved (R75). -/
def vunary (w : IWord) (f : VUn → Instr) : Decoded :=
  if fld w 20 5 = 0 && !w.getLsbD 26 then checked (f (vunOf w)) else .error .reservedField

/-- A grouped reduction: g in [22:20], the other bits reserved (R75). -/
def vgrouped (w : IWord) (f : GroupSize → VUn → Instr) : Decoded :=
  if fld w 23 2 = 0 && !w.getLsbD 26 then
    match groupOf (fld w 20 3) with
    | some g => checked (f g (vunOf w))
    | none => .error .selector
  else .error .reservedField

/-- A compare: [11:10] reserved (R75). -/
def vcompare (w : IWord) (f : VCmp → Instr) : Decoded :=
  if fld w 10 2 = 0 then checked (f (vcmpOf w)) else .error .reservedField

/-- A mask word: msel, h1, h2 reserved (R75). -/
def maskWord (w : IWord) (ok : Bool) (i : Instr) : Decoded :=
  acceptIf (fld w 25 4 = 0 && ok) .reservedField i

/-- custom-2 (R72-R75), by the operation number of R74. -/
def decodeCustom2 (w : IWord) : Decoded :=
  let o := vopsOf w
  match (fld w 29 3 ++ fld w 12 3).toNat with
  | 0 => checked (.vadd o)
  | 1 => checked (.vsub o)
  | 2 => checked (.vmul o)
  | 3 => checked (.vmulh o)
  | 4 => checked (.vfma o)
  | 5 => checked (.vmin o)
  | 6 => checked (.vmax o)
  | 7 => vunary w .vabs
  | 8 => vunary w .vneg
  | 9 => checked (.vand o)
  | 10 => checked (.vor o)
  | 11 => checked (.vxor o)
  | 12 => checked (.vandn o)
  | 13 => checked (.vsel o)
  | 14 => if !w.getLsbD 24 && !w.getLsbD 26 then checked (.vcvt (fld w 20 4) (vunOf w)) else .error .reservedField
  | 16 => checked (.vsll o)
  | 17 => checked (.vsrl o)
  | 18 => checked (.vsra o)
  | 19 => checked (.vfsl o)
  | 20 => checked (.vfsr o)
  | 21 => checked (.vbfx o)
  | 22 => checked (.vbfxu o)
  | 23 => checked (.vbfi o)
  | 24 => vunary w .vclz
  | 25 => vunary w .vpopc
  | 26 => vcompare w .vcmpeq
  | 27 => vcompare w .vcmplt
  | 28 => vcompare w .vcmple
  | 29 => vcompare w .vcmpltu
  | 32 => vunary w .vredsum
  | 33 => vunary w .vredmax
  | 34 => vunary w .vredmin
  | 35 => vgrouped w .vredmaxG
  | 36 => vgrouped w .vredminG
  | 37 => vunary w .vscan
  | 40 => checked (.vslide (vimmOf w))
  | 41 => checked (.vperm o)
  | 42 => checked (.vbcast (vimmOf w))
  | 43 => if fld w 15 5 = 0 && fld w 20 5 = 0 && fld w 25 2 = 0 then checked (.viota (mselOf (fld w 27 2)) (fld w 7 5))
          else .error .reservedField
  | 44 => vunary w .vexp2
  | 45 => vunary w .vrcp
  | 46 => vunary w .vrsq
  | 48 => maskWord w (fld w 10 2 = 0 && fld w 18 2 = 0 && fld w 23 2 = 0) (.mand (fld w 7 3) (fld w 15 3) (fld w 20 3))
  | 49 => maskWord w (fld w 10 2 = 0 && fld w 18 2 = 0 && fld w 23 2 = 0) (.mor (fld w 7 3) (fld w 15 3) (fld w 20 3))
  | 50 => maskWord w (fld w 10 2 = 0 && fld w 18 2 = 0 && fld w 23 2 = 0) (.mxor (fld w 7 3) (fld w 15 3) (fld w 20 3))
  | 51 => maskWord w (fld w 10 2 = 0 && fld w 18 2 = 0 && fld w 20 5 = 0) (.mnot (fld w 7 3) (fld w 15 3))
  | 52 => maskWord w (fld w 10 2 = 0 && fld w 20 5 = 0) (.mset (fld w 7 3) (fld w 15 5))
  | 53 => maskWord w (fld w 18 2 = 0 && fld w 20 5 = 0) (.mcnt (fld w 7 5) (fld w 15 3))
  | 54 => maskWord w (fld w 18 2 = 0 && fld w 20 5 = 0) (.mfirst (fld w 7 5) (fld w 15 3))
  | _ => .error .selector

/-- VX (R77). -/
def decodeVX (w : IWord) : Decoded :=
  let rd := rdOf w
  let rs1 := rs1Of w
  let rs2 := rs2Of w
  match (funct7Of w).toNat with
  | 0x00 => if rs2 = 0 then checked (.vldu rd rs1) else .error .reservedField
  | 0x01 => if fld w 23 2 = 0 then checked (.vstu rd rs1 (fld w 20 3)) else .error .reservedField
  | 0x02 => checked (.vldx rd rs2 rs1)
  | 0x03 => checked (.vstx rd rs2 rs1)
  | 0x04 => if fld w 22 3 = 0 then checked (.vacc rd (fld w 20 2) rs1) else .error .reservedField
  | 0x05 => checked (.vmvxs rd rs1 rs2)
  | 0x06 => checked (.vmvsx rd rs1 rs2)
  | 0x07 => acceptIf (rs1 = 0 && rs2 = 0) .reservedField (.vclaim rd)
  | 0x08 => acceptIf (rd = 0 && rs1 = 0 && rs2 = 0) .reservedField .vrelease
  | _ => .error .selector

/-- SR (R78). -/
def decodeSR (w : IWord) : Decoded :=
  let rd := rdOf w
  let rs1 := rs1Of w
  let rs2 := rs2Of w
  let noD := rd = 0
  let no2 := rs2 = 0
  let none := noD && rs1 = 0 && no2
  match (funct7Of w).toNat with
  | 0x00 => acceptIf noD .reservedField (.csave rs1 rs2)
  | 0x01 => acceptIf noD .reservedField (.crest rs1 rs2)
  | 0x02 => acceptIf (noD && no2) .reservedField (.cresume rs1)
  | 0x03 => acceptIf (noD && no2) .reservedField (.ckill rs1)
  | 0x04 => acceptIf none .reservedField .yield
  | 0x05 => acceptIf (noD && no2) .reservedField (.sleep rs1)
  | 0x06 => acceptIf none .reservedField .tret
  | 0x08 => acceptIf none .reservedField .retire
  | 0x09 => acceptIf none .reservedField .gyield
  | 0x10 => .ok (.launch rd rs1 rs2)
  | 0x11 => acceptIf no2 .reservedField (.kstat rd rs1)
  | 0x12 => .ok (.kpreemptDrain rd rs1 rs2)
  | 0x13 => .ok (.kshrink rd rs1 rs2)
  | 0x18 => .ok (.wqpop rd rs1 rs2)
  | 0x19 => .ok (.wqpopt rd rs1 rs2)
  | 0x1A => .ok (.wqpush rd rs1 rs2)
  | 0x20 => acceptIf noD .reservedField (.tlbwWrite rs1 rs2)
  | 0x21 => acceptIf noD .reservedField (.tlbinvGranule rs1 rs2)
  | 0x22 => .ok (.tlbprobe rd rs1 rs2)
  | 0x23 => .ok (.lpin rd rs1 rs2)
  | 0x24 => .ok (.lunpin rd rs1 rs2)
  | 0x25 => .ok (.carve rd rs1 rs2)
  | 0x26 => acceptIf no2 .reservedField (.uncarve rd rs1)
  | 0x27 => .ok (.shootOnly rd rs1 rs2)
  | 0x28 => acceptIf noD .reservedField (.fwakeRaise rs1 rs2)
  | _ => .error .selector

/-- SI (R79). -/
def decodeSI (w : IWord) : Decoded :=
  let rd := rdOf w
  let rs1 := rs1Of w
  let ch := rs2Of w
  match (funct7Of w).toNat with
  | 0x00 => acceptIf (rs1 = 0) .reservedField (.qpop rd ch)
  | 0x01 => acceptIf (rs1 = 0) .reservedField (.qtry rd ch)
  | 0x02 => acceptIf (rd = 0) .reservedField (.qpush ch rs1)
  | 0x03 => acceptIf (rs1 = 0) .reservedField (.qcnt rd ch)
  | 0x04 => acceptIf (rd = 0) .reservedField (.hbind ch rs1)
  | 0x05 => acceptIf (rd = 0 && rs1 = 0) .reservedField (.hmask ch)
  | 0x06 => acceptIf (rd = 0 && rs1 = 0) .reservedField (.hunmask ch)
  | 0x07 => acceptIf (rd = 0 && rs1 = 0 && ch = 0) .reservedField .hexit
  | _ => .error .selector

/-- custom-3 (R76). -/
def decodeCustom3 (w : IWord) : Decoded :=
  match funct3Of w with
  | 0 => checked (.vld (rdOf w) (rs1Of w) (immIOf w))
  | 1 => checked (.vst (rs2Of w) (rs1Of w) (immSOf w))
  | 2 => decodeVX w
  | 3 => acceptIf (rdOf w = 0) .reservedField (.issue (rs1Of w) (immIOf w))
  | 4 => decodeSR w
  | 5 => decodeSI w
  | 6 =>
    if rs1Of w = 0 then .ok (.vsettImm (rdOf w) (immIOf w))
    else if immIOf w = 0 then .ok (.vsettReg (rdOf w) (rs1Of w))
    else .error .reservedField
  | _ => .error .selector

/-- The decoder: total on every 32-bit word (R63, R64). -/
def decodeWord (w : IWord) : Decoded :=
  if fld w 0 2 ≠ 3 then .error .sixteenBit
  else match (fld w 2 5).toNat with
    | 0x00 => decodeLoad w
    | 0x02 => decodeCustom0 w
    | 0x03 => decodeMiscMem w
    | 0x04 => decodeOpImm w
    | 0x05 => .ok (.rvIntegerOp (.auipc (rdOf w) (fld w 12 20)))
    | 0x06 => decodeOpImm32 w
    | 0x08 => decodeStore w
    | 0x0A => decodeCustom1 w
    | 0x0B => decodeAmo w
    | 0x0C => decodeOp w
    | 0x0D => .ok (.rvIntegerOp (.lui (rdOf w) (fld w 12 20)))
    | 0x0E => decodeOp32 w
    | 0x16 => decodeCustom2 w
    | 0x18 => decodeBranch w
    | 0x19 => decodeJalr w
    | 0x1B => decodeJal w
    | 0x1C => decodeSystem w
    | 0x1E => decodeCustom3 w
    | _ => .error .majorOpcode

/-- The instruction a fetched word stands for: a word with no assigned encoding is ILLEGAL_INSTRUCTION (R64). -/
def decode (w : IWord) : Instr :=
  match decodeWord w with
  | .ok i => i
  | .error _ => .illegalInstruction w

/-- The 32-bit word of four bytes, lowest address first (R63: little-endian). -/
def wordOfBytes (b0 b1 b2 b3 : Byte) : IWord := b3 ++ b2 ++ b1 ++ b0

/-- The decoder on bytes as they lie in memory. -/
def decodeBytes : List Byte → Option Instr
  | [b0, b1, b2, b3] => some (decode (wordOfBytes b0 b1 b2 b3))
  | _ => none

/-- What the decoder reads from an instruction whose bits are w, numbered as the opcode table numbers them. -/
def decodeTableWord (nbits w : Nat) : Option Instr :=
  if nbits ≤ 32 then
    let v : IWord := BitVec.ofNat 32 w
    decodeBytes [v.extractLsb' 0 8, v.extractLsb' 8 8, v.extractLsb' 16 8, v.extractLsb' 24 8]
  else none

/-! The encoder. -/

/-- The R form: funct7, rs2, rs1, funct3, rd, opcode (R66). -/
def encR (f7 : BitVec 7) (rs2 rs1 : Reg) (f3 : BitVec 3) (rd : Reg) (op : BitVec 7) : IWord :=
  f7 ++ rs2 ++ rs1 ++ f3 ++ rd ++ op

/-- The I form (R66). -/
def encI (imm : BitVec 12) (rs1 : Reg) (f3 : BitVec 3) (rd : Reg) (op : BitVec 7) : IWord :=
  imm ++ rs1 ++ f3 ++ rd ++ op

/-- The S form (R106). -/
def encS (imm : BitVec 12) (rs2 rs1 : Reg) (f3 : BitVec 3) (op : BitVec 7) : IWord :=
  imm.extractLsb' 5 7 ++ rs2 ++ rs1 ++ f3 ++ imm.extractLsb' 0 5 ++ op

def LoadKind.f3 : LoadKind → BitVec 3
  | .lb => 0 | .lh => 1 | .lw => 2 | .ld => 3 | .lbu => 4 | .lhu => 5 | .lwu => 6

def StoreKind.f3 : StoreKind → BitVec 3
  | .sb => 0 | .sh => 1 | .sw => 2 | .sd => 3

def ImmOp.enc : ImmOp → BitVec 3 × BitVec 7
  | .addi => (0, 0x13) | .slti => (2, 0x13) | .sltiu => (3, 0x13) | .xori => (4, 0x13) | .ori => (6, 0x13)
  | .andi => (7, 0x13) | .addiw => (0, 0x1B)

def Shift6Op.enc : Shift6Op → BitVec 6 × BitVec 3 × BitVec 7
  | .slli => (0x00, 1, 0x13) | .srli => (0x00, 5, 0x13) | .srai => (0x10, 5, 0x13) | .rori => (0x18, 5, 0x13)
  | .bclri => (0x12, 1, 0x13) | .bexti => (0x12, 5, 0x13) | .binvi => (0x1A, 1, 0x13) | .bseti => (0x0A, 1, 0x13)
  | .slliUw => (0x02, 1, 0x1B)

def Shift5Op.enc : Shift5Op → BitVec 7 × BitVec 3
  | .slliw => (0x00, 1) | .srliw => (0x00, 5) | .sraiw => (0x20, 5) | .roriw => (0x30, 5)

def UnOp.enc : UnOp → BitVec 12 × BitVec 3 × BitVec 7
  | .clz => (0x600, 1, 0x13) | .ctz => (0x601, 1, 0x13) | .cpop => (0x602, 1, 0x13) | .clzw => (0x600, 1, 0x1B)
  | .ctzw => (0x601, 1, 0x1B) | .cpopw => (0x602, 1, 0x1B) | .sextB => (0x604, 1, 0x13) | .sextH => (0x605, 1, 0x13)
  | .zextH => (0x080, 4, 0x3B) | .orcB => (0x287, 5, 0x13) | .rev8 => (0x6B8, 5, 0x13)

def RegOp.enc : RegOp → BitVec 7 × BitVec 3 × BitVec 7
  | .add => (0x00, 0, 0x33) | .sub => (0x20, 0, 0x33) | .sll => (0x00, 1, 0x33) | .slt => (0x00, 2, 0x33)
  | .sltu => (0x00, 3, 0x33) | .xor => (0x00, 4, 0x33) | .srl => (0x00, 5, 0x33) | .sra => (0x20, 5, 0x33)
  | .or => (0x00, 6, 0x33) | .and => (0x00, 7, 0x33) | .addw => (0x00, 0, 0x3B) | .subw => (0x20, 0, 0x3B)
  | .sllw => (0x00, 1, 0x3B) | .srlw => (0x00, 5, 0x3B) | .sraw => (0x20, 5, 0x3B) | .mul => (0x01, 0, 0x33)
  | .mulh => (0x01, 1, 0x33) | .mulhsu => (0x01, 2, 0x33) | .mulhu => (0x01, 3, 0x33) | .div => (0x01, 4, 0x33)
  | .divu => (0x01, 5, 0x33) | .rem => (0x01, 6, 0x33) | .remu => (0x01, 7, 0x33) | .mulw => (0x01, 0, 0x3B)
  | .divw => (0x01, 4, 0x3B) | .divuw => (0x01, 5, 0x3B) | .remw => (0x01, 6, 0x3B) | .remuw => (0x01, 7, 0x3B)
  | .addUw => (0x04, 0, 0x3B) | .sh1add => (0x10, 2, 0x33) | .sh2add => (0x10, 4, 0x33) | .sh3add => (0x10, 6, 0x33)
  | .sh1addUw => (0x10, 2, 0x3B) | .sh2addUw => (0x10, 4, 0x3B) | .sh3addUw => (0x10, 6, 0x3B)
  | .andn => (0x20, 7, 0x33) | .orn => (0x20, 6, 0x33) | .xnor => (0x20, 4, 0x33) | .max => (0x05, 6, 0x33)
  | .maxu => (0x05, 7, 0x33) | .min => (0x05, 4, 0x33) | .minu => (0x05, 5, 0x33) | .rol => (0x30, 1, 0x33)
  | .ror => (0x30, 5, 0x33) | .rolw => (0x30, 1, 0x3B) | .rorw => (0x30, 5, 0x3B) | .bclr => (0x24, 1, 0x33)
  | .bext => (0x24, 5, 0x33) | .binv => (0x34, 1, 0x33) | .bset => (0x14, 1, 0x33) | .czeroEqz => (0x07, 5, 0x33)
  | .czeroNez => (0x07, 7, 0x33)

def IntOp.enc : IntOp → IWord
  | .lui rd im => im ++ rd ++ (0x37 : BitVec 7)
  | .auipc rd im => im ++ rd ++ (0x17 : BitVec 7)
  | .imm o rd rs1 im => encI im rs1 o.enc.1 rd o.enc.2
  | .shift6 o rd rs1 sh => encI (o.enc.1 ++ sh) rs1 o.enc.2.1 rd o.enc.2.2
  | .shift5 o rd rs1 sh => encR o.enc.1 sh rs1 o.enc.2 rd 0x1B
  | .un o rd rs1 => encI o.enc.1 rs1 o.enc.2.1 rd o.enc.2.2
  | .reg o rd rs1 rs2 => encR o.enc.1 rs2 rs1 o.enc.2.1 rd o.enc.2.2

def BrCond.f3 : BrCond → BitVec 3
  | .eq => 0 | .ne => 1 | .lt => 4 | .ge => 5 | .ltu => 6 | .geu => 7

def BranchJump.enc : BranchJump → IWord
  | .branch c rs1 rs2 off =>
    off.extractLsb' 11 1 ++ off.extractLsb' 4 6 ++ rs2 ++ rs1 ++ c.f3 ++ off.extractLsb' 0 4 ++ off.extractLsb' 10 1 ++
      (0x63 : BitVec 7)
  | .jal rd off =>
    off.extractLsb' 19 1 ++ off.extractLsb' 0 10 ++ off.extractLsb' 10 1 ++ off.extractLsb' 11 8 ++ rd ++ (0x6F : BitVec 7)
  | .jalr rd rs1 off => encI off rs1 0 rd 0x67

def StdAmo.f5 : StdAmo → BitVec 5
  | .add => 0x00 | .swap => 0x01 | .xor => 0x04 | .or => 0x08 | .and => 0x0C | .min => 0x10 | .max => 0x14
  | .minu => 0x18 | .maxu => 0x1C

/-- An AMO word (R110). -/
def encAmo (f5 : BitVec 5) (dbl aq rl : Bool) (rd rs1 rs2 : Reg) : IWord :=
  encR (f5 ++ BitVec.ofBool aq ++ BitVec.ofBool rl) rs2 rs1 (if dbl then 3 else 2) rd 0x2F

/-- A Zicsr word (R123): f3 1, 2 or 3 for the register forms and 5, 6 or 7 for the immediate forms. -/
def encCsr (f3 : BitVec 3) (rd : Reg) (src : CsrSrc) (csr : BitVec 12) : IWord :=
  match src with
  | .reg rs1 => encI csr rs1 f3 rd 0x73
  | .imm v => encI csr v (f3 ||| 4) rd 0x73

def Scope.code : Scope → BitVec 3
  | .core => 0 | .clu => 1 | .chp => 2 | .mod => 3 | .sys => 4

def QSize.code : QSize → BitVec 2
  | .b => 0 | .h => 1 | .w => 2 | .d => 3

def MSel.code : MSel → BitVec 2
  | .none => 0 | .m1 => 1 | .m2 => 2 | .m3 => 3

def GroupSize.code : GroupSize → BitVec 3
  | .g2 => 0 | .g4 => 1 | .g8 => 2 | .g16 => 3 | .g32 => 4

/-- A QL word (R68). -/
def encQL (q : BitVec 5) (sz : QSize) (rd rs1 : Reg) (off : BitVec 7) : IWord :=
  q ++ off.extractLsb' 5 2 ++ off.extractLsb' 0 5 ++ rs1 ++ (0 : BitVec 1) ++ sz.code ++ rd ++ (0x2B : BitVec 7)

/-- A QS word (R68). -/
def encQS (q : BitVec 5) (sz : QSize) (rs2 rs1 : Reg) (off : BitVec 7) : IWord :=
  q ++ off.extractLsb' 5 2 ++ rs2 ++ rs1 ++ (1 : BitVec 1) ++ sz.code ++ off.extractLsb' 0 5 ++ (0x2B : BitVec 7)

/-- A QX word: f5 and f3 select (R71). -/
def encQX (f5 : BitVec 5) (rs2 rs1 : Reg) (f3 : BitVec 3) (rd : Reg) : IWord :=
  encR ((3 : BitVec 2) ++ f5) rs2 rs1 f3 rd 0x2B

/-- An AMOQ word (R118). -/
def encAmoq (code : BitVec 4) (s : Scope) (dbl : Bool) (rd rs1 rs2 : Reg) : IWord :=
  encQX (code ++ BitVec.ofBool dbl) rs2 rs1 s.code rd

/-- A V-format word from its operation number (R72, R74). -/
def encV (op : BitVec 6) (m : MSel) (h2 h1 : Bool) (vs2 vs1 vd : VReg) : IWord :=
  op.extractLsb' 3 3 ++ m.code ++ BitVec.ofBool h2 ++ BitVec.ofBool h1 ++ vs2 ++ vs1 ++ op.extractLsb' 0 3 ++ vd ++
    (0x5B : BitVec 7)

def encVOps (op : BitVec 6) (o : VOps) : IWord := encV op o.msel o.h2 o.h1 o.vs2 o.vs1 o.vd

def encVUn (op : BitVec 6) (o : VUn) : IWord := encV op o.msel false o.h1 0 o.vs1 o.vd

def encVGrp (op : BitVec 6) (g : GroupSize) (o : VUn) : IWord :=
  encV op o.msel false o.h1 ((0 : BitVec 2) ++ g.code) o.vs1 o.vd

def encVImm (op : BitVec 6) (o : VImm) : IWord :=
  encV op o.msel (o.imm.getLsbD 5) o.h1 (o.imm.extractLsb' 0 5) o.vs1 o.vd

def encVCmp (op : BitVec 6) (o : VCmp) : IWord :=
  encV op o.msel o.h2 o.h1 o.vs2 o.vs1 ((0 : BitVec 2) ++ o.md)

/-- A mask word (R75). -/
def encMask (op : BitVec 6) (f2 f1 fd : BitVec 5) : IWord := encV op .none false false f2 f1 fd

def mfield (m : MReg) : BitVec 5 := (0 : BitVec 2) ++ m

/-- A VX word (R77), an SR word (R78), an SI word (R79). -/
def encVX (f7 : BitVec 7) (f2 f1 fd : BitVec 5) : IWord := encR f7 f2 f1 2 fd 0x7B
def encSR (f7 : BitVec 7) (rs2 rs1 rd : Reg) : IWord := encR f7 rs2 rs1 4 rd 0x7B
def encSI (f7 : BitVec 7) (ch : BitVec 5) (rs1 rd : Reg) : IWord := encR f7 ch rs1 5 rd 0x7B

/-- The four-register form of custom-0 (R66). -/
def encRF (rs3 : Reg) (f2 : BitVec 2) (rs2 rs1 : Reg) (f3 : BitVec 3) (rd : Reg) : IWord :=
  rs3 ++ f2 ++ rs2 ++ rs1 ++ f3 ++ rd ++ (0x0B : BitVec 7)

/-- The word of an instruction; none for a command, an event and a word without instruction. -/
def encode : Instr → Option IWord
  | .rvLoad k rd rs1 imm => some (encI imm rs1 k.f3 rd 0x03)
  | .rvStore k rs2 rs1 imm => some (encS imm rs2 rs1 k.f3 0x23)
  | .rvIntegerOp o => some o.enc
  | .rvBranchJump j => some j.enc
  | .fence fm p s rs1 rd => some (encI (fm ++ p ++ s) rs1 0 rd 0x0F)
  | .fenceTso rs1 rd => some (encI 0x833 rs1 0 rd 0x0F)
  | .pause => some 0x0100000F
  | .fenceI imm rs1 rd => some (encI imm rs1 1 rd 0x0F)
  | .lr dbl aq rl rd rs1 => some (encAmo 0x02 dbl aq rl rd rs1 0)
  | .sc dbl aq rl rd rs1 rs2 => some (encAmo 0x03 dbl aq rl rd rs1 rs2)
  | .rvAmo o dbl aq rl rd rs1 rs2 => some (encAmo o.f5 dbl aq rl rd rs1 rs2)
  | .ecall => some 0x00000073
  | .ebreak => some 0x00100073
  | .wfi => some 0x10500073
  | .csrrw rd src csr => some (encCsr 1 rd src csr)
  | .csrrs rd src csr => some (encCsr 2 rd src csr)
  | .csrrc rd src csr => some (encCsr 3 rd src csr)
  | .poolGuard => some 0x0000700B
  | .fsl rd rs1 rs2 rs3 => some (encRF rs3 0 rs2 rs1 0 rd)
  | .fsr rd rs1 rs2 rs3 => some (encRF rs3 1 rs2 rs1 0 rd)
  | .bfi rd rs1 rs2 rs3 => some (encRF rs3 2 rs2 rs1 0 rd)
  | .fslw rd rs1 rs2 rs3 => some (encRF rs3 0 rs2 rs1 1 rd)
  | .fsrw rd rs1 rs2 rs3 => some (encRF rs3 1 rs2 rs1 1 rd)
  | .bfiw rd rs1 rs2 rs3 => some (encRF rs3 2 rs2 rs1 1 rd)
  | .bfx rd rs1 rs2 => some (encR 0 rs2 rs1 2 rd 0x0B)
  | .bfxu rd rs1 rs2 => some (encR 1 rs2 rs1 2 rd 0x0B)
  | .bfxw rd rs1 rs2 => some (encR 2 rs2 rs1 2 rd 0x0B)
  | .bfxuw rd rs1 rs2 => some (encR 3 rs2 rs1 2 rd 0x0B)
  | .msgw n rs1 => some (encI ((0 : BitVec 10) ++ n) rs1 3 0 0x0B)
  | .msgsi rd rs1 ch cm1 => some (encR ((0 : BitVec 5) ++ cm1) ch rs1 4 rd 0x0B)
  | .msgs rd rs1 rs2 => some (encR 0 rs2 rs1 5 rd 0x0B)
  | .sendipi rs1 rs2 => some (encR 1 rs2 rs1 5 0 0x0B)
  | .lq byp sz rd rs1 off => some (encQL (if byp then 1 else 0) sz rd rs1 off)
  | .lqS s sz rd rs1 off => some (encQL ((1 : BitVec 2) ++ s.code) sz rd rs1 off)
  | .lqAq s sz rd rs1 off => some (encQL ((2 : BitVec 2) ++ s.code) sz rd rs1 off)
  | .sq sz rs2 rs1 off => some (encQS 0 sz rs2 rs1 off)
  | .sqS s sz rs2 rs1 off => some (encQS ((1 : BitVec 2) ++ s.code) sz rs2 rs1 off)
  | .sqRl s sz rs2 rs1 off => some (encQS ((2 : BitVec 2) ++ s.code) sz rs2 rs1 off)
  | .amoqAdd s d rd rs1 rs2 => some (encAmoq 0 s d rd rs1 rs2)
  | .amoqSwap s d rd rs1 rs2 => some (encAmoq 1 s d rd rs1 rs2)
  | .amoqAnd s d rd rs1 rs2 => some (encAmoq 2 s d rd rs1 rs2)
  | .amoqOr s d rd rs1 rs2 => some (encAmoq 3 s d rd rs1 rs2)
  | .amoqXor s d rd rs1 rs2 => some (encAmoq 4 s d rd rs1 rs2)
  | .amoqMin s d rd rs1 rs2 => some (encAmoq 5 s d rd rs1 rs2)
  | .amoqMax s d rd rs1 rs2 => some (encAmoq 6 s d rd rs1 rs2)
  | .amoqMinu s d rd rs1 rs2 => some (encAmoq 7 s d rd rs1 rs2)
  | .amoqMaxu s d rd rs1 rs2 => some (encAmoq 8 s d rd rs1 rs2)
  | .amoqCas s d rd rs1 rs2 => some (encAmoq 9 s d rd rs1 rs2)
  | .ldfe s rd rs1 => some (encQX 20 0 rs1 s.code rd)
  | .ldff s rd rs1 => some (encQX 21 0 rs1 s.code rd)
  | .stfe s rs2 rs1 => some (encQX 22 rs2 rs1 s.code 0)
  | .stff s rs2 rs1 => some (encQX 23 rs2 rs1 s.code 0)
  | .feinit s rs2 rs1 => some (encQX 24 rs2 rs1 s.code 0)
  | .fenceq s => some (encQX 25 0 0 s.code 0)
  | .monarm rs1 => some (encQX 0 0 rs1 5 0)
  | .wfe rd => some (encQX 1 0 0 5 rd)
  | .semwait rs1 => some (encQX 2 0 rs1 5 0)
  | .semtry rd rs1 => some (encQX 3 0 rs1 5 rd)
  | .semsig rs1 rs2 => some (encQX 4 rs2 rs1 5 0)
  | .mtxacq rs1 => some (encQX 5 0 rs1 5 0)
  | .mtxtry rd rs1 => some (encQX 6 0 rs1 5 rd)
  | .mtxrel rs1 => some (encQX 7 0 rs1 5 0)
  | .barinit rs1 rs2 => some (encQX 8 rs2 rs1 5 0)
  | .bararr rd rs1 => some (encQX 9 0 rs1 5 rd)
  | .barwait rs1 rs2 => some (encQX 10 rs2 rs1 5 0)
  | .vadd o => some (encVOps 0 o)
  | .vsub o => some (encVOps 1 o)
  | .vmul o => some (encVOps 2 o)
  | .vmulh o => some (encVOps 3 o)
  | .vfma o => some (encVOps 4 o)
  | .vmin o => some (encVOps 5 o)
  | .vmax o => some (encVOps 6 o)
  | .vabs o => some (encVUn 7 o)
  | .vneg o => some (encVUn 8 o)
  | .vand o => some (encVOps 9 o)
  | .vor o => some (encVOps 10 o)
  | .vxor o => some (encVOps 11 o)
  | .vandn o => some (encVOps 12 o)
  | .vsel o => some (encVOps 13 o)
  | .vcvt ty o => some (encV 14 o.msel false o.h1 ((0 : BitVec 1) ++ ty) o.vs1 o.vd)
  | .vsll o => some (encVOps 16 o)
  | .vsrl o => some (encVOps 17 o)
  | .vsra o => some (encVOps 18 o)
  | .vfsl o => some (encVOps 19 o)
  | .vfsr o => some (encVOps 20 o)
  | .vbfx o => some (encVOps 21 o)
  | .vbfxu o => some (encVOps 22 o)
  | .vbfi o => some (encVOps 23 o)
  | .vclz o => some (encVUn 24 o)
  | .vpopc o => some (encVUn 25 o)
  | .vcmpeq o => some (encVCmp 26 o)
  | .vcmplt o => some (encVCmp 27 o)
  | .vcmple o => some (encVCmp 28 o)
  | .vcmpltu o => some (encVCmp 29 o)
  | .vredsum o => some (encVUn 32 o)
  | .vredmax o => some (encVUn 33 o)
  | .vredmin o => some (encVUn 34 o)
  | .vredmaxG g o => some (encVGrp 35 g o)
  | .vredminG g o => some (encVGrp 36 g o)
  | .vscan o => some (encVUn 37 o)
  | .vslide o => some (encVImm 40 o)
  | .vperm o => some (encVOps 41 o)
  | .vbcast o => some (encVImm 42 o)
  | .viota m vd => some (encV 43 m false false 0 0 vd)
  | .vexp2 o => some (encVUn 44 o)
  | .vrcp o => some (encVUn 45 o)
  | .vrsq o => some (encVUn 46 o)
  | .mand md a b => some (encMask 48 (mfield b) (mfield a) (mfield md))
  | .mor md a b => some (encMask 49 (mfield b) (mfield a) (mfield md))
  | .mxor md a b => some (encMask 50 (mfield b) (mfield a) (mfield md))
  | .mnot md a => some (encMask 51 0 (mfield a) (mfield md))
  | .mset md rs1 => some (encMask 52 0 rs1 (mfield md))
  | .mcnt rd a => some (encMask 53 0 (mfield a) rd)
  | .mfirst rd a => some (encMask 54 0 (mfield a) rd)
  | .vld vd rs1 imm => some (encI imm rs1 0 vd 0x7B)
  | .vst vs rs1 imm => some (encS imm vs rs1 1 0x7B)
  | .vldu vd rs1 => some (encVX 0 0 rs1 vd)
  | .vstu vs rs1 mn => some (encVX 1 (mfield mn) rs1 vs)
  | .vldx vd vs2 rs1 => some (encVX 2 vs2 rs1 vd)
  | .vstx vs vs2 rs1 => some (encVX 3 vs2 rs1 vs)
  | .vacc vd acc rs1 => some (encVX 4 ((0 : BitVec 3) ++ acc) rs1 vd)
  | .vmvxs rd vs rs2 => some (encVX 5 rs2 vs rd)
  | .vmvsx vd rs1 rs2 => some (encVX 6 rs2 rs1 vd)
  | .vclaim rd => some (encVX 7 0 0 rd)
  | .vrelease => some (encVX 8 0 0 0)
  | .issue rs1 imm => some (encI imm rs1 3 0 0x7B)
  | .vsettImm rd imm => some (encI imm 0 6 rd 0x7B)
  | .vsettReg rd rs1 => some (encI 0 rs1 6 rd 0x7B)
  | .csave rs1 rs2 => some (encSR 0x00 rs2 rs1 0)
  | .crest rs1 rs2 => some (encSR 0x01 rs2 rs1 0)
  | .cresume rs1 => some (encSR 0x02 0 rs1 0)
  | .ckill rs1 => some (encSR 0x03 0 rs1 0)
  | .yield => some (encSR 0x04 0 0 0)
  | .sleep rs1 => some (encSR 0x05 0 rs1 0)
  | .tret => some (encSR 0x06 0 0 0)
  | .retire => some (encSR 0x08 0 0 0)
  | .gyield => some (encSR 0x09 0 0 0)
  | .launch rd rs1 rs2 => some (encSR 0x10 rs2 rs1 rd)
  | .kstat rd rs1 => some (encSR 0x11 0 rs1 rd)
  | .kpreemptDrain rd rs1 rs2 | .kpreemptSave rd rs1 rs2 | .kpreemptResume rd rs1 rs2 | .kpreemptCancel rd rs1 rs2 =>
    some (encSR 0x12 rs2 rs1 rd)
  | .kshrink rd rs1 rs2 => some (encSR 0x13 rs2 rs1 rd)
  | .wqpop rd rs1 rs2 => some (encSR 0x18 rs2 rs1 rd)
  | .wqpopt rd rs1 rs2 => some (encSR 0x19 rs2 rs1 rd)
  | .wqpush rd rs1 rs2 => some (encSR 0x1A rs2 rs1 rd)
  | .tlbwWrite rs1 rs2 | .tlbwResume rs1 rs2 | .tlbwFail rs1 rs2 => some (encSR 0x20 rs2 rs1 0)
  | .tlbinvGranule rs1 rs2 | .tlbinvAll rs1 rs2 | .tlbinvMask rs1 rs2 => some (encSR 0x21 rs2 rs1 0)
  | .tlbprobe rd rs1 rs2 => some (encSR 0x22 rs2 rs1 rd)
  | .lpin rd rs1 rs2 => some (encSR 0x23 rs2 rs1 rd)
  | .lunpin rd rs1 rs2 => some (encSR 0x24 rs2 rs1 rd)
  | .carve rd rs1 rs2 => some (encSR 0x25 rs2 rs1 rd)
  | .uncarve rd rs1 => some (encSR 0x26 0 rs1 rd)
  | .shootOnly rd rs1 rs2 | .shootMigrate rd rs1 rs2 | .shootFlip rd rs1 rs2 | .shootEvict rd rs1 rs2
  | .shootUnmap rd rs1 rs2 | .shootForce rd rs1 rs2 | .shootAbort rd rs1 rs2 => some (encSR 0x27 rs2 rs1 rd)
  | .fwakeRaise rs1 rs2 | .fwakeWake rs1 rs2 | .fwakeFail rs1 rs2 => some (encSR 0x28 rs2 rs1 0)
  | .qpop rd ch => some (encSI 0 ch 0 rd)
  | .qtry rd ch => some (encSI 1 ch 0 rd)
  | .qpush ch rs1 => some (encSI 2 ch rs1 0)
  | .qcnt rd ch => some (encSI 3 ch 0 rd)
  | .hbind ch rs1 => some (encSI 4 ch rs1 0)
  | .hmask ch => some (encSI 5 ch 0 0)
  | .hunmask ch => some (encSI 6 ch 0 0)
  | .hexit => some (encSI 7 0 0 0)
  | _ => none

end Sys2Proof
end

