-- ==== Sys2Proof/Machine/Schedule.lean ====
section
/-! DEFINITION. Choosing a context and fetching its instruction (R245-R250, R361): eligibility, the issue selector, waits
that time ends, the bytes fetched at the pc, and the advance of a die's clock and time. -/

namespace Sys2Proof.Machine

/-- The context that the selector picks among the eligible ones, one that has just yielded only if there is no other
(R273): a strand starved for 1,024 cycles, otherwise by class and
round-robin within the class (R249). -/
def State.pick (s : State) (k : Nat) : Option Nat :=
  let all := (natsFrom 0 8).filter (s.eligible k)
  let others := all.filter (fun n => (s.core k).yielded ≠ some n)
  let el := if others.isEmpty then all else others
  match el.find? (fun n => decide (1024 ≤ (s.ctx k n).starved)) with
  | some n => some n
  | none =>
    (natsFrom 0 6).findSome? (fun cl =>
      let last := tget 7 cl (s.core k).picks
      ((natsFrom 1 8).map (fun i => (last + i) % 8)).find? (fun n => el.contains n && (s.ctx k n).issueClass = cl))

/-- The pick is recorded: the class's round-robin position, and the cycles for which strands have been eligible and passed over (R249). -/
def State.picked (s : State) (k n : Nat) : State :=
  let cl := (s.ctx k n).issueClass
  let waiting := (natsFrom 0 8).filter (fun m => (s.ctx k m).st = .strand && s.eligible k m)
  s.modCore k (fun c =>
    let c := { c with picks := tset cl n c.picks, yielded := none }
    c.mapCtxs (fun m x => { x with starved := if m ≠ n && waiting.contains m then x.starved + 1 else 0 }))

/-- All contexts whose waits time has ended are released. -/
def State.ripenAll (s : State) (k : Nat) : State := (natsFrom 0 8).foldl (fun s n => s.ripen k n) s

/-- The next core, in key order after the one that issued last, that has an eligible context. -/
def State.nextCore (s : State) : Option Nat :=
  let ks := s.cores.map (·.1)
  let order := ks.filter (fun k => decide (s.curCore < k)) ++ ks.filter (fun k => decide (k ≤ s.curCore))
  order.find? (fun k => (s.pick k).isSome)

/-- The bytes of a fetch, through the instruction L1 when it holds the line (R109, R215). -/
def State.fetchByte (s : State) (k : Nat) (l : Loc) : Byte :=
  match (s.core k).l1i.find? (fun e => e.line = lineOf l.key) with
  | some e => e.bytes.getD (l.key % 128) 0
  | none => s.byteAt l

/-- Fill the instruction L1 with the line of a place (R109). -/
def State.fillL1I (s : State) (k : Nat) (l : Loc) : State :=
  if (s.core k).l1i.any (fun e => e.line = lineOf l.key) then s
  else
    let bytes := (natsFrom 0 128).map (fun i => s.byteAt { l with key := 128 * lineOf l.key + i })
    let new : L1Line := { line := lineOf l.key, bytes := bytes, views := 0 }
    s.modCore k (fun c => { c with l1i := new :: evictOne 128 s.clock c.l1i })

/-- How the fetch at the pc of a context ends. -/
inductive Fetched where
  | word (w : IWord) (s : State)
  | fails (f : FetchFail)
  /-- The path to the line's home is not open: the fetch waits. -/
  | waits

/-- Why a fetch failed, from the fault of the access. -/
def fetchFail (f : Flt) : FetchFail :=
  if f.cause = cFETCH_PAGE_FAULT then .page (f.info.getLsbD 0) (f.info.getLsbD 5)
  else if f.cause = cTLB_MULTIHIT then .multihit
  else if f.cause = cPOISON_CONSUMED then .poison
  else if f.cause = cL2_UNCORRECTABLE then .ecc
  else if f.cause = cSTRIPE_PEER_DOWN then .stripeDown
  else .access

/-- Fetch the word at the pc of context n of core k. -/
def State.fetch (s : State) (k n : Nat) : Fetched :=
  match s.places (s.who k n) .fetch (s.ctx k n).pc 4 with
  | .error f => .fails (fetchFail f)
  | .ok ls =>
    match ls with
    | [a, b, c, d] =>
      if !s.wayOpen k a then .waits
      else
        let s' := if s.mode.fill then s.fillL1I k a else s
        .word (wordOfBytes (s.fetchByte k a) (s.fetchByte k b) (s.fetchByte k c) (s.fetchByte k d)) s'
    | _ => .fails .access

/-- Is the trap of the context ILLEGAL_INSTR, or a DOUBLE_FAULT that this cause has become (R253, R260)? -/
def Ctx.metIllegal (c : Ctx) : Bool :=
  let ill : Word := BitVec.ofNat 64 cILLEGAL_INSTR
  c.st = .trapped && (c.ecause = ill || (c.ecause = BitVec.ofNat 64 cDOUBLE_FAULT && c.einfo = ill))

/-- The outcome t of an instruction i, or the transport error that was due before it (R253): an instruction that traps
ILLEGAL_INSTR leaves it pending, and an ISSUE delivers it at its unit's step (DEDUCED, log entry 36). -/
def State.orDue (s : State) (i : Instr) (t : State) : State :=
  match s.cur.dueNow, i with
  | none, _ => t
  | _, .issue _ _ => t
  | some _, _ =>
    if t.cur.metIllegal then t else s.orPending [.store] id

/-- A strand has issued: groups that gave the core away no longer wait for it (R329). -/
def State.noteIssue (s : State) (k n : Nat) : State :=
  if (s.core k).gives.isEmpty then s
  else s.modCore k (fun c => { c with gives :=
    (c.gives.map (fun (e : Nat × (Word × List Nat)) => (e.1, e.2.1, e.2.2.filter (· != n)))).filter (fun e => !e.2.2.isEmpty) })

/-- A command word that a waiting ISSUE has read serves only that ISSUE (R189). -/
def State.keepRead (s : State) (k n : Nat) (i : Instr) : State :=
  match i with
  | .issue _ _ => s
  | _ => if (s.ctx k n).cmdRead.isSome then s.modCtx k n (fun c => { c with cmdRead := none }) else s

/-- The instruction that context n of core k executes, with the state it executes in: what it fetched and decoded, a
failed fetch, or nothing when a debug request was due first or the fetch waits. -/
def State.issueOf (s : State) (k n : Nat) : State × Option Instr :=
  let s := { s with curCore := k, curCtx := n }
  if (s.ctx k n).haltReq then
    ((s.modCtx k n (fun c => { c with haltReq := false })).takeTrap k n cDEBUG_HALT 0 0 (s.ctx k n).pc, none)
  else if s.watchHit k 0 (s.ctx k n).pc then (s.takeTrap k n cWATCHPOINT (s.ctx k n).pc 0 (s.ctx k n).pc, none)
  else
    match s.fetch k n with
    | .waits => (s, none)
    | .fails f => (s, some (.instructionFetchFault f (s.ctx k n).pc))
    | .word w s => ((s.noteIssue k n).keepRead k n (decode w), some (decode w))

/-- Does elvcycle of a die count: from CLOCKED on, and not in NEWT or DARK once in service (R30, R427, R434)? (DEDUCED, log entry 33) -/
def State.clockRuns (s : State) (die : Nat) : Bool :=
  let d := s.die die
  match d.state with
  | .clocked | .measured | .configured | .selfTest | .joined => true
  | .active | .degraded | .gated => decide (d.op < 4)
  | _ => false

/-- The acts of a core's units that its clock has made due: messages after their back-off, grant requests, poppers (R290, R292, R300),
returned contributions (R353) and parked partials (R416). -/
def State.dueOf (s : State) (k : Nat) (c : Core) : List Instr :=
  (c.collQ.filter (fun q => s.contributionDue { core := k, seq := q.hd.seq })).map (fun q =>
    .collectiveContribResend { core := k, seq := q.hd.seq }) ++
  (c.subs.filter (fun u => u.st = .parked && s.feGapOver k u.nackAt)).map (fun u => .partialResend k u.sweep u.name.page) ++
  (c.window.filter (s.msgDue k)).map (fun m => if m.st = .backoff then .messageResend k m.uid else .grantRequestRetry k m.uid) ++
  ((natsFrom 0 8).filter (s.wqDue k)).map (fun n => .wqpopRetry k n)

/-- The streams of a die, by destination. -/
def State.streamsOf (s : State) (die : Nat) : List (Nat × Stream) :=
  (s.streams.filter (fun e => e.1 / 1024 % 1024 = die)).map (fun e => (e.1 - 1024 * die, e.2))

/-- E2E_TIMEOUT of each stream of a die whose timer has run out (R387). -/
def State.timeouts (s : State) (die : Nat) : State :=
  ((s.streamsOf die).filter (fun e => s.e2eDue die e.1)).foldl (fun s e => s.e2eTimedOut die e.1) s

/-- The acts of a die's units that its clock has made due: resends of its streams after a busy reply (R386), of full-empty requests
and deliveries (R336, R414), of its cores' units, and gate steps of waking regions (R431). -/
def State.dueActs (s : State) (die : Nat) : List Instr :=
  ((s.streamsOf die).filter (fun e => s.busyOver die e.2)).map (fun e => .e2eBusyResend die e.1) ++
  (s.fes.filter (fun r => s.feResendDue r && dieOf r.core = die)).map (fun r => .feResend r.id) ++
  (s.fes.filter (fun r => r.op = feDELIVER && r.st = 2 && dieOf r.core = die && s.feGapOver r.core r.since)).map (fun r =>
    .sweepDeliveryResend r.core r.sub.sweep r.sub.page) ++
  (if die = 608 then ((natsFrom 0 64).filter s.stepDue).map .regionGateStep else []) ++
  (s.cores.filter (fun e => dieOf e.1 = die)).flatMap (fun e => s.dueOf e.1 e.2)

/-- The clock and the time of a die advance (R30, R31) (DESIGN CHOICE, log entry 8). -/
def State.advance (s : State) (die cycles time : Nat) : State :=
  let n := if s.clockRuns die then cycles else 0
  let s := s.modChip die (fun c => { c with cycle := c.cycle + BitVec.ofNat 64 n, time := c.time + BitVec.ofNat 64 time })
  let s := s.timeouts die
  s.plans ((s.dueActs die).filter (fun i => !s.pending.contains i))

/-- A byte is read early for a weak load that the context has still to issue, or for an engine: from its home, never from a register
or through a refused translation (R228). -/
def State.peek (s : State) (k n : Nat) (base : Option Reg) (va : Word) : State :=
  match s.xlate (s.who k n) .load va with
  | .error _ => s
  | .ok l =>
    let may : Bool := l.cacheable && s.wayOpen k l && (s.dataError l).isNone && (base.isNone || (s.ctx k n).wait = .none)
    if may then
      let read : Early := { base := base, key := l.key, byte := s.seenByte k n l, since := [] }
      s.modCtx k n (fun c => { c with early := read :: c.early.filter (fun e => !(e.base = base && e.key = l.key)) })
    else s

/-- Is the instruction an act of a unit, and no program instruction (which only a context issues)? (DESIGN CHOICE, log entry 81) -/
def isEvent (i : Instr) : Bool :=
  match i with
  | .illegalInstruction _ => false
  | .instructionFetchFault _ _ => false
  | _ => (encode i).isNone

end Sys2Proof.Machine
end

