-- ==== Sys2Proof/Machine/Step.lean ====
section
/-! DEFINITION. One step of the machine: the turn at the head of the tape, or else an act of a unit from the agenda or an
instruction of the context that the selector picks (R249); and the placing of a word where step fetches next. -/

namespace Sys2Proof.Machine

/-- Context n of core k issues, if it is eligible (R248). -/
def issue (s : State) (k n : Nat) : Host.Outcome State Fault Refusal :=
  if s.eligible k n then
    match s.issueOf k n with
    | (s', some i) =>
      match exec i s' with
      | .next t => .next (s'.orDue i t)
      | o => o
    | (s', none) => .next s'
  else .next s

/-- The head of the agenda is carried out. -/
def act (s : State) : Host.Outcome State Fault Refusal :=
  match s.pending with
  | [] => .next s
  | i :: r => exec i { s with pending := r }

/-- The core that is next issues from the context its selector picks. -/
def select (s : State) : Host.Outcome State Fault Refusal :=
  match s.nextCore with
  | none => .next s
  | some k =>
    match s.pick k with
    | none => .next s
    | some n => issue (s.picked k n) k n

/-- One step (DESIGN CHOICE, log entry 1). -/
def step (s : State) : Host.Outcome State Fault Refusal :=
  match s.turns with
  | .run k n mode :: r => issue ({ s with turns := r, mode := mode }.ripen k n) k n
  | .event i :: r => if isEvent i then exec i { s with turns := r } else .next { s with turns := r }
  | .advance die cycles time :: r => .next ({ s with turns := r }.advance die cycles time)
  | .peek k n base va :: r => .next ({ s with turns := r }.peek k n base va)
  | .upset u :: r => .next ({ s with turns := r }.upset u)
  | [] =>
    let s' := { s with parity := !s.parity, mode := { slow := false, fill := false, split := false } }
    if s.parity && !s.pending.isEmpty then act s' else if s.pending.isEmpty || s.parity then select s' else
      match s'.nextCore with
      | some _ => select s'
      | none => act s'

/-- The frame that a placed word lies in: the first 64 KiB of region 0's DRAM chiplet (R217). -/
def placeFrame : Nat := 512 * 2 ^ 46

/-- The address a placed word is fetched from. -/
def placeVa : Word := 0x10000

/-- A TLB entry that maps the placed word's page to its frame, for strands of slot 0 (R358). -/
def placeEntry : TlbEntry :=
  { keyid := 0, frame := placeFrame / 4096, sset := 0, vpn := 1, size := 0, vis := 1, r := true, w := true, x := true,
    u := true, t := false, p := false, members := [] }

/-- s with an instruction stored where step fetches next: chiplet 0 is ACTIVE at NOMINAL, context 0 of
core 0 is a supervisor strand about to fetch it (log entry 2, DESIGN CHOICE). -/
def State.withFetchWord (s : State) (nbits w : Nat) : State :=
  let v : IWord := BitVec.ofNat 32 (if nbits ≤ 32 then w else 0)
  let bytes := [v.extractLsb' 0 8, v.extractLsb' 8 8, v.extractLsb' 16 8, v.extractLsb' 24 8]
  let s := s.modDie 0 (fun d => { d with state := .active, op := 1 })
  let s := s.modCore 0 (fun c => { c with tlb := [(0, placeEntry)], stopped := false })
  let x : Ctx := { Ctx.empty with st := .strand, prior := .strand, super := true, pc := placeVa }
  let s := (s.setCtx 0 0 x)
  { s with mem := Memory.setBytes placeFrame bytes s.mem,
           turns := [.run 0 0 { slow := false, fill := false, split := false }] }

end Sys2Proof.Machine
end

