-- ==== Sys2Proof/Safety.lean ====
section
/-! DEFINITION. The words the claims are stated in: a sound state and a safe run, and what an instruction is said to do: it puts
a value in a register, moves the pc only, waits, or traps, and leaves the rest alone. -/

namespace Sys2Proof.Machine

/-- Memory is in canonical form: equal memories are equal data. -/
def State.memOk (s : State) : Prop := Memory.wf s.mem = true

/-- An outcome that goes on. -/
def goesOn (o : Host.Outcome State Fault Refusal) : Prop := ∃ t, o = .next t

/-- A machine is safe at a state when its step goes on. -/
def State.safe (s : State) : Prop := goesOn (step s)

/-- Every byte of memory but those at some keys reads after as before. -/
def State.keepsBut (s t : State) (as : List Nat) : Prop := ∀ a, a ∉ as → Memory.byte a t.mem = Memory.byte a s.mem

/-- Every byte of memory reads after as before. -/
def State.keepsMem (s t : State) : Prop := ∀ a, Memory.byte a t.mem = Memory.byte a s.mem

/-- Every context but the executing one is as before. -/
def State.keepsOthers (s t : State) : Prop := ∀ k n, ¬(k = s.curCore ∧ n = s.curCtx) → t.ctx k n = s.ctx k n

/-- Nothing but the executing context differs. -/
def State.onlyCur (s t : State) : Prop := t = s.setCtx s.curCore s.curCtx t.cur ∧ s.keepsMem t

/-- The instruction completes: rd takes v (x0 stays zero), the pc moves to the next instruction, and every other register,
status word and special register, every other context and every byte of memory is as before; a load performed early through rd is
forgotten (R234). -/
structure State.Puts (s t : State) (rd : Reg) (v : Word) : Prop where
  regs : ∀ r, t.rx r = if r = 0 then 0 else if r = rd then v else s.rx r
  rest : t.cur = { s.cur with x := t.cur.x, pc := s.cur.pc + 4, early := t.cur.early }
  only : s.onlyCur t

/-- The pc moves to a place, a link register aside, and nothing else changes. -/
structure State.Jumps (s t : State) (rd : Reg) (target : Word) : Prop where
  regs : ∀ r, t.rx r = if r = 0 then 0 else if r = rd then s.cur.pc + 4 else s.rx r
  rest : t.cur = { s.cur with x := t.cur.x, pc := target, early := t.cur.early }
  only : s.onlyCur t

/-- The instruction completes and only the pc moves. -/
def State.Passes (s t : State) : Prop := t.cur = { s.cur with pc := s.cur.pc + 4 } ∧ s.onlyCur t

/-- The context waits at its instruction, and nothing else changes. -/
def State.Waits (s t : State) (w : Wait) : Prop := t.cur = { s.cur with wait := w } ∧ s.onlyCur t

/-- The executing context takes a trap (R251): cause, eaddr, einfo and epc are recorded, the context is TRAPPED and remembers what
it was, no register and no byte of memory is written, the trap sequence of the core counts on, and no other context changes. -/
structure State.Traps (s t : State) (cause : Nat) (addr info epc : Word) : Prop where
  st : t.cur.st = .trapped
  prior : t.cur.prior = s.cur.st
  ecause : t.cur.ecause = BitVec.ofNat 64 cause
  eaddr : t.cur.eaddr = addr
  einfo : t.cur.einfo = info
  epc : t.cur.epc = epc &&& ~~~3
  tseq : t.cur.tseq = (s.here.tseq + 1) % 256 ∧ t.here.tseq = (s.here.tseq + 1) % 256
  regs : ∀ r, t.rx r = s.rx r
  others : s.keepsOthers t
  mem : s.keepsMem t

/-- A trap while firing on the fault channel (R260): the cause recorded is DOUBLE_FAULT, and the cause met is in einfo. -/
def State.DoublyTraps (s t : State) (cause : Nat) (addr epc : Word) : Prop :=
  s.Traps t cDOUBLE_FAULT addr (BitVec.ofNat 64 cause) epc

/-- The trap of a cause, as R251 gives it or, on the fault channel, as R260 does. -/
def State.TakesTrap (s t : State) (cause : Nat) (addr info epc : Word) : Prop :=
  if s.cur.st = .firing ∧ s.cur.chan = 31 then s.DoublyTraps t cause addr epc else s.Traps t cause addr info epc

/-- When a branch is taken (R106). -/
def BrCond.means (c : BrCond) (a b : Word) : Prop :=
  match c with
  | .eq => a = b
  | .ne => a ≠ b
  | .lt => a.toInt < b.toInt
  | .ge => b.toInt ≤ a.toInt
  | .ltu => a.toNat < b.toNat
  | .geu => b.toNat ≤ a.toNat

/-- A context as a write leaves it: it may have lost its reservation (R110), its event flag may be set (R340), and a WFE that the
flag ends completes with 0 (R341); loads performed early remember the write (R234). -/
def Ctx.SeesWrite (a b : Ctx) : Prop :=
  (b.lrRes = a.lrRes ∨ b.lrRes = none) ∧
    (b = { a with lrRes := b.lrRes, event := b.event, early := b.early } ∨
      ∃ rd t0 l, a.wait = .wfe rd t0 l ∧
        b = { a.wx rd 0 with pc := a.pc + 4, wait := .none, armed := false, lrRes := b.lrRes, event := b.event, early := b.early })

/-- The places of one access: every byte once, and the bytes of a line under one key. -/
def Loc.Apart (ls : List Loc) : Prop :=
  (ls.map (·.key)).Nodup ∧ ∀ l ∈ ls, ∀ m ∈ ls, lineOf l.key = lineOf m.key → l.keyid = m.keyid ∧ l.encrypted = m.encrypted

/-- Bytes of context n of core k reach their places: they read back; every byte of another line reads as before, whatever key
reads it; in a line already under its key, or not encrypted, every other byte is as before; the other contexts see the write and
hold no reservation on its lines any more (R110), and the writer keeps its own. -/
structure State.Writes (s t : State) (k n : Nat) (bs : List (Loc × Byte)) : Prop where
  bytes : Loc.Apart (bs.map (·.1)) → ∀ b ∈ bs, t.byteAt b.1 = b.2
  far : ∀ l : Loc, (∀ b ∈ bs, lineOf b.1.key ≠ lineOf l.key) → t.byteAt l = s.byteAt l
  near : (∀ b ∈ bs, b.1.encrypted = false ∨ s.keyOf (lineOf b.1.key) = s.keyNow b.1.keyid) → s.keepsBut t (bs.map (·.1.key))
  ctxs : ∀ j m, (s.ctx j m).SeesWrite (t.ctx j m)
  broken : ∀ j m, ¬(j = k ∧ m = n) → ∀ b ∈ bs, (t.ctx j m).lrRes ≠ some (lineOf b.1.key)
  own : (t.ctx k n).lrRes = (s.ctx k n).lrRes

/-- An access of len bytes at va reaches its places with nothing in its way: no watchpoint is armed, every byte translates
(R361), none is a register, and none has a data error (R105). -/
structure State.Reaches (s : State) (acc : Acc) (va : Word) (len : Nat) (ls : List Loc) : Prop where
  unwatched : s.here.watch = []
  places : s.xlateRange s.whoCur acc va len = .ok ls
  noReg : mmioFlt acc va ls = none
  clean : acc = .store ∨ s.firstDataError va ls = none

/-- A weak load may be performed at once: the place is the core's own, or requests do not travel on their own in this turn (log
entry 6, DESIGN CHOICE) and the way is open (R393). -/
def State.atHand (s : State) (l : Loc) : Prop := l.kind = .own ∨ (s.mode.slow = false ∧ s.wayOpen s.curCore l = true)

/-- The pc moves on with v in rd; nothing else of the context changes but its reservation and what it remembers of loads performed
early and of the stores in flight that it has released or acquired (R228, R232), nor anything of another context, nor a byte of
memory. -/
structure State.Gives (s t : State) (rd : Reg) (v : Word) : Prop where
  regs : ∀ r, t.rx r = if r = 0 then 0 else if r = rd then v else s.rx r
  rest : t.cur = { s.cur with x := t.cur.x, pc := s.cur.pc + 4, lrRes := t.cur.lrRes, early := t.cur.early,
                              out := t.cur.out, seen := t.cur.seen }
  others : s.keepsOthers t
  mem : s.keepsMem t

/-- An instruction that stores bytes at places and completes with v in rd. -/
structure State.Stores (s t : State) (bs : List (Loc × Byte)) (rd : Reg) (v : Word) : Prop where
  bytes : Loc.Apart (bs.map (·.1)) → ∀ b ∈ bs, t.byteAt b.1 = b.2
  far : ∀ l : Loc, (∀ b ∈ bs, lineOf b.1.key ≠ lineOf l.key) → t.byteAt l = s.byteAt l
  near : (∀ b ∈ bs, b.1.encrypted = false ∨ s.keyOf (lineOf b.1.key) = s.keyNow b.1.keyid) → s.keepsBut t (bs.map (·.1.key))
  others : ∀ k n, ¬(k = s.curCore ∧ n = s.curCtx) → (s.ctx k n).SeesWrite (t.ctx k n)
  broken : ∀ k n, ¬(k = s.curCore ∧ n = s.curCtx) → ∀ b ∈ bs, (t.ctx k n).lrRes ≠ some (lineOf b.1.key)
  regs : ∀ r, t.rx r = if r = 0 then 0 else if r = rd then v else s.rx r
  rest : t.cur = { s.cur with x := t.cur.x, pc := s.cur.pc + 4, event := t.cur.event, lrRes := t.cur.lrRes, early := t.cur.early,
                              out := t.cur.out, seen := t.cur.seen }

/-- A load or atomic that travels to its home: the context waits for the reply of a request of its own, and nothing else of it
changes (R227). -/
structure State.Asks (s t : State) (va : Word) (kind : ReqKind) : Prop where
  cur : t.cur = { s.cur with wait := .reply s.clock }
  req : ∃ r ∈ t.reqs, r.id = s.clock ∧ r.core = s.curCore ∧ r.ctx = s.curCtx ∧ r.kind = kind ∧ r.va = va
  others : s.keepsOthers t
  mem : s.keepsMem t

/-- Earlier stores do not hold a release back: all are acknowledged, none that the context has acquired at .core is in flight, and none
has failed (R232, R238, R242). -/
def State.settled (s : State) : Prop := s.cur.unacked = 0 ∧ s.cur.seen = [] ∧ s.cur.xportErr = none

/-- What a CSR keeps of a value written (R51, R246, R294, R336, R341). -/
def csrKept (a : Nat) (v : Word) : Word :=
  if a = 0x801 then (if v &&& 0xFFFFFFFF = 0 then 1 else v &&& 0xFFFFFFFF)
  else if a = 0x5C0 then (v &&& 0xF0000) ||| (if v &&& 0xFFFF = 0 then 1 else v &&& 0xFFFF)
  else if a = 0x5C1 then (if v &&& 0xFF = 0 then 1 else v &&& 0xFF)
  else if a = 0x5C2 then (if v &&& 0xFFFF00 = 0 then 0x100 else v &&& 0xFFFF00) ||| (if v &&& 0xFF = 0 then 1 else v &&& 0xFF)
  else if a = 0x5C3 then v &&& 0xFFFFFFFF
  else if a = 0x5C4 then v &&& 63
  else if a = 0x5C6 then v &&& ~~~3
  else v

/-- The CSRs (R124). -/
def csrNumbers : List Nat :=
  [0xF14, 0xCC0, 0xCC1, 0xCC2, 0xCC3, 0xCC4, 0xCC5, 0xCC6, 0xCC8, 0xCC9, 0xCCA, 0xCCB, 0xCCC, 0xCCD, 0x800, 0x801,
   0x5C0, 0x5C1, 0x5C2, 0x5C3, 0x5C4, 0x5C5, 0x5C6, 0x5C7]

/-- The instruction completes with v in rd: the registers, the pc, the rest of the context but its wake flag and what it remembers of
loads performed early and of stores in flight (R228, R232), and memory. -/
structure State.Completes (s t : State) (rd : Reg) (v : Word) : Prop where
  regs : ∀ r, t.rx r = if r = 0 then 0 else if r = rd then v else s.rx r
  rest : t.cur = { s.cur with x := t.cur.x, pc := s.cur.pc + 4, wake := t.cur.wake, early := t.cur.early, out := t.cur.out,
                              seen := t.cur.seen }
  mem : s.keepsMem t

/-- Context n of core k, which was waiting, completes its instruction with v in rd. -/
def State.Wakes (s t : State) (k n : Nat) (rd : Reg) (v : Word) : Prop :=
  (∀ r, (t.ctx k n).rx r = if r = 0 then 0 else if r = rd then v else (s.ctx k n).rx r) ∧
    (t.ctx k n).pc = (s.ctx k n).pc + 4 ∧ (t.ctx k n).wait = .none

/-- A vector instruction may run: the group holds window w, vtype and the type are legal, no copy error is due at a port it
names, and the ports have the rows it reads and room for the row it writes (R127, R131, R134, R196). -/
structure State.VReady (s : State) (w : Nat) (ok : Bool) (srcs : List VReg) (vd : VReg) : Prop where
  window : s.window = some w
  vtype : vtypeOk s.cur.vtype = true
  legal : ok = true
  noErr : vd = 31 ∨ 30 ∈ srcs → s.cur.copyErr = none
  rows : portReads srcs ≤ (s.here.win w).vin.length
  room : vd = 31 → (s.here.win w).vout.length < 4

/-- A vector instruction writes v: to its register, or as a row of vout; the rows of vin that it reads are popped; nothing else of the
windows changes, nor of a context but what the instruction's end may wake and what R138 holds, nor a byte of memory. -/
structure State.VPuts (s t : State) (w : Nat) (srcs : List VReg) (vd : VReg) (v : VWord) : Prop where
  regs : ∀ r, tget 0 r (t.here.win w).regs = if vd ≠ 31 ∧ r = vd.toNat then v else tget 0 r (s.here.win w).regs
  vin : (t.here.win w).vin = (s.here.win w).vin.drop (portReads srcs)
  vout : (t.here.win w).vout = (s.here.win w).vout ++ (if vd = 31 then [v] else [])
  other : ∀ j, j ≠ w → t.here.win j = s.here.win j
  rest : t.cur = { s.cur with pc := s.cur.pc + 4, rndseed := t.cur.rndseed, hold := t.cur.hold, wait := t.cur.wait }
  others : ∀ k n, ¬(k = s.curCore ∧ n = s.curCtx) →
    t.ctx k n = { s.ctx k n with wait := (t.ctx k n).wait, hold := (t.ctx k n).hold }
  mem : s.keepsMem t

/-- An instruction of the vector engine completes with v in rd: as Puts, but for the registers held, which grow older (R138). -/
structure State.VAnswers (s t : State) (rd : Reg) (v : Word) : Prop where
  regs : ∀ r, t.rx r = if r = 0 then 0 else if r = rd then v else s.rx r
  rest : t.cur = { s.cur with x := t.cur.x, pc := s.cur.pc + 4, early := t.cur.early, hold := t.cur.hold }
  only : s.onlyCur t

/-- A vector instruction reads its sources, and one of them a port, and writes no vector register. -/
structure State.VReads (s t : State) (w : Nat) (srcs : List VReg) : Prop where
  vin : (t.here.win w).vin = (s.here.win w).vin.drop (portReads srcs)
  regs : (t.here.win w).regs = (s.here.win w).regs ∧ (t.here.win w).vout = (s.here.win w).vout
  other : ∀ j, j ≠ w → t.here.win j = s.here.win j
  pc : t.cur.pc = s.cur.pc + 4
  others : ∀ k n, ¬(k = s.curCore ∧ n = s.curCtx) → t.ctx k n = { s.ctx k n with wait := (t.ctx k n).wait }

/-- The value of the n-th source of a vector instruction. -/
def State.vsrc (s : State) (w : Nat) (srcs : List VReg) (n : Nat) : VWord :=
  (sources (s.here.win w).regs srcs (s.here.win w).vin).getD n 0

/-- A vector store: the bytes reach their places, the rows of vin that it reads are popped, the pc moves on, and no register of a
window or of the context changes. -/
structure State.VStores (s t : State) (w : Nat) (srcs : List VReg) (bs : List (Loc × Byte)) : Prop where
  bytes : Loc.Apart (bs.map (·.1)) → ∀ b ∈ bs, t.byteAt b.1 = b.2
  far : ∀ l : Loc, (∀ b ∈ bs, lineOf b.1.key ≠ lineOf l.key) → t.byteAt l = s.byteAt l
  near : (∀ b ∈ bs, b.1.encrypted = false ∨ s.keyOf (lineOf b.1.key) = s.keyNow b.1.keyid) → s.keepsBut t (bs.map (·.1.key))
  vin : (t.here.win w).vin = (s.here.win w).vin.drop (portReads srcs)
  kept : (t.here.win w).regs = (s.here.win w).regs ∧ (t.here.win w).vout = (s.here.win w).vout
  other : ∀ j, j ≠ w → t.here.win j = s.here.win j
  pc : t.cur.pc = s.cur.pc + 4
  regs : ∀ r, t.rx r = s.rx r
  masks : ∀ m, t.cur.rm m = s.cur.rm m

/-- The places of bytes of the core's own local memory at window offsets. -/
def State.ownByte (s : State) (o : Nat) : Byte :=
  s.seenByte s.curCore s.curCtx { kind := .own, key := lmemKey s.curCore o, die := dieOf s.curCore, clu := cluKey s.curCore, keyid := 0 }

/-- A command word passes the checks that every unit shares (R84): an assigned opcode, a header and operands in order, a matrix
command for this core, and no channel that a user context may not name. -/
structure State.CmdFine (s : State) (w : CmdWord) : Prop where
  first : bits w 31 0 ≠ 0 ∧ bits w 31 0 ≠ 0x700B
  opcode : (cmdEvent (cOpcode w) { core := 0, seq := 0 }).isSome = true
  header : cmdHeaderOk w = true
  matrix : unitOf (cOpcode w) = .matrix → isCompute s.curCore = true ∧ cCtx w = idxOf s.curCore
  operands : s.cmdWordOk w = true
  level : s.cur.super = true ∨ cmdUserBad w = false

/-- A copy or stream command may work on its next row (R188, R190): it is in the queue of its core, waiting, the oldest of its
context, and the stores before its release are acknowledged. -/
structure State.CopyReady (s : State) (r : CmdRef) (q : CopyCmd) : Prop where
  found : (s.core r.core).copyQ.find? (fun q => q.hd.seq = r.seq) = some q
  waits : q.st = .waiting ∨ q.st = .parked
  runs : (s.core r.core).stopped = false
  first : (s.core r.core).copyFirst q = true
  released : s.released q.hd = true

/-- The command ends its row in state u: it goes on with the next one, or is done with status 0 after the last. -/
def State.RowTo (u t : State) (r : CmdRef) (q : CopyCmd) (rows : Nat) : Prop :=
  t = if q.row + 1 < rows then (u.modCopy r.core r.seq (fun q => { q with row := q.row + 1, st := .waiting })).planCmd r.core q.hd
    else u.copyFinish r 0

/-- A matrix command is the oldest of its core, ready, and has the unit's turn (R173). -/
structure State.MatReady (s : State) (r : CmdRef) (q : MatCmd) : Prop where
  found : (s.core r.core).mat.queue.find? (fun q => q.hd.seq = r.seq) = some q
  oldest : (s.core r.core).mat.oldest = some q
  waits : q.st = .waiting ∨ q.st = .parked
  read : q.unread = false
  ready : s.matReady r.core = true
  turn : s.matTurn r.core = true
  clean : mTarget q.hd.word = none ∨ ((s.core r.core).mat.poison = 0 ∧ (s.core r.core).mat.accBad = 0)

/-- The oldest matrix command of core k is done with a status, and retires next. -/
def State.MatDone (s t : State) (k status : Nat) : Prop :=
  (∀ q rest, (s.core k).mat.queue = q :: rest → ∃ x : MatCmd, x.hd = q.hd ∧ x.st = .done status ∧
      (t.core k).mat.queue = x :: rest) ∧
    .matrixCommandRetire k ∈ t.pending ∧ s.keepsMem t ∧ ∀ j n, (t.ctx j n).x = (s.ctx j n).x ∧ (t.ctx j n).pc = (s.ctx j n).pc

/-- Only accumulator n of core k differs, with the elements f. -/
def State.AccIs (s t : State) (k n : Nat) (f : Nat → Nat → BitVec 32) : Prop :=
  (∀ i j, i < 32 → j < 32 → (t.core k).mat.accAt n i j = f i j) ∧
    ∀ a i j, a ≠ n → i < 32 → j < 32 → (t.core k).mat.accAt a i j = (s.core k).mat.accAt a i j

/-- A collective command may work (R354): it is in the queue of its core, waiting, and the stores before its release are home. -/
structure State.CollReady (s : State) (r : CmdRef) (q : CollCmd) : Prop where
  found : s.coll? r = some q
  waits : q.st = .waiting ∨ q.st = .parked
  runs : (s.core r.core).stopped = false
  released : s.released q.hd = true

/-- A sweep command may work (R409): it waits in the queue of its core, and no earlier command of its context holds an entry. -/
structure State.SweepReady (s : State) (r : CmdRef) (q : SweepCmd) : Prop where
  found : s.sweep? r = some q
  waits : q.st = .waiting
  runs : (s.core r.core).stopped = false
  first : ((s.core r.core).sweepQ.takeWhile (fun x => x.hd.seq != r.seq)).any (fun x => x.hd.ctx = q.hd.ctx && x.entry) = false
  released : s.released q.hd = true

/-- A sweep command has ended: it has left the queue, no byte of memory has changed, and when it notifies and the window has room
its completion word, with result and tag, is on its way (R409). -/
def State.SweepEnded (s t : State) (r : CmdRef) (q : SweepCmd) (status result : Nat) : Prop :=
  (t.core r.core).sweepQ = dropFirst (fun (x : SweepCmd) => x.hd.seq = r.seq) (s.core r.core).sweepQ ∧ s.keepsMem t ∧
    (cNotify q.hd.word = true → (s.core r.core).windowBusy = false → (s.core r.core).hwWait = [] →
      ∃ m ∈ (t.core r.core).window, m.uid = (s.core r.core).nextUid ∧ m.dst = r.core ∧ m.chan = cChan q.hd.word ∧
        m.words = [completionWord (result * 2 ^ 24 + swTag q.hd.word) q.hd.seq status 0 (cOpcode q.hd.word)])

/-- Context n of core k has taken a trap with a cause, or DOUBLE_FAULT on the fault channel (R251, R260). -/
def State.Trapped (s t : State) (k n cause : Nat) (info : Word) : Prop :=
  (t.ctx k n).st = .trapped ∧ (t.ctx k n).x = (s.ctx k n).x ∧ (t.ctx k n).pc = (s.ctx k n).pc ∧
    (¬((s.ctx k n).st = .firing ∧ (s.ctx k n).chan = 31) → (t.ctx k n).ecause = BitVec.ofNat 64 cause ∧ (t.ctx k n).einfo = info) ∧
    ((s.ctx k n).st = .firing ∧ (s.ctx k n).chan = 31 → (t.ctx k n).ecause = 0x3F ∧ (t.ctx k n).einfo = BitVec.ofNat 64 cause)

/-- A designator names context n of core k, in service and within the executing core's reach (R266, R267 steps 1-4). -/
structure State.MayName (s : State) (d : Word) (k n : Nat) : Prop where
  level : s.cur.super = true
  core : k = if d.getLsbD 8 = true ∨ isMgmt s.curCore = true then s.curCore else s.curCore / 17 * 17 + bits d 7 3
  reach : d.getLsbD 8 = true ∨ (bits d 7 3 ≤ 16 ∧ (isCompute s.curCore = true → bits d 7 3 = idxOf s.curCore) ∧
    (isMgmt s.curCore = true → bits d 7 3 = 0))
  ctx : n = bits d 2 0
  inService : s.coreGone k = false

/-- It does so, and does not ask for another tseq (R267 step 6). -/
structure State.Names (s : State) (d : Word) (k n : Nat) : Prop extends State.MayName s d k n where
  chk : d.getLsbD 24 = true → (s.ctx k n).tseq = bits d 23 16

/-- Context n of core k is not the executing one. -/
def State.NotSelf (s : State) (k n : Nat) : Prop := ¬(k = s.curCore ∧ n = s.curCtx)

/-- A token of one die for another is planned there, when they are one die, or is a request of their stream (R328, R385). -/
def State.Carries (t : State) (src dst : Nat) (i : Instr) : Prop :=
  (src = dst ∧ i ∈ t.pending) ∨ (src ≠ dst ∧ ∃ r ∈ t.reqs, r.kind = .token i ∧ r.src = src ∧ r.dst = dst)

/-- A strand context that has become FREE; what its releases cover stays visible to acquires of its core (R232). -/
def Ctx.Freed (a b : Ctx) : Prop := b = { Ctx.empty with gen := a.gen + 1, tseq := a.tseq, out := a.out }

/-- The instruction completes with v in rd, its pc moved on and its other registers as before; memory and the state of units may
change. -/
def State.Answers (s t : State) (rd : Reg) (v : Word) : Prop :=
  t.cur.pc = s.cur.pc + 4 ∧ ∀ r, t.rx r = if r = 0 then 0 else if r = rd then v else s.rx r

end Sys2Proof.Machine
end

