-- ==== Sys2Proof/Certificates/Slice0/Obligations.lean ====
section
/-! DEFINITION. The statements for the provers. Each cites the rules of the manual it follows. -/

section
open Sys2Proof Sys2Proof.Machine

/-! The scalar base (chapter 04, R252). -/

/-- R106: a computational instruction completes with its result in rd, x0 excepted, and changes nothing else. -/
def Obligations.IntegerOpPutsResult : Prop :=
  ∀ (op : IntOp) (s : State), ∃ t, exec (.rvIntegerOp op) s = .next t ∧
    s.Puts t (IntOp.result op s.cur).1 (IntOp.result op s.cur).2

/-- R106: the arithmetic of the base in numbers.
R106: division by zero and overflow trap nothing: the quotient by zero is all ones, the remainder by zero the dividend,
and the most negative number divided by −1 gives itself, with remainder 0.
R106 (Zbb): leading and trailing zeros, ones, byte reversal and the byte-wise or. -/
def Obligations.IntegerArithmetic : Prop :=
  (∀ a b : Word,
    (RegOp.eval .add a b).toNat = (a.toNat + b.toNat) % 2 ^ 64 ∧
    (RegOp.eval .sub a b).toNat = (a.toNat + 2 ^ 64 - b.toNat) % 2 ^ 64 ∧
    (RegOp.eval .sll a b).toNat = a.toNat * 2 ^ (b.toNat % 64) % 2 ^ 64 ∧
    (RegOp.eval .srl a b).toNat = a.toNat / 2 ^ (b.toNat % 64) ∧
    (RegOp.eval .sra a b).toInt = a.toInt / 2 ^ (b.toNat % 64) ∧
    RegOp.eval .slt a b = (if a.toInt < b.toInt then 1 else 0) ∧
    RegOp.eval .sltu a b = (if a.toNat < b.toNat then 1 else 0) ∧
    (RegOp.eval .mul a b).toNat = a.toNat * b.toNat % 2 ^ 64 ∧
    (RegOp.eval .mulh a b).toInt = a.toInt * b.toInt / 2 ^ 64 ∧
    (RegOp.eval .mulhsu a b).toInt = a.toInt * b.toNat / 2 ^ 64 ∧
    (RegOp.eval .mulhu a b).toNat = a.toNat * b.toNat / 2 ^ 64 ∧
    (RegOp.eval .sh1add a b).toNat = (2 * a.toNat + b.toNat) % 2 ^ 64 ∧
    (RegOp.eval .sh2add a b).toNat = (4 * a.toNat + b.toNat) % 2 ^ 64 ∧
    (RegOp.eval .sh3add a b).toNat = (8 * a.toNat + b.toNat) % 2 ^ 64 ∧
    (RegOp.eval .addUw a b).toNat = (a.toNat % 2 ^ 32 + b.toNat) % 2 ^ 64 ∧
    (RegOp.eval .max a b).toInt = max a.toInt b.toInt ∧ (RegOp.eval .min a b).toInt = min a.toInt b.toInt ∧
    (RegOp.eval .maxu a b).toNat = max a.toNat b.toNat ∧ (RegOp.eval .minu a b).toNat = min a.toNat b.toNat ∧
    (RegOp.eval .addw a b).toInt = Int.bmod (a.toInt + b.toInt) (2 ^ 32) ∧
    (RegOp.eval .subw a b).toInt = Int.bmod (a.toInt - b.toInt) (2 ^ 32) ∧
    (RegOp.eval .mulw a b).toInt = Int.bmod (a.toInt * b.toInt) (2 ^ 32)) ∧
  (∀ a b : Word,
    RegOp.eval .div a 0 = -1 ∧ RegOp.eval .divu a 0 = -1 ∧ RegOp.eval .rem a 0 = a ∧ RegOp.eval .remu a 0 = a ∧
    RegOp.eval .div (BitVec.intMin 64) (-1) = BitVec.intMin 64 ∧ RegOp.eval .rem (BitVec.intMin 64) (-1) = 0 ∧
    (b ≠ 0 → ¬(a = BitVec.intMin 64 ∧ b = -1) → (RegOp.eval .div a b).toInt = Int.tdiv a.toInt b.toInt) ∧
    (b ≠ 0 → (RegOp.eval .rem a b).toInt = Int.tmod a.toInt b.toInt) ∧
    (b ≠ 0 → (RegOp.eval .divu a b).toNat = a.toNat / b.toNat ∧ (RegOp.eval .remu a b).toNat = a.toNat % b.toNat) ∧
    (b.setWidth 32 = 0#32 → RegOp.eval .divw a b = -1 ∧ RegOp.eval .divuw a b = -1 ∧
      RegOp.eval .remw a b = (a.setWidth 32).signExtend 64 ∧ RegOp.eval .remuw a b = (a.setWidth 32).signExtend 64)) ∧
  (∀ a : Word,
    ((UnOp.eval .clz a).toNat ≤ 64 ∧ (∀ i, 64 - (UnOp.eval .clz a).toNat ≤ i → a.getLsbD i = false) ∧
      ((UnOp.eval .clz a).toNat < 64 → a.getLsbD (63 - (UnOp.eval .clz a).toNat) = true)) ∧
    ((UnOp.eval .ctz a).toNat ≤ 64 ∧ (∀ i, i < (UnOp.eval .ctz a).toNat → a.getLsbD i = false) ∧
      ((UnOp.eval .ctz a).toNat < 64 → a.getLsbD (UnOp.eval .ctz a).toNat = true)) ∧
    (UnOp.eval .cpop a).toNat = (List.range 64).countP a.getLsbD ∧
    (∀ i, i < 8 → (UnOp.eval .rev8 a).extractLsb' (8 * i) 8 = a.extractLsb' (56 - 8 * i) 8) ∧
    (∀ i, i < 8 → (UnOp.eval .orcB a).extractLsb' (8 * i) 8 = if a.extractLsb' (8 * i) 8 = 0#8 then 0#8 else 255#8))

/-- R106, R252: a taken branch and a jump move the pc to the target, JAL and JALR link; a branch not taken passes; a target
that is no multiple of 4 traps MISALIGNED_FETCH at the transfer, which writes no register. -/
def Obligations.ControlTransfer : Prop :=
  ∀ (s : State),
    (∀ c rs1 rs2 off, ¬BrCond.means c (s.rx rs1) (s.rx rs2) →
      ∃ t, exec (.rvBranchJump (.branch c rs1 rs2 off)) s = .next t ∧ s.Passes t) ∧
    (∀ c rs1 rs2 off, BrCond.means c (s.rx rs1) (s.rx rs2) →
      let target := s.cur.pc + (off ++ 0#1).signExtend 64
      ∃ t, exec (.rvBranchJump (.branch c rs1 rs2 off)) s = .next t ∧
        if target.toNat % 4 = 0 then s.Jumps t 0 target else s.TakesTrap t 0x05 target 0 s.cur.pc) ∧
    (∀ rd off, let target := s.cur.pc + (off ++ 0#1).signExtend 64
      ∃ t, exec (.rvBranchJump (.jal rd off)) s = .next t ∧
        if target.toNat % 4 = 0 then s.Jumps t rd target else s.TakesTrap t 0x05 target 0 s.cur.pc) ∧
    (∀ rd rs1 off, let target := (s.rx rs1 + off.signExtend 64) &&& ~~~1
      ∃ t, exec (.rvBranchJump (.jalr rd rs1 off)) s = .next t ∧
        if target.toNat % 4 = 0 then s.Jumps t rd target else s.TakesTrap t 0x05 target 0 s.cur.pc)

/-- R252: ECALL, EBREAK and a misaligned target set epc and eaddr as the table gives them, and a resumption after ECALL or
EBREAK continues after the instruction. -/
def Obligations.TrapAddresses : Prop :=
  ∀ (s : State), s.cur.pc.toNat % 4 = 0 →
    (∃ t, exec .ecall s = .next t ∧ s.TakesTrap t 0x0F s.cur.pc 0 (s.cur.pc + 4) ∧ t.cur.epc = s.cur.pc + 4 ∧
      t.cur.eaddr = s.cur.pc ∧ (t.resume s.curCore s.curCtx).cur.pc = s.cur.pc + 4) ∧
    (∃ t, exec .ebreak s = .next t ∧ s.TakesTrap t 0x0E s.cur.pc 0 (s.cur.pc + 4) ∧ t.cur.epc = s.cur.pc + 4 ∧
      t.cur.eaddr = s.cur.pc ∧ (t.resume s.curCore s.curCtx).cur.pc = s.cur.pc + 4) ∧
    (∀ rd rs1 off, ((s.rx rs1 + off.signExtend 64) &&& ~~~1).toNat % 4 ≠ 0 →
      ∃ t, exec (.rvBranchJump (.jalr rd rs1 off)) s = .next t ∧ (∀ r, t.rx r = s.rx r) ∧ t.cur.epc = s.cur.pc ∧
        t.cur.eaddr = (s.rx rs1 + off.signExtend 64) &&& ~~~1) ∧
    (∀ rd off, (s.cur.pc + (off ++ 0#1).signExtend 64).toNat % 4 ≠ 0 →
      ∃ t, exec (.rvBranchJump (.jal rd off)) s = .next t ∧ (∀ r, t.rx r = s.rx r) ∧ t.cur.epc = s.cur.pc ∧
        t.cur.eaddr = s.cur.pc + (off ++ 0#1).signExtend 64) ∧
    (∀ c rs1 rs2 off, BrCond.means c (s.rx rs1) (s.rx rs2) → (s.cur.pc + (off ++ 0#1).signExtend 64).toNat % 4 ≠ 0 →
      ∃ t, exec (.rvBranchJump (.branch c rs1 rs2 off)) s = .next t ∧ (∀ r, t.rx r = s.rx r) ∧ t.cur.epc = s.cur.pc ∧
        t.cur.eaddr = s.cur.pc + (off ++ 0#1).signExtend 64)

/-- R64, R88, R251, R260, R361: a word without an assigned encoding, the pool guard and a failed fetch trap, with the cause the
manual names; on the fault channel the cause is DOUBLE_FAULT.
The model's own choices that it rests on: log entries 18, 40. -/
def Obligations.FetchTraps : Prop :=
  ∀ (s : State),
    (∀ w, ∃ t, exec (.illegalInstruction w) s = .next t ∧ s.TakesTrap t 0x01 0 0 s.cur.pc) ∧
    (∃ t, exec .poolGuard s = .next t ∧ s.TakesTrap t 0x04 s.cur.pc 0 s.cur.pc) ∧
    (∀ perm stripe a, ∃ t, exec (.instructionFetchFault (.page perm stripe) a) s = .next t ∧
      s.TakesTrap t 0x06 a (BitVec.ofNat 64 ((if perm then 1 else 0) + 4 + (if stripe then 32 else 0))) s.cur.pc) ∧
    (∀ a, ∃ t, exec (.instructionFetchFault .access a) s = .next t ∧ s.TakesTrap t 0x07 a 0 s.cur.pc) ∧
    (∀ a, ∃ t, exec (.instructionFetchFault .multihit a) s = .next t ∧ s.TakesTrap t 0x21 a 0 s.cur.pc) ∧
    (∀ a, ∃ t, exec (.instructionFetchFault .poison a) s = .next t ∧ s.TakesTrap t 0x23 a 0 s.cur.pc) ∧
    (∀ a, ∃ t, exec (.instructionFetchFault .ecc a) s = .next t ∧ s.TakesTrap t 0x25 a 0 s.cur.pc) ∧
    (∀ a, ∃ t, exec (.instructionFetchFault .stripeDown a) s = .next t ∧ s.TakesTrap t 0x22 a 0 s.cur.pc)

/-- R113, R114: the bit-field instructions, bit by bit.
R115: the funnel shifts, bit by bit: the pair of x[rs1] over x[rs2] shifted by x[rs3]. -/
def Obligations.BitFieldsAndFunnelShifts : Prop :=
  (∀ (s : State) (rd rs1 rs2 rs3 : Reg),
    let a := s.rx rs1
    let c := s.rx rs2
    let off := c.toNat % 64
    let w := min (c.toNat / 256 % 64) (64 - off)
    let off32 := c.toNat % 32
    let w32 := min (c.toNat / 256 % 64) (32 - off32)
    let d := s.rx rs3
    let ioff := d.toNat % 64
    let iw := min (d.toNat / 256 % 64) (64 - ioff)
    let ioff32 := d.toNat % 32
    let iw32 := min (d.toNat / 256 % 64) (32 - ioff32)
    (∃ t v, exec (.bfx rd rs1 rs2) s = .next t ∧ s.Puts t rd v ∧
      ∀ j, j < 64 → v.getLsbD j = if j < w then a.getLsbD (off + j) else (decide (0 < w) && a.getLsbD (off + w - 1))) ∧
    (∃ t v, exec (.bfxu rd rs1 rs2) s = .next t ∧ s.Puts t rd v ∧
      ∀ j, j < 64 → v.getLsbD j = (decide (j < w) && a.getLsbD (off + j))) ∧
    (∃ t v, exec (.bfxw rd rs1 rs2) s = .next t ∧ s.Puts t rd v ∧
      ∀ j, j < 64 → v.getLsbD j =
        if j < w32 then a.getLsbD (off32 + j) else (decide (0 < w32) && a.getLsbD (off32 + w32 - 1))) ∧
    (∃ t v, exec (.bfxuw rd rs1 rs2) s = .next t ∧ s.Puts t rd v ∧
      ∀ j, j < 64 → v.getLsbD j = (decide (min j 31 < w32) && a.getLsbD (off32 + min j 31))) ∧
    (∃ t v, exec (.bfi rd rs1 rs2 rs3) s = .next t ∧ s.Puts t rd v ∧
      ∀ j, j < 64 → v.getLsbD j = if ioff ≤ j ∧ j < ioff + iw then c.getLsbD (j - ioff) else a.getLsbD j) ∧
    (∃ t v, exec (.bfiw rd rs1 rs2 rs3) s = .next t ∧ s.Puts t rd v ∧
      ∀ j, j < 64 → v.getLsbD j =
        if ioff32 ≤ min j 31 ∧ min j 31 < ioff32 + iw32 then c.getLsbD (min j 31 - ioff32) else a.getLsbD (min j 31))) ∧
  (∀ (s : State) (rd rs1 rs2 rs3 : Reg),
    let hi := s.rx rs1
    let lo := s.rx rs2
    let k := (s.rx rs3).toNat % 64
    let k32 := (s.rx rs3).toNat % 32
    (∃ t v, exec (.fsl rd rs1 rs2 rs3) s = .next t ∧ s.Puts t rd v ∧
      ∀ j, j < 64 → v.getLsbD j = if k ≤ j then hi.getLsbD (j - k) else lo.getLsbD (64 + j - k)) ∧
    (∃ t v, exec (.fsr rd rs1 rs2 rs3) s = .next t ∧ s.Puts t rd v ∧
      ∀ j, j < 64 → v.getLsbD j = if j + k < 64 then lo.getLsbD (j + k) else hi.getLsbD (j + k - 64)) ∧
    (∃ t v, exec (.fslw rd rs1 rs2 rs3) s = .next t ∧ s.Puts t rd v ∧
      ∀ j, j < 64 → v.getLsbD j = if k32 ≤ min j 31 then hi.getLsbD (min j 31 - k32) else lo.getLsbD (32 + min j 31 - k32)) ∧
    (∃ t v, exec (.fsrw rd rs1 rs2 rs3) s = .next t ∧ s.Puts t rd v ∧
      ∀ j, j < 64 → v.getLsbD j =
        if min j 31 + k32 < 32 then lo.getLsbD (min j 31 + k32) else hi.getLsbD (min j 31 + k32 - 32)))

/-! CSRs (R123-R126, R246). -/

/-- R123, R124: a CSR that is only read gives its value; the instruction changes nothing else. There is a CSR at the listed
addresses and at no other.
R124-R126, R246, R30, R31, R21: what the CSRs listed here hold.
The model's own choices that it rests on: log entry 34. -/
def Obligations.CsrReads : Prop :=
  (∀ (s : State) (rd : Reg) (src : CsrSrc) (csr : BitVec 12),
    ((s.csr s.curCore s.curCtx csr.toNat).isSome = true ↔ csr.toNat ∈ csrNumbers) ∧
    (CsrSrc.writes src = false → ∀ v, s.csr s.curCore s.curCtx csr.toNat = some v →
      (∃ t, exec (.csrrs rd src csr) s = .next t ∧ s.Puts t rd v) ∧
      (∃ t, exec (.csrrc rd src csr) s = .next t ∧ s.Puts t rd v))) ∧
  (∀ (s : State) (k n : Nat),
    s.csr k n 0x800 = some (s.ctx k n).vtype ∧ s.csr k n 0x801 = some ((s.ctx k n).rndseed.setWidth 64) ∧
    s.csr k n 0x5C0 = some (s.core k).qbackoff ∧ s.csr k n 0x5C1 = some (s.core k).qretry ∧
    s.csr k n 0x5C2 = some (s.core k).feretry ∧ s.csr k n 0x5C3 = some (s.core k).wfetimeout ∧
    s.csr k n 0x5C4 = some (s.ctx k n).ecause ∧ s.csr k n 0x5C5 = some (s.ctx k n).eaddr ∧
    s.csr k n 0x5C6 = some (s.ctx k n).epc ∧ s.csr k n 0x5C7 = some (s.ctx k n).einfo ∧
    s.csr k n 0xCC1 = some (BitVec.ofNat 64 s.grade) ∧ s.csr k n 0xCC2 = some (s.chip (dieOf k)).cycle ∧
    s.csr k n 0xCC3 = some (s.chip (dieOf k)).time ∧ s.csr k n 0xCC6 = some ((s.core k).hbcount.setWidth 64) ∧
    (isService k = true → s.csr k n 0xF14 = some (BitVec.ofNat 64 (0x80000000 + cluKey k))) ∧
    (isCompute k = true → s.csr k n 0xF14 = some (BitVec.ofNat 64 (rankOf k))) ∧
    (∀ v, s.csr k n 0xCC5 = some v → n < 8 → (s.ctx k n).hprio < 4 →
      v.getLsbD 0 = (s.ctx k n).super ∧ v.getLsbD 1 = false ∧ (v.extractLsb' 4 3).toNat = n ∧
      v.getLsbD 7 = decide ((s.ctx k n).st = .firing) ∧
      (v.extractLsb' 2 2).toNat = (if (s.ctx k n).st = .firing then (s.ctx k n).hprio else 0) ∧
      (v.extractLsb' 8 3).toNat = min (s.die (dieOf k)).op 3))

/-- R123, R124, R51, R80, R246, R294, R336, R341: a write of a CSR that the level may write gives its old value in rd and keeps of
the new value what its fields hold; every other CSR keeps its value, and so does every byte of memory.
R123, R124, R80: an address without a CSR traps ILLEGAL_INSTR, a write that the level may not make CSR_ACCESS, and a write of an
illegal vtype ILLEGAL_INSTR.
The model's own choices that it rests on: log entry 18. -/
def Obligations.CsrWrites : Prop :=
  (∀ (s : State) (rd : Reg) (src : CsrSrc) (csr : BitVec 12) (old : Word) (i : Instr) (new : Word),
    s.csr s.curCore s.curCtx csr.toNat = some old →
    ((i = .csrrw rd src csr ∧ new = s.csrSrc src) ∨
     (i = .csrrs rd src csr ∧ CsrSrc.writes src = true ∧ new = old ||| s.csrSrc src) ∨
     (i = .csrrc rd src csr ∧ CsrSrc.writes src = true ∧ new = old &&& ~~~(s.csrSrc src))) →
    (csr.toNat = 0x800 ∨ csr.toNat = 0x801 ∨ (s.cur.super = true ∧ 0x5C0 ≤ csr.toNat ∧ csr.toNat ≤ 0x5C7)) →
    (csr.toNat = 0x800 → new &&& 15 < 13 ∧ new >>> 4 &&& 7 < 5 ∧ new >>> 8 = 0) →
    ∃ t, exec i s = .next t ∧ (∀ r, t.rx r = if r = 0 then 0 else if r = rd then old else s.rx r) ∧
      t.cur.pc = s.cur.pc + 4 ∧ t.csr s.curCore s.curCtx csr.toNat = some (csrKept csr.toNat new) ∧
      (∀ a, a ≠ csr.toNat → t.csr s.curCore s.curCtx a = s.csr s.curCore s.curCtx a) ∧
      t.cur.st = s.cur.st ∧ t.cur.wait = s.cur.wait ∧ s.keepsOthers t ∧ s.keepsMem t) ∧
  (∀ (s : State) (rd : Reg) (src : CsrSrc) (csr : BitVec 12) (i : Instr),
    (i = .csrrw rd src csr ∨ i = .csrrs rd src csr ∨ i = .csrrc rd src csr) →
    (csr.toNat ∉ csrNumbers → ∃ t, exec i s = .next t ∧ s.TakesTrap t 0x01 0 0 s.cur.pc) ∧
    (csr.toNat ∈ csrNumbers → (i = .csrrw rd src csr ∨ CsrSrc.writes src = true) → csr.toNat ≠ 0x800 → csr.toNat ≠ 0x801 →
      (s.cur.super = false ∨ csr.toNat < 0x5C0 ∨ 0x5C7 < csr.toNat) →
      ∃ t, exec i s = .next t ∧ s.TakesTrap t 0x38 0 0 s.cur.pc) ∧
    (csr.toNat = 0x800 → i = .csrrw rd src csr →
      (13 ≤ s.csrSrc src &&& 15 ∨ 5 ≤ s.csrSrc src >>> 4 &&& 7 ∨ s.csrSrc src >>> 8 ≠ 0) →
      ∃ t, exec i s = .next t ∧ s.TakesTrap t 0x01 0 0 s.cur.pc))

/-! Loads, stores and atomics (R107, R110, R116-R119). -/

/-- R107, R116, R228: a weak load whose places are at hand gives the bytes it reads, extended, and changes nothing else; one that has been
performed early gives the bytes read then; one whose places travel waits for the reply of a request that names them.
R116, R117, R110: a strong load, aligned and performed at once, gives the bytes at their homes; LR reserves the line of its
address, the other forms leave the reservation alone.
R216: a load from the local window reads the core's own local memory, low byte first.
The model's own choices that it rests on: log entries 6, 7. -/
def Obligations.Loads : Prop :=
  (∀ (s : State) (rd rs1 : Reg) (ls : List Loc),
    (∀ k imm, let va := s.rx rs1 + imm.signExtend 64
      s.Reaches .load va (LoadKind.shape k).1 ls →
      let seen := ls.map (s.weakByte s.curCore s.curCtx)
      let early := ls.mapM (fun l => s.earlyByte s.curCore s.curCtx (some rs1) l.key)
      (early = none → (∀ l ∈ ls, s.atHand l) → ∃ t, exec (.rvLoad k rd rs1 imm) s = .next t ∧
        s.Gives t rd (extended (LoadKind.shape k).2 seen) ∧ t.cur.lrRes = s.cur.lrRes) ∧
      (∀ bs, early = some bs → ∃ t, exec (.rvLoad k rd rs1 imm) s = .next t ∧
        s.Gives t rd (extended (LoadKind.shape k).2 bs) ∧ t.cur.lrRes = s.cur.lrRes) ∧
      (s.cur.early = [] → (∃ l ∈ ls, ¬s.atHand l ∧ s.l1Byte s.curCore s.curCtx l = none) → oneHome ls = true →
        ∃ t, exec (.rvLoad k rd rs1 imm) s = .next t ∧
          s.Asks t va (.load (ls.map (·.key)) (LoadKind.shape k).2 rd false))) ∧
    (∀ sz off, let va := qAddr (s.rx rs1) off sz
      s.Reaches .load va (QSize.bytes sz) ls → (∀ l ∈ ls, s.atHand l) → s.cur.early = [] →
      (∃ t, exec (.lq false sz rd rs1 off) s = .next t ∧
        s.Gives t rd (extended true (ls.map (s.weakByte s.curCore s.curCtx))) ∧ t.cur.lrRes = s.cur.lrRes) ∧
      (∃ t, exec (.lq true sz rd rs1 off) s = .next t ∧
        s.Gives t rd (extended true (ls.map (s.seenByte s.curCore s.curCtx))) ∧ t.cur.lrRes = s.cur.lrRes))) ∧
  (∀ (s : State) (rd rs1 : Reg) (ls : List Loc), (∀ l ∈ ls, s.atOnce s.curCore l = true) →
    let v := extended true (ls.map (s.seenByte s.curCore s.curCtx))
    (∀ sc sz off, let va := qAddr (s.rx rs1) off sz
      s.Reaches .load va (QSize.bytes sz) ls → va.toNat % QSize.bytes sz = 0 →
      (∃ t, exec (.lqS sc sz rd rs1 off) s = .next t ∧ s.Gives t rd v ∧ t.cur.lrRes = s.cur.lrRes) ∧
      (∃ t, exec (.lqAq sc sz rd rs1 off) s = .next t ∧ s.Gives t rd v ∧ t.cur.lrRes = s.cur.lrRes)) ∧
    (∀ dbl aq rl, let len := if dbl then 8 else 4
      s.Reaches .lr (s.rx rs1) len ls → (s.rx rs1).toNat % len = 0 → (rl = true → s.settled) →
      ∃ t, exec (.lr dbl aq rl rd rs1) s = .next t ∧ s.Gives t rd v ∧ t.cur.lrRes = ls.head?.map (fun l => lineOf l.key))) ∧
  (∀ (s : State) (rd rs1 : Reg) (imm : BitVec 12), let va := s.rx rs1 + imm.signExtend 64
    let at_ (i : Nat) : Nat := lmemKey s.curCore (va.toNat + i)
    let b (i : Nat) : Nat := (Memory.byte (at_ i) s.mem).toNat
    va.toNat + 8 ≤ 65536 → s.here.watch = [] → s.here.l1d = [] → (∀ i, i < 8 → at_ i ∉ s.badParity) →
    s.cur.early = [] → (∀ r ∈ s.reqs, r.core = s.curCore → r.phase = .done) →
    (∃ t v, exec (.rvLoad .ld rd rs1 imm) s = .next t ∧ s.Gives t rd v ∧
      v.toNat = b 0 + 2 ^ 8 * b 1 + 2 ^ 16 * b 2 + 2 ^ 24 * b 3 + 2 ^ 32 * b 4 + 2 ^ 40 * b 5 + 2 ^ 48 * b 6 + 2 ^ 56 * b 7) ∧
    (∃ t v, exec (.rvLoad .lw rd rs1 imm) s = .next t ∧ s.Gives t rd v ∧
      v.toInt = Int.bmod (b 0 + 2 ^ 8 * b 1 + 2 ^ 16 * b 2 + 2 ^ 24 * b 3 : Nat) (2 ^ 32)) ∧
    (∃ t v, exec (.rvLoad .lhu rd rs1 imm) s = .next t ∧ s.Gives t rd v ∧ v.toNat = b 0 + 2 ^ 8 * b 1) ∧
    (∃ t v, exec (.rvLoad .lb rd rs1 imm) s = .next t ∧ s.Gives t rd v ∧ v.toInt = Int.bmod (b 0) (2 ^ 8)))

/-- R107, R110, R116, R117, R238: a store whose places are at hand puts the low bytes of x[rs2] at them; every other byte, every
register, and every other context but for what it sees of the write, stays; a strong store is aligned, and a wide release
finds every earlier store acknowledged.
The model's own choices that it rests on: log entry 6. -/
def Obligations.StoresPutBytes : Prop :=
  ∀ (s : State) (rs2 rs1 : Reg) (ls : List Loc), s.cur.wait = .none → (∀ l ∈ ls, s.atOnce s.curCore l = true) →
    let v := (s.rx rs2).toNat
    (∀ k imm, s.Reaches .store (s.rx rs1 + imm.signExtend 64) (StoreKind.bytes k) ls →
      ∃ t, exec (.rvStore k rs2 rs1 imm) s = .next t ∧ s.Stores t (ls.zip (leBytes (StoreKind.bytes k) v)) 0 0) ∧
    (∀ sz off, let va := qAddr (s.rx rs1) off sz
      s.Reaches .store va (QSize.bytes sz) ls →
      let bs := ls.zip (leBytes (QSize.bytes sz) v)
      (∃ t, exec (.sq sz rs2 rs1 off) s = .next t ∧ s.Stores t bs 0 0) ∧
      (va.toNat % QSize.bytes sz = 0 → ∀ sc,
        (∃ t, exec (.sqS sc sz rs2 rs1 off) s = .next t ∧ s.Stores t bs 0 0) ∧
        (sc = .core ∨ s.settled → ∃ t, exec (.sqRl sc sz rs2 rs1 off) s = .next t ∧ s.Stores t bs 0 0)))

/-- R110, R118, R119: an aligned atomic performed at once returns the old value and stores the new one at the same place; a cas
that does not match stores nothing. SC stores only under its reservation, and gives it up either way.
R118: the operations of the atomics in numbers, at either width.
The model's own choices that it rests on: log entry 6. -/
def Obligations.Atomics : Prop :=
  (∀ (s : State) (rd rs1 rs2 : Reg) (dbl : Bool) (ls : List Loc), s.cur.wait = .none → (∀ l ∈ ls, s.atOnce s.curCore l = true) →
    let len := if dbl then 8 else 4
    s.Reaches .rmw (s.rx rs1) len ls → (s.rx rs1).toNat % len = 0 →
    let old := leNat (ls.map s.byteAt)
    let result : Word := if dbl then BitVec.ofNat 64 old else (BitVec.ofNat 32 old).signExtend 64
    let new (op : AmoOp) (e : Word) : List Byte :=
      if dbl then leBytes 8 (amoFn op (BitVec.ofNat 64 old) (s.rx rs2) e).toNat
      else leBytes 4 (amoFn op (BitVec.ofNat 32 old) ((s.rx rs2).setWidth 32) (e.setWidth 32)).toNat
    (∀ op aq rl, (rl = true → s.settled) →
      ∃ t, exec (.rvAmo op dbl aq rl rd rs1 rs2) s = .next t ∧ s.Stores t (ls.zip (new (StdAmo.amo op) 0)) rd result) ∧
    (∀ sc, sc = .core ∨ s.settled →
      (∃ t, exec (.amoqAdd sc dbl rd rs1 rs2) s = .next t ∧ s.Stores t (ls.zip (new .add 0)) rd result) ∧
      (∃ t, exec (.amoqSwap sc dbl rd rs1 rs2) s = .next t ∧ s.Stores t (ls.zip (new .swap 0)) rd result) ∧
      (∃ t, exec (.amoqAnd sc dbl rd rs1 rs2) s = .next t ∧ s.Stores t (ls.zip (new .and 0)) rd result) ∧
      (∃ t, exec (.amoqOr sc dbl rd rs1 rs2) s = .next t ∧ s.Stores t (ls.zip (new .or 0)) rd result) ∧
      (∃ t, exec (.amoqXor sc dbl rd rs1 rs2) s = .next t ∧ s.Stores t (ls.zip (new .xor 0)) rd result) ∧
      (∃ t, exec (.amoqMin sc dbl rd rs1 rs2) s = .next t ∧ s.Stores t (ls.zip (new .min 0)) rd result) ∧
      (∃ t, exec (.amoqMax sc dbl rd rs1 rs2) s = .next t ∧ s.Stores t (ls.zip (new .max 0)) rd result) ∧
      (∃ t, exec (.amoqMinu sc dbl rd rs1 rs2) s = .next t ∧ s.Stores t (ls.zip (new .minu 0)) rd result) ∧
      (∃ t, exec (.amoqMaxu sc dbl rd rs1 rs2) s = .next t ∧ s.Stores t (ls.zip (new .maxu 0)) rd result) ∧
      (∃ t, exec (.amoqCas sc dbl rd rs1 rs2) s = .next t ∧
        s.Stores t (if (if dbl then BitVec.ofNat 64 old = s.rx rd else BitVec.ofNat 32 old = (s.rx rd).setWidth 32)
          then ls.zip (new .swap 0) else []) rd result)) ∧
    (∀ aq rl, (rl = true → s.settled) →
      ∃ t, exec (.sc dbl aq rl rd rs1 rs2) s = .next t ∧ t.cur.lrRes = none ∧
        if ls.head?.map (fun l => lineOf l.key) = s.cur.lrRes
        then s.Stores t (ls.zip (leBytes len (s.rx rs2).toNat)) rd 0 else s.Stores t [] rd 1)) ∧
  (∀ (w : Nat) (m b e : BitVec w),
    (amoFn .add m b e).toNat = (m.toNat + b.toNat) % 2 ^ w ∧ amoFn .swap m b e = b ∧
    (∀ i, (amoFn .and m b e).getLsbD i = (m.getLsbD i && b.getLsbD i)) ∧
    (∀ i, (amoFn .or m b e).getLsbD i = (m.getLsbD i || b.getLsbD i)) ∧
    (∀ i, (amoFn .xor m b e).getLsbD i = (m.getLsbD i != b.getLsbD i)) ∧
    (amoFn .min m b e).toInt = min m.toInt b.toInt ∧ (amoFn .max m b e).toInt = max m.toInt b.toInt ∧
    (amoFn .minu m b e).toNat = min m.toNat b.toNat ∧ (amoFn .maxu m b e).toNat = max m.toNat b.toNat ∧
    amoFn .cas m b e = if m = e then b else m)

/-- R105, R110, R117, R119, R216, R361: where a load, a store or an atomic traps: a misaligned strong access
(MISALIGNED_ATOMIC), and a range that does not translate (with the cause, address and detail of its fault).
The model's own choices that it rests on: log entries 18, 67. -/
def Obligations.AccessTraps : Prop :=
  ∀ (s : State) (rd rs1 rs2 : Reg) (off : BitVec 7) (sc : Scope), s.here.watch = [] → s.settled →
    (∀ sz, let va := qAddr (s.rx rs1) off sz
      va.toNat % QSize.bytes sz ≠ 0 →
      (∃ t, exec (.lqS sc sz rd rs1 off) s = .next t ∧ s.TakesTrap t 0x0C va 0 s.cur.pc) ∧
      (∃ t, exec (.lqAq sc sz rd rs1 off) s = .next t ∧ s.TakesTrap t 0x0C va 0 s.cur.pc) ∧
      (∃ t, exec (.sqS sc sz rs2 rs1 off) s = .next t ∧ s.TakesTrap t 0x0C va 0 s.cur.pc) ∧
      (∃ t, exec (.sqRl sc sz rs2 rs1 off) s = .next t ∧ s.TakesTrap t 0x0C va 0 s.cur.pc)) ∧
    (∀ dbl aq rl op, (s.rx rs1).toNat % (if dbl then 8 else 4) ≠ 0 →
      (∃ t, exec (.lr dbl aq rl rd rs1) s = .next t ∧ s.TakesTrap t 0x0C (s.rx rs1) 0 s.cur.pc) ∧
      (∃ t, exec (.sc dbl aq rl rd rs1 rs2) s = .next t ∧ s.TakesTrap t 0x0C (s.rx rs1) 0 s.cur.pc) ∧
      (∃ t, exec (.rvAmo op dbl aq rl rd rs1 rs2) s = .next t ∧ s.TakesTrap t 0x0C (s.rx rs1) 0 s.cur.pc) ∧
      (∃ t, exec (.amoqAdd sc dbl rd rs1 rs2) s = .next t ∧ s.TakesTrap t 0x0C (s.rx rs1) 0 s.cur.pc) ∧
      (∃ t, exec (.amoqCas sc dbl rd rs1 rs2) s = .next t ∧ s.TakesTrap t 0x0C (s.rx rs1) 0 s.cur.pc)) ∧
    (∀ k imm f, s.xlateRange s.whoCur .load (s.rx rs1 + imm.signExtend 64) (LoadKind.shape k).1 = .error f →
      f.cause ≠ 0x1F → ∃ t, exec (.rvLoad k rd rs1 imm) s = .next t ∧ s.TakesTrap t f.cause f.addr f.info s.cur.pc) ∧
    (∀ k imm f, s.xlateRange s.whoCur .store (s.rx rs1 + imm.signExtend 64) (StoreKind.bytes k) = .error f →
      f.cause ≠ 0x1F → ∃ t, exec (.rvStore k rs2 rs1 imm) s = .next t ∧ s.TakesTrap t f.cause f.addr f.info s.cur.pc) ∧
    (∀ dbl f, (s.rx rs1).toNat % (if dbl then 8 else 4) = 0 →
      s.xlateRange s.whoCur .rmw (s.rx rs1) (if dbl then 8 else 4) = .error f → f.cause ≠ 0x1F →
      ∃ t, exec (.amoqSwap sc dbl rd rs1 rs2) s = .next t ∧ s.TakesTrap t f.cause f.addr f.info s.cur.pc)

/-- R216, R360, R361, R373: the place or the fault of one byte: an address that is not canonical, the local window, no entry, two
entries, an entry that refuses the access, a fetch from a frame that cannot be fetched from.
The model's own choices that it rests on: log entry 30. -/
def Obligations.TranslationOfOneByte : Prop :=
  ∀ (s : State) (w : Who) (va : Word),
    ((va.toInt < -2 ^ 56 ∨ 2 ^ 56 ≤ va.toInt) → ∀ acc, ∃ f, s.xlate w acc va = .error f ∧ f.addr = va ∧
      f.cause = (match acc with | .load => 0x0A | .lr => 0x0A | .ldfe => 0x0A | .store => 0x0B | .rmw => 0x0B | .fetch => 0x07)) ∧
    (va.toNat < 65536 → (∀ acc, acc ≠ .fetch → ∃ l, s.xlate w acc va = .ok l ∧ l.kind = .own ∧ l.key = lmemKey w.core va.toNat) ∧
      ∃ f, s.xlate w .fetch va = .error f ∧ f.cause = 0x07 ∧ f.addr = va) ∧
    (65536 ≤ va.toNat → -2 ^ 56 ≤ va.toInt → va.toInt < 2 ^ 56 →
      (s.tlbMatch w va = [] → ∀ acc, ∃ f, s.xlate w acc va = .error f ∧ f.addr = va ∧ f.info.getLsbD 0 = false ∧
        f.cause = (match acc with | .load => 0x08 | .lr => 0x08 | .ldfe => 0x08 | .store => 0x09 | .rmw => 0x09 | .fetch => 0x06)) ∧
      (∀ e d r, s.tlbMatch w va = e :: d :: r → ∀ acc, ∃ f, s.xlate w acc va = .error f ∧ f.addr = va ∧ f.cause = 0x21) ∧
      (∀ e, s.tlbMatch w va = [e] → e.u = false → w.super = false → ∀ acc, ∃ f, s.xlate w acc va = .error f ∧ f.addr = va ∧
        f.info.getLsbD 0 = true ∧
        f.cause = (match acc with | .load => 0x08 | .lr => 0x08 | .ldfe => 0x08 | .store => 0x09 | .rmw => 0x09 | .fetch => 0x06)) ∧
      (∀ e, s.tlbMatch w va = [e] → e.r = false → ∃ f, s.xlate w .load va = .error f ∧ f.addr = va ∧ f.cause = 0x08) ∧
      (∀ e, s.tlbMatch w va = [e] → e.w = false → e.t = false → ∃ f, s.xlate w .store va = .error f ∧ f.addr = va ∧ f.cause = 0x09) ∧
      (∀ e, s.tlbMatch w va = [e] → e.x = false → s.unfetchable e va = false →
        ∃ f, s.xlate w .fetch va = .error f ∧ f.addr = va ∧ f.cause = 0x06) ∧
      (∀ e, s.tlbMatch w va = [e] → (w.super = true ∨ e.u = true) → s.unfetchable e va = true →
        ∃ f, s.xlate w .fetch va = .error f ∧ f.addr = va ∧ f.cause = 0x07) ∧
      (∀ e, s.tlbMatch w va = [e] → e.grants w.super .store = true → e.t = true →
        ∃ f, s.xlate w .store va = .error f ∧ f.addr = va ∧ f.cause = 0x1F))

/-! Fences and waits (R108, R109, R111, R120, R238). -/

/-- R108, R109, R120, R238: a fence completes once the earlier stores it orders are acknowledged, and waits for them before.
The model's own choices that it rests on: log entry 74. -/
def Obligations.FencesWaitForStores : Prop :=
  ∀ (s : State),
    (s.settled →
      (∀ fm pred succ rs1 rd, ∃ t, exec (.fence fm pred succ rs1 rd) s = .next t ∧ s.Gives t 0 0) ∧
      (∀ rs1 rd, ∃ t, exec (.fenceTso rs1 rd) s = .next t ∧ s.Gives t 0 0) ∧
      (∀ imm rs1 rd, ∃ t, exec (.fenceI imm rs1 rd) s = .next t ∧ s.Gives t 0 0 ∧ t.here.l1i = []) ∧
      (∀ sc, ∃ t, exec (.fenceq sc) s = .next t ∧ s.Gives t 0 0 ∧
        (sc ≠ .core → ∀ e ∈ t.here.l1d, e.views.getLsbD s.curCtx = false))) ∧
    (s.cur.unacked ≠ 0 → s.cur.xportErr = none →
      (∀ fm pred succ rs1 rd, pred.getLsbD 0 = true → succ ≠ 0 →
        ∃ t, exec (.fence fm pred succ rs1 rd) s = .next t ∧ s.Waits t .acks) ∧
      (∀ rs1 rd, ∃ t, exec (.fenceTso rs1 rd) s = .next t ∧ s.Waits t .acks) ∧
      (∀ imm rs1 rd, ∃ t, exec (.fenceI imm rs1 rd) s = .next t ∧ s.Waits t .acks) ∧
      (∀ sc, sc ≠ .core → ∃ t, exec (.fenceq sc) s = .next t ∧ s.Waits t .acks) ∧
      (∃ t, exec (.fenceq .core) s = .next t ∧ s.Gives t 0 0))

/-- R108, R111, R273, R274, R341: PAUSE, YIELD, SLEEP, WFI and WFE.
R108, R274, R341, R248: the waits that time ends: PAUSE's window closes, SLEEP completes, WFE completes with 1 and loses its
registration; before that time nothing changes.
The model's own choices that it rests on: log entries 18, 32, 75. -/
def Obligations.TimedWaits : Prop :=
  (∀ (s : State),
    (∃ t, exec .pause s = .next t ∧ t.cur = { s.cur with pc := s.cur.pc + 4, wait := .pause (s.cycleOf s.curCore + 16) } ∧
      s.onlyCur t) ∧
    (∃ t, exec .yield s = .next t ∧ s.Gives t 0 0 ∧ t.here.yielded = some s.curCtx) ∧
    (s.cur.st ≠ .firing →
      (∀ rs1, (s.rx rs1).toNat ≠ 0 → ∃ t, exec (.sleep rs1) s = .next t ∧
        s.Waits t (.sleep (s.timeOf s.curCore) (BitVec.ofNat 64 (min (s.rx rs1).toNat 0xFFFFFFFF * 2 ^ 16)))) ∧
      (∀ rs1, s.rx rs1 = 0 → ∃ t, exec (.sleep rs1) s = .next t ∧ s.Gives t 0 0 ∧ t.here.yielded = some s.curCtx) ∧
      (s.cur.wake = true → ∃ t, exec .wfi s = .next t ∧ t.cur = { s.cur with pc := s.cur.pc + 4, wake := false } ∧ s.onlyCur t) ∧
      (s.cur.wake = false → ∃ t, exec .wfi s = .next t ∧ s.Waits t .wfi) ∧
      (∀ rd,
        (s.cur.armed = false → ∃ t, exec (.wfe rd) s = .next t ∧ s.Puts t rd 2) ∧
        (s.cur.armed = true → s.cur.event = true → ∃ t, exec (.wfe rd) s = .next t ∧ (∀ r, t.rx r = if r = rd then 0 else s.rx r) ∧
          t.cur = { s.cur with x := t.cur.x, pc := s.cur.pc + 4, event := false, armed := false, early := t.cur.early } ∧ s.onlyCur t) ∧
        (s.cur.armed = true → s.cur.event = false → ∃ t, exec (.wfe rd) s = .next t ∧
          s.Waits t (.wfe rd (s.timeOf s.curCore) (s.here.wfetimeout <<< 16))))) ∧
    (s.cur.st = .firing → (∃ t, exec .wfi s = .next t ∧ s.TakesTrap t 0x12 0 0 s.cur.pc) ∧
      (∀ rs1, ∃ t, exec (.sleep rs1) s = .next t ∧ s.TakesTrap t 0x12 0 0 s.cur.pc) ∧
      ∀ rd, ∃ t, exec (.wfe rd) s = .next t ∧ s.TakesTrap t 0x12 0 0 s.cur.pc)) ∧
  (∀ (s : State) (k n : Nat),
    (∀ u, (s.ctx k n).wait = .pause u → ∃ t, exec (.pauseWindowExpiry k n) s = .next t ∧
      t = (if u ≤ s.cycleOf k then s.setCtx k n { s.ctx k n with wait := .none } else s)) ∧
    (∀ t0 d, (s.ctx k n).wait = .sleep t0 d → ∃ t, exec (.sleepExpiry k n) s = .next t ∧
      t = (if d ≤ s.timeOf k - t0 then s.setCtx k n { s.ctx k n with pc := (s.ctx k n).pc + 4, wait := .none } else s)) ∧
    (∀ rd t0 d, (s.ctx k n).wait = .wfe rd t0 d → (s.ctx k n).event = false →
      (d ≠ 0 → d ≤ s.timeOf k - t0 → ∃ t, exec (.wfeTimeout k n) s = .next t ∧ s.Wakes t k n rd 1 ∧
        (t.ctx k n).armed = false ∧ (∀ c e, (e, c) ∈ t.clusters → ∀ m ∈ c.monitors, ¬(m.2.1 = k ∧ m.2.2 = n)) ∧ s.keepsMem t) ∧
      ((d = 0 ∨ s.timeOf k - t0 < d) → exec (.wfeTimeout k n) s = .next s)))

/-! Full-empty words, monitors and the synchronisation unit (R333-R347). -/

/-- R333-R335, R337: full-empty accesses of the own local memory: what each does to the word and its bit, when it waits, and how a
waiting one goes on.
R335, R336, R337: a full-empty request of another core that reaches its owner, sent or sent again, is performed when the word's
state admits it; otherwise it parks, or with the owner's table of 16 full it is NACKed. -/
def Obligations.FullEmptyWords : Prop :=
  (∀ (s : State) (sc : Scope) (rd rs1 rs2 : Reg), let va := s.rx rs1
    let w := lmemKey s.curCore va.toNat
    let held : Word := BitVec.ofNat 64 (leNat (Memory.bytes s.mem w 8))
    let new : Word := s.rx rs2
    va.toNat < 65536 → va.toNat % 8 = 0 → s.here.watch = [] → s.fes = [] → s.cur.st ≠ .firing → s.cur.wait = .none → s.settled →
    (∀ i, i < 8 → w + i ∉ s.badParity) →
    (w ∈ s.full →
      (∃ t, exec (.ldfe sc rd rs1) s = .next t ∧ s.Gives t rd held ∧ w ∉ t.full ∧ (∀ a, a ≠ w → (a ∈ t.full ↔ a ∈ s.full))) ∧
      (∃ t, exec (.ldff sc rd rs1) s = .next t ∧ s.Gives t rd held ∧ (∀ a, a ∈ t.full ↔ a ∈ s.full)) ∧
      (∃ t, exec (.stfe sc rs2 rs1) s = .next t ∧ t.cur = { s.cur with wait := .fe s.clock, out := t.cur.out } ∧ s.keepsMem t ∧
        t.full = s.full ∧
        ∃ r ∈ t.fes, r.id = s.clock ∧ r.word = w ∧ r.data = new ∧ r.st = 1)) ∧
    (w ∉ s.full →
      (∃ t, exec (.ldfe sc rd rs1) s = .next t ∧ t.cur = { s.cur with wait := .fe s.clock } ∧ s.keepsMem t ∧
        ∃ r ∈ t.fes, r.id = s.clock ∧ r.word = w ∧ r.rd = rd ∧ r.st = 1) ∧
      (∃ t, exec (.ldff sc rd rs1) s = .next t ∧ t.cur = { s.cur with wait := .fe s.clock } ∧ s.keepsMem t) ∧
      (∃ t, exec (.stfe sc rs2 rs1) s = .next t ∧ (∀ r, t.rx r = s.rx r) ∧ t.cur.pc = s.cur.pc + 4 ∧
        Memory.bytes t.mem w 8 = leBytes 8 new.toNat ∧ s.keepsBut t (natsFrom w 8) ∧ w ∈ t.full)) ∧
    (∃ t, exec (.stff sc rs2 rs1) s = .next t ∧ (∀ r, t.rx r = s.rx r) ∧ t.cur.pc = s.cur.pc + 4 ∧
      Memory.bytes t.mem w 8 = leBytes 8 new.toNat ∧ s.keepsBut t (natsFrom w 8) ∧ w ∈ t.full) ∧
    (∃ t, exec (.feinit sc rs2 rs1) s = .next t ∧ (∀ r, t.rx r = s.rx r) ∧ t.cur.pc = s.cur.pc + 4 ∧
      Memory.bytes t.mem w 8 = leBytes 8 new.toNat ∧ s.keepsBut t (natsFrom w 8) ∧ w ∉ t.full)) ∧
  (∀ (s : State) (r : FeReq), s.fes = [r] → r.remote = true → s.coreGone (ownerOf r.word) = false → r.word % 8 = 0 →
    (s.ctx r.core r.ctx).wait = .fe r.id → (∀ i, i < 8 → r.word + i ∉ s.badParity) → r.scope = .core →
    (∀ i, i = Instr.fullEmptyRequest r.id ∧ r.st = 0 ∨ i = Instr.feResend r.id ∧ r.st = 2 ∧
        bits (s.core r.core).feretry 23 8 ≤ (s.cycleOf r.core - r.since).toNat →
      (r.op = 0 → r.word ∈ s.full → ∃ t, exec i s = .next t ∧ t.fes = [] ∧ r.word ∉ t.full ∧ s.keepsMem t ∧
        s.Wakes t r.core r.ctx r.rd (BitVec.ofNat 64 (leNat (Memory.bytes s.mem r.word 8)))) ∧
      (r.op = 2 → r.word ∉ s.full → ∃ t, exec i s = .next t ∧ t.fes = [] ∧ r.word ∈ t.full ∧
        Memory.bytes t.mem r.word 8 = leBytes 8 r.data.toNat ∧ s.keepsBut t (natsFrom r.word 8) ∧
        (t.ctx r.core r.ctx).pc = (s.ctx r.core r.ctx).pc + 4 ∧ (t.ctx r.core r.ctx).wait = .none) ∧
      ((r.op = 0 ∨ r.op = 1) → r.word ∉ s.full → ∃ t, exec i s = .next t ∧ t.fes = [{ r with st := 1 }] ∧ s.keepsMem t ∧
        t.ctx r.core r.ctx = s.ctx r.core r.ctx))) ∧
  (∀ (s : State) (ps : List FeReq) (r : FeReq), s.fes = ps ++ [r] → ps.length = 16 →
    (∀ p ∈ ps, p.id ≠ r.id ∧ p.st = 1 ∧ p.remote = true ∧ ownerOf p.word = ownerOf r.word) →
    r.remote = true → s.coreGone (ownerOf r.word) = false → r.st = 0 → (r.op = 0 ∨ r.op = 1) → r.word ∉ s.full →
    r.nacks + 1 < bits (s.core r.core).feretry 7 0 →
    exec (.fullEmptyRequest r.id) s =
      .next { s with fes := ps ++ [{ r with st := 2, nacks := r.nacks + 1, since := s.cycleOf r.core }] })

/-- R339, R340: MONARM arms the context on the line of its address at the line's home; a write of that line by another context sets
its event flag and ends the registration. An address in the local window or in a stripe entry traps MONITOR_INVALID.
The model's own choices that it rests on: log entry 51. -/
def Obligations.MonitorArmsAndFires : Prop :=
  ∀ (s : State) (rs1 : Reg) (l : Loc),
    (65536 ≤ (s.rx rs1).toNat → s.xlate s.whoCur .load (s.rx rs1) = .ok l → (l.kind = .dram ∨ l.kind = .carved) →
      (∀ e ∈ s.tlbMatch s.whoCur (s.rx rs1), e.size ≠ 3) → (s.cluster l.clu).monitors.length < 64 →
      ∃ t, exec (.monarm rs1) s = .next t ∧ s.keepsMem t ∧ s.keepsOthers t ∧
        t.cur = { s.cur with
          pc := s.cur.pc + 4, armed := true, event := false, monLine := s.rx rs1 &&& ~~~127, monPa := l.key / 128, monDue := false } ∧
        (l.key / 128, s.curCore, s.curCtx) ∈ (t.cluster l.clu).monitors) ∧
    ((s.rx rs1).toNat < 65536 → ∃ t, exec (.monarm rs1) s = .next t ∧ s.TakesTrap t 0x15 (s.rx rs1) 0 s.cur.pc) ∧
    (∀ e, -2 ^ 56 ≤ (s.rx rs1).toInt → (s.rx rs1).toInt < 2 ^ 56 → s.tlbMatch s.whoCur (s.rx rs1) = [e] → e.size = 3 →
      e.grants s.cur.super .load = true → ∃ t, exec (.monarm rs1) s = .next t ∧ s.TakesTrap t 0x15 (s.rx rs1) 0 s.cur.pc) ∧
    (∀ k n v imm rs2, (l.key / 128, k, n) ∈ (s.cluster l.clu).monitors → ¬(k = s.curCore ∧ n = s.curCtx) →
      (s.ctx k n).wait = .none → s.cur.wait = .none → v = s.rx rs1 + imm.signExtend 64 → s.Reaches .store v 1 [l] →
      s.atOnce s.curCore l = true →
      ∃ t, exec (.rvStore .sb rs2 rs1 imm) s = .next t ∧ (t.ctx k n).event = true ∧
        (l.key / 128, k, n) ∉ (t.cluster l.clu).monitors)

/-- R344, R347: semaphores: a wait or try takes one from a count that is not zero, a wait on zero blocks in arrival order, a signal
adds to the count and lets the oldest waiter proceed, and one past 65,535 traps.
R345, R347: mutexes: a FREE one is taken, a held one blocks or gives 0, its own holder traps; the holder's release passes it to
the oldest waiter or frees it, and a release by another traps.
The model's own choices that it rests on: log entries 18, 49. -/
def Obligations.SemaphoresAndMutexes : Prop :=
  (∀ (s : State) (rd rs1 rs2 : Reg),
    let c := cluKey s.curCore
    let i := (s.rx rs1).toNat % 16
    let m := (s.cluster c).sem i
    let n : Nat := (s.rx rs2).toNat
    (s.cur.st ≠ .firing →
      (m.count ≠ 0 → ∃ t, exec (.semwait rs1) s = .next t ∧ s.Gives t 0 0 ∧ (t.cluster c).sem i = { m with count := m.count - 1 }) ∧
      (m.count = 0 → ∃ t, exec (.semwait rs1) s = .next t ∧ t.cur = { s.cur with wait := .sem i } ∧ s.keepsMem t ∧
        (t.cluster c).sem i = { m with waiters := m.waiters ++ [(s.curCore, s.curCtx)] })) ∧
    (s.cur.st = .firing → ∃ t, exec (.semwait rs1) s = .next t ∧ s.TakesTrap t 0x12 0 0 s.cur.pc) ∧
    (m.count ≠ 0 → ∃ t, exec (.semtry rd rs1) s = .next t ∧ s.Gives t rd 1 ∧ (t.cluster c).sem i = { m with count := m.count - 1 }) ∧
    (m.count = 0 → ∃ t, exec (.semtry rd rs1) s = .next t ∧ s.Puts t rd 0) ∧
    (s.settled →
      (65535 < m.count + n → ∃ t, exec (.semsig rs1 rs2) s = .next t ∧ s.TakesTrap t 0x16 0 0 s.cur.pc) ∧
      (m.count + n ≤ 65535 → m.waiters = [] → ∃ t, exec (.semsig rs1 rs2) s = .next t ∧ s.Gives t 0 0 ∧
        (t.cluster c).sem i = { m with count := m.count + n }) ∧
      (∀ k x, m.count = 0 → n = 1 → m.waiters = [(k, x)] → ¬(k = s.curCore ∧ x = s.curCtx) →
        ∃ t, exec (.semsig rs1 rs2) s = .next t ∧ s.Wakes t k x 0 0 ∧ (t.cluster c).sem i = { count := 0, waiters := [] } ∧
          t.cur.pc = s.cur.pc + 4 ∧ s.keepsMem t))) ∧
  (∀ (s : State) (rd rs1 : Reg),
    let c := cluKey s.curCore
    let i := (s.rx rs1).toNat % 16
    let m := (s.cluster c).mutex i
    let me : Nat × Nat := Prod.mk s.curCore s.curCtx
    (s.cur.st ≠ .firing →
      (m.holder = none → ∃ t, exec (.mtxacq rs1) s = .next t ∧ s.Gives t 0 0 ∧
        (t.cluster c).mutex i = { m with holder := some me, broken := false }) ∧
      (m.holder = some me → ∃ t, exec (.mtxacq rs1) s = .next t ∧ s.TakesTrap t 0x17 0 0 s.cur.pc) ∧
      (∀ h, m.holder = some h → h ≠ me → ∃ t, exec (.mtxacq rs1) s = .next t ∧ t.cur = { s.cur with wait := .mutex i } ∧
        (t.cluster c).mutex i = { m with waiters := m.waiters ++ [me] })) ∧
    (m.holder = none → ∃ t, exec (.mtxtry rd rs1) s = .next t ∧ s.Gives t rd (if m.broken then 2 else 1) ∧
      (t.cluster c).mutex i = { m with holder := some me, broken := false }) ∧
    (m.holder ≠ none → ∃ t, exec (.mtxtry rd rs1) s = .next t ∧ s.Puts t rd 0) ∧
    (s.settled →
      (m.holder = some me → m.waiters = [] → ∃ t, exec (.mtxrel rs1) s = .next t ∧ s.Gives t 0 0 ∧
        ((t.cluster c).mutex i).holder = none) ∧
      (∀ k x r, m.holder = some me → m.waiters = (k, x) :: r → (k, x) ≠ me → ∃ t, exec (.mtxrel rs1) s = .next t ∧
        s.Wakes t k x 0 0 ∧ (t.cluster c).mutex i = { m with holder := some (k, x), waiters := r } ∧
        t.cur.pc = s.cur.pc + 4 ∧ s.keepsMem t) ∧
      (m.holder ≠ some me → ∃ t, exec (.mtxrel rs1) s = .next t ∧ s.TakesTrap t 0x17 0 0 s.cur.pc)))

/-- R346, R347: barriers: BARINIT sets count and phase, BARARR returns the phase and the last arrival turns it and releases the
waiters, BARWAIT passes once the phase has turned and waits before.
The model's own choices that it rests on: log entry 18. -/
def Obligations.Barriers : Prop :=
  ∀ (s : State) (rd rs1 rs2 : Reg),
    let c := cluKey s.curCore
    let i := (s.rx rs1).toNat % 8
    let b := (s.cluster c).bar i
    (∀ n, n = (s.rx rs2).toNat →
      (b.arrived = 0 → 1 ≤ n → n ≤ 17 → b.waiters = [] → ∃ t, exec (.barinit rs1 rs2) s = .next t ∧ s.Gives t 0 0 ∧
        (t.cluster c).bar i = { b with count := n, phase := false }) ∧
      ((b.arrived ≠ 0 ∨ n < 1 ∨ 17 < n) → ∃ t, exec (.barinit rs1 rs2) s = .next t ∧ s.TakesTrap t 0x17 0 0 s.cur.pc)) ∧
    (s.settled → b.count = 0 → ∃ t, exec (.bararr rd rs1) s = .next t ∧ s.TakesTrap t 0x17 0 0 s.cur.pc) ∧
    (s.settled → b.count ≠ 0 → b.arrived + 1 ≠ b.count → ∃ t, exec (.bararr rd rs1) s = .next t ∧
      s.Gives t rd (if b.phase then 1 else 0) ∧ (t.cluster c).bar i = { b with arrived := b.arrived + 1 }) ∧
    (s.settled → b.count ≠ 0 → b.arrived + 1 = b.count →
      (b.waiters = [] → ∃ t, exec (.bararr rd rs1) s = .next t ∧ s.Gives t rd (if b.phase then 1 else 0) ∧
        (t.cluster c).bar i = { b with arrived := 0, phase := !b.phase }) ∧
      (∀ k n, b.waiters = [(k, n)] → ¬(k = s.curCore ∧ n = s.curCtx) → ∃ t, exec (.bararr rd rs1) s = .next t ∧ s.Wakes t k n 0 0 ∧
        t.cur.pc = s.cur.pc + 4 ∧ (t.cluster c).bar i = { b with arrived := 0, phase := !b.phase, waiters := [] })) ∧
    (s.cur.st ≠ .firing → b.count ≠ 0 →
      (b.phase ≠ (s.rx rs2).getLsbD 0 → ∃ t, exec (.barwait rs1 rs2) s = .next t ∧ s.Gives t 0 0) ∧
      (b.phase = (s.rx rs2).getLsbD 0 → ∃ t, exec (.barwait rs1 rs2) s = .next t ∧ t.cur = { s.cur with wait := .barrier i } ∧
        (t.cluster c).bar i = { b with waiters := b.waiters ++ [(s.curCore, s.curCtx)] }))

/-! Channels, handlers and messages (R276-R292). -/

/-- R277-R279: the channel instructions: QPOP and QTRY take the oldest word, QTRY skipping an instruction; an empty channel blocks
the one and falls through for the other; QPUSH appends where there is room and blocks where there is none; QCNT counts. A user
context may not reach the supervisor's channels.
The model's own choices that it rests on: log entry 18. -/
def Obligations.Channels : Prop :=
  ∀ (s : State) (rd rs1 : Reg) (n : BitVec 5), s.cur.wait = .none → s.curCtx < 8 →
    let k := s.curCore
    let q := s.chan k n.toNat
    ((s.cur.super = true ∨ n.toNat ≤ 26) →
      (∀ w ws, q.words = w :: ws →
        (s.cur.st ≠ .firing → ∃ t, exec (.qpop rd n) s = .next t ∧ s.Completes t rd w ∧ (t.chan k n.toNat).words = ws) ∧
        (∃ t, exec (.qtry rd n) s = .next t ∧ (∀ r, t.rx r = if r = 0 then 0 else if r = rd then w else s.rx r) ∧
          t.cur.pc = s.cur.pc + 8 ∧ (t.chan k n.toNat).words = ws ∧ s.keepsMem t)) ∧
      (q.words = [] →
        (s.cur.st ≠ .firing → ∃ t, exec (.qpop rd n) s = .next t ∧ t.cur = { s.cur with wait := .pop n.toNat rd } ∧
          (t.chan k n.toNat).poppers = q.poppers ++ [s.curCtx] ∧ s.keepsMem t) ∧
        (∃ t, exec (.qtry rd n) s = .next t ∧ s.Passes t)) ∧
      (s.cur.st = .firing → ∃ t, exec (.qpop rd n) s = .next t ∧ s.TakesTrap t 0x12 0 0 s.cur.pc) ∧
      (∃ t, exec (.qcnt rd n) s = .next t ∧
        s.Puts t rd (BitVec.ofNat 64 (q.words.length + 16 * (4 - q.words.length - q.prodResv - q.grantResv))))) ∧
    ((s.cur.super = true ∨ n.toNat ≤ 23) →
      (q.free ≠ 0 → q.poppers = [] → ∃ t, exec (.qpush n rs1) s = .next t ∧ s.Completes t 0 0 ∧
        (t.chan k n.toNat).words = q.words ++ [s.rx rs1] ∧ t.cur.wake = true) ∧
      (q.free = 0 → s.reservedHere n.toNat = false → s.cur.st ≠ .firing → ∃ t, exec (.qpush n rs1) s = .next t ∧
        s.Waits t (.push n.toNat)) ∧
      (q.free = 0 → s.reservedHere n.toNat = false → s.cur.st = .firing → ∃ t, exec (.qpush n rs1) s = .next t ∧
        s.TakesTrap t 0x12 0 0 s.cur.pc)) ∧
    (s.cur.super = false → 26 < n.toNat → ∀ i, i = .qpop rd n ∨ i = .qtry rd n ∨ i = .qcnt rd n →
      ∃ t, exec i s = .next t ∧ s.TakesTrap t 0x0D 0 0 s.cur.pc) ∧
    (s.cur.super = false → 23 < n.toNat → ∃ t, exec (.qpush n rs1) s = .next t ∧ s.TakesTrap t 0x0D 0 0 s.cur.pc)

/-- R281-R283, R285: HBIND binds the 32 bytes it reads or unbinds, HMASK and HUNMASK set and clear the mask, HEXIT ends the firing
and releases what it has reserved.
R284, R285: a firing takes the words its entry consumes into t0-t3, starts context 7, or 6, at the entry's target with its
level, and reserves what the entry produces.
The model's own choices that it rests on: log entry 69. -/
def Obligations.Handlers : Prop :=
  (∀ (s : State) (n : BitVec 5) (rs1 : Reg), s.cur.wait = .none →
    (s.cur.super = true →
      (s.rx rs1 = 0 → ∃ t, exec (.hbind n rs1) s = .next t ∧ s.Completes t 0 0 ∧ tfind n.toNat t.here.handlers = none) ∧
      (∀ bs w0 w1 w2 w3, s.rx rs1 ≠ 0 → (s.rx rs1).toNat % 32 = 0 → s.here.watch = [] →
        s.places s.whoCur .load (s.rx rs1) 32 = .ok bs → s.waysOpen s.curCore bs = true →
        bs.map (s.seenByte s.curCore s.curCtx) = leBytes 8 w0 ++ leBytes 8 w1 ++ leBytes 8 w2 ++ leBytes 8 w3 →
        (w0 < 2 ^ 64 ∧ w1 < 2 ^ 64 ∧ w2 < 2 ^ 64 ∧ w3 < 2 ^ 64) →
        let W (x : Nat) : Word := BitVec.ofNat 64 x
        (handlerOk n.toNat (W w0) (W w1) (W w2) (W w3) = true → ∃ t, exec (.hbind n rs1) s = .next t ∧ s.Completes t 0 0 ∧
          tfind n.toNat t.here.handlers = some { target := W w0, flags := W w2, masked := false }) ∧
        (handlerOk n.toNat (W w0) (W w1) (W w2) (W w3) = false → ∃ t, exec (.hbind n rs1) s = .next t ∧
          s.TakesTrap t 0x10 (s.rx rs1) 0 s.cur.pc))) ∧
    (s.cur.super = false → ∃ t, exec (.hbind n rs1) s = .next t ∧ s.TakesTrap t 0x0D 0 0 s.cur.pc) ∧
    (∀ h, tfind n.toNat s.here.handlers = some h → (Handler.super h = false ∨ s.cur.super = true) →
      (∃ t, exec (.hmask n) s = .next t ∧ s.Completes t 0 0 ∧ tfind n.toNat t.here.handlers = some { h with masked := true }) ∧
      (∃ t, exec (.hunmask n) s = .next t ∧ s.Completes t 0 0 ∧ tfind n.toNat t.here.handlers = some { h with masked := false })) ∧
    (tfind n.toNat s.here.handlers = none →
      (∃ t, exec (.hmask n) s = .next t ∧ s.TakesTrap t 0x10 0 0 s.cur.pc) ∧
      (∃ t, exec (.hunmask n) s = .next t ∧ s.TakesTrap t 0x10 0 0 s.cur.pc)) ∧
    (s.cur.st = .firing → s.cur.copyErr = none → ∃ t, exec .hexit s = .next t ∧ s.keepsMem t ∧ (∀ r, t.rx r = s.rx r) ∧
      t.cur.st = .dormant ∧ t.cur.resv = 0 ∧
      (t.chan s.curCore s.cur.resvChan).prodResv = (s.chan s.curCore s.cur.resvChan).prodResv - s.cur.resv) ∧
    (s.cur.st ≠ .firing → ∃ t, exec .hexit s = .next t ∧ s.TakesTrap t 0x10 0 0 s.cur.pc)) ∧
  (∀ (s : State) (k n : Nat) (e : Handler) (w : Word) (ws : List Word),
    (s.core k).stopped = false → s.coreGone k = false → (s.core k).nextFire = some n → tfind n (s.core k).handlers = some e →
    Handler.indirect e = false → (s.chan k n).words.take e.consume = w :: ws →
    ∃ t h, exec (.handlerFire k n) s = .next t ∧ (h = 7 ∨ h = 6 ∧ (s.ctx k 7).st ≠ .dormant) ∧ (s.ctx k h).st = .dormant ∧
      (t.ctx k h).st = .firing ∧ (t.ctx k h).pc = e.target ∧ (t.ctx k h).super = Handler.super e ∧ (t.ctx k h).chan = n ∧
      (t.ctx k h).rx 5 = w ∧ (∀ r : Reg, r ≠ 5 → r ≠ 6 → r ≠ 7 → r ≠ 28 → (t.ctx k h).rx r = (s.ctx k h).rx r) ∧
      (∀ m, m ≠ h → (t.ctx k m).x = (s.ctx k m).x ∧ (t.ctx k m).pc = (s.ctx k m).pc) ∧
      (t.chan k n).words = (s.chan k n).words.drop e.consume ∧
      (Handler.pen e = true → (t.chan k (Handler.pchan e)).prodResv = (s.chan k (Handler.pchan e)).prodResv + e.pcount) ∧
      s.keepsMem t)

/-- R287, R121, R292: MSGW stages a word; MSGS, MSGSI and SENDIPI put a message in the replay window, and in credit mode a strand
waits for its grant; with words not staged, or no room, the send forms say so in rd.
The model's own choices that it rests on: log entry 28. -/
def Obligations.MessageSends : Prop :=
  ∀ (s : State) (rd rs1 rs2 : Reg), s.cur.wait = .none →
    let d := s.rx rs1
    let stalls : Bool := s.here.credit && !isMgmt s.curCore && decide (s.cur.st = .strand)
    let sent (t : State) (dst n : Nat) (ws : List Word) : Prop :=
      (∃ m ∈ t.here.window, m.uid = s.here.nextUid ∧ m.dst = dst ∧ m.chan = n ∧ m.words = ws ∧ m.ctx = s.curCtx ∧ m.frm = .ctx) ∧
      t.cur.wait = (if stalls then .grant s.here.nextUid else .none) ∧ t.cur.pc = s.cur.pc + 4 ∧ s.keepsMem t
    (∀ n : BitVec 2, ∃ t, exec (.msgw n rs1) s = .next t ∧ s.onlyCur t ∧
      t.cur = { s.cur with pc := s.cur.pc + 4, staged := tset n.toNat d s.cur.staged, stmask := s.cur.stmask ||| (1#4 <<< n.toNat) }) ∧
    (∀ dst, s.destCore d = some dst → ∀ (n c : Nat) (i : Instr),
      ((∃ chan cm1, i = .msgsi rd rs1 chan cm1 ∧ n = chan.toNat ∧ c = cm1.toNat + 1) ∨
       (i = .msgs rd rs1 rs2 ∧ n = (s.rx rs2).toNat % 32 ∧ c = (s.rx rs2).toNat / 256 % 4 + 1)) →
      (s.cur.super = true ∨ (d.getLsbD 31 = false ∧ n < 25)) →
      (¬(∀ j, j < c → s.cur.stmask.getLsbD j = true) → ∃ t, exec i s = .next t ∧ s.Puts t rd 2) ∧
      ((∀ j, j < c → s.cur.stmask.getLsbD j = true) →
        (s.here.windowBusy = true → ∃ t, exec i s = .next t ∧ s.Puts t rd 1) ∧
        (s.here.windowBusy = false → ∃ t, exec i s = .next t ∧
          (∀ r, t.rx r = if r = 0 then 0 else if r = rd then 0 else s.rx r) ∧ t.cur.stmask = 0 ∧
          sent t dst n ((natsFrom 0 c).map (fun j => tget 0 j s.cur.staged))))) ∧
    (s.destCore d = none → (∀ chan cm1, ∃ t, exec (.msgsi rd rs1 chan cm1) s = .next t ∧ s.TakesTrap t 0x14 d 0 s.cur.pc) ∧
      (∃ t, exec (.msgs rd rs1 rs2) s = .next t ∧ s.TakesTrap t 0x14 d 0 s.cur.pc)) ∧
    (s.cur.super = true →
      (∀ dst, s.destCore d = some dst → s.here.windowBusy = false → ∃ t, exec (.sendipi rs1 rs2) s = .next t ∧
        (∀ r, t.rx r = s.rx r) ∧
        sent t dst 29 [BitVec.ofNat 64 (mhartid s.curCore % 2 ^ 32 * 2 ^ 32 + (s.rx rs2).toNat % 2 ^ 32)]) ∧
      (∀ dst, s.destCore d = some dst → s.here.windowBusy = true → ∃ t, exec (.sendipi rs1 rs2) s = .next t ∧ s.Waits t .window) ∧
      (s.destCore d = none → ∃ t, exec (.sendipi rs1 rs2) s = .next t ∧ s.TakesTrap t 0x14 d 0 s.cur.pc)) ∧
    (s.cur.super = false → ∃ t, exec (.sendipi rs1 rs2) s = .next t ∧ s.TakesTrap t 0x0D 0 0 s.cur.pc)

/-! The step, the words and memory as a whole (chapters 03, 08, 09). -/

/-- R245, R247, R278, R289, R294, R297, R336, R341, R358, R388, R391, R395, R410, R423, R426, R432, R434, R436: what reset leaves,
where the manual gives a value.
The model's own choices that it rests on: log entries 3, 4, 5. -/
def Obligations.ResetState : Prop :=
  (∀ k n, ((State.reset.ctx k n).st = if n < 6 then .free else .dormant) ∧ State.reset.csr k n 0x5C0 = some 0x40040 ∧
    State.reset.csr k n 0x5C1 = some 16 ∧ State.reset.csr k n 0x5C2 = some 0x8020 ∧ State.reset.csr k n 0x5C3 = some 1000000 ∧
    State.reset.csr k n 0xCC2 = some 0 ∧ State.reset.csr k n 0xCC3 = some 0 ∧ (State.reset.core k).credit = true ∧
    (State.reset.core k).tlb = [] ∧ (State.reset.core k).handlers = [] ∧ (State.reset.core k).mat.holder = none ∧
    ∀ c, (State.reset.chan k c).words = [] ∧ (State.reset.chan k c).free = 4) ∧
  (∀ d, (State.reset.die d).state = .dark ∧ (State.reset.die d).op = 5 ∧ (State.reset.die d).target = 1 ∧
    (State.reset.die d).idle = 3 ∧ (State.reset.chip d).e2eTmo = 64 ∧ (State.reset.chip d).e2eLimit = 7 ∧
    (State.reset.chip d).e2eBusy = 256 ∧ (State.reset.chip d).holdover = true ∧
    (∀ m, (State.reset.link d m).state = 0 ∧ (State.reset.link d m).evtEn = true ∧ (State.reset.link d m).windowUs = 100)) ∧
  (∀ q, (tget Wq.reset q State.reset.queues).st = .disabled) ∧ State.reset.kernels = [] ∧ State.reset.sweeps = [] ∧
  State.reset.trust.budget = 30000000 ∧ State.reset.mem = []

/-- R64-R80: words written out from the encoding tables decode to the instructions they stand for. -/
def Obligations.DecodeWords : Prop :=
  decodeWord 0x9024B52B = .ok (.lqAq .chp .d 10 9 2) ∧
  decodeWord 0xC2B6252B = .ok (.amoqAdd .chp true 10 12 11) ∧
  decodeWord 0x13E3C1DB = .ok (.vfma { msel := .m2, h2 := false, h1 := true, vs2 := 30, vs1 := 7, vd := 3 }) ∧
  decodeWord 0x208362DB = .ok (.vcvt 8 { msel := .none, h1 := false, vs1 := 6, vd := 5 }) ∧
  decodeWord 0x0000700B = .ok .poolGuard ∧
  decodeWord 0b000000000111_00000_000_00101_0010011 = .ok (.rvIntegerOp (.imm .addi 5 0 7)) ∧
  decodeWord 0b000000000010_00101_011_00000_0001011 = .ok (.msgw 2 5) ∧
  decodeWord 0b00100_10_00011_00010_000_00001_0001011 = .ok (.bfi 1 2 3 4) ∧
  decodeWord 0b11_11001_00000_00000_011_00000_0101011 = .ok (.fenceq .mod) ∧
  decodeWord 0b110_00_0_0_00011_00010_000_00001_1011011 = .ok (.mand 1 2 3) ∧
  decodeWord 0b000000000001_00111_011_00000_1111011 = .ok (.issue 7 1) ∧
  decodeWord 0b0010000_00111_00110_100_00101_1111011 = .ok (.launch 5 6 7) ∧
  decodeWord 0b0000000_11011_00000_101_00101_1111011 = .ok (.qpop 5 27) ∧
  decodeWord 0b000000001001_00000_110_00101_1111011 = .ok (.vsettImm 5 9) ∧
  (∀ w : IWord, w.extractLsb' 0 7 = 0b1010111#7 → ∃ r, decodeWord w = .error r) ∧
  decode 0 = .illegalInstruction 0

/-- R245-R249, R361, R253: one step. A turn of the tape lets a context issue: with no debug halt and no watchpoint due and its
four bytes read at the pc, the step is exec of the decoded instruction, or the transport error that was due before it; a context
that is not eligible does not issue. A unit's turn is exec of its act, and time passes in a turn of its own; a byte read early and a failure
of storage change no register, no pc and no byte of memory. With no turn left, the agenda and the cores take theirs (the tape and the
agenda are the model's schedule, log entry 1).
The model's own choices that it rests on: log entries 1, 36, 95. -/
def Obligations.StepRunsDecoded : Prop :=
  ∀ (s : State) (r : List Turn),
    (∀ k n mode, s.turns = .run k n mode :: r →
      let u := { s with turns := r, mode := mode }.ripen k n
      let v := { u with curCore := k, curCtx := n }
      (u.eligible k n = false → step s = .next u) ∧
      (∀ a b c d, u.eligible k n = true → v.cur.haltReq = false → v.watchHit k 0 v.cur.pc = false →
        v.places (v.who k n) .fetch v.cur.pc 4 = .ok [a, b, c, d] → v.wayOpen k a = true → v.mode.fill = false →
        let w := wordOfBytes (v.fetchByte k a) (v.fetchByte k b) (v.fetchByte k c) (v.fetchByte k d)
        let u' := (v.noteIssue k n).keepRead k n (decode w)
        u'.cur.dueNow = none → step s = exec (decode w) u') ∧
      (∀ a b c d e, u.eligible k n = true → v.cur.haltReq = false → v.watchHit k 0 v.cur.pc = false →
        v.places (v.who k n) .fetch v.cur.pc 4 = .ok [a, b, c, d] → v.wayOpen k a = true → v.mode.fill = false →
        let w := wordOfBytes (v.fetchByte k a) (v.fetchByte k b) (v.fetchByte k c) (v.fetchByte k d)
        let u' := (v.noteIssue k n).keepRead k n (decode w)
        ∀ t, u'.cur.dueNow = some e → (∀ x y, decode w ≠ .issue x y) → exec (decode w) u' = .next t →
          ¬(t.cur.st = .trapped ∧ (t.cur.ecause = 0x01 ∨ t.cur.ecause = 0x3F ∧ t.cur.einfo = 0x01)) →
          step s = .next ((u'.clearPend .store).takeTrapAs true k n e.cause e.eaddr e.einfo v.cur.pc)) ∧
      (∀ f, u.eligible k n = true → v.cur.haltReq = false → v.watchHit k 0 v.cur.pc = false →
        v.places (v.who k n) .fetch v.cur.pc 4 = .error f → v.cur.dueNow = none →
        step s = exec (.instructionFetchFault (fetchFail f) v.cur.pc) v)) ∧
    (∀ i, s.turns = .event i :: r → isEvent i = true → step s = exec i { s with turns := r }) ∧
    (∀ die cycles time, s.turns = .advance die cycles time :: r → (∀ e ∈ s.streams, e.2.unacked = []) →
      ∃ t, step s = .next t ∧ t.turns = r ∧ (t.chip die).time = (s.chip die).time + BitVec.ofNat 64 time ∧
        (t.chip die).cycle = (s.chip die).cycle + BitVec.ofNat 64 (if s.clockRuns die then cycles else 0) ∧
        t.cores = s.cores ∧ t.mem = s.mem ∧ t.trust = s.trust) ∧
    (∀ k n base va, s.turns = .peek k n base va :: r →
      ∃ t, step s = .next t ∧ t.turns = r ∧ s.keepsMem t ∧
        ∀ j m, t.ctx j m = { s.ctx j m with early := (t.ctx j m).early }) ∧
    (∀ u, s.turns = .upset u :: r → ∃ t, step s = .next t ∧ t.turns = r ∧ s.keepsMem t ∧
      ∀ j m, (t.ctx j m).x = (s.ctx j m).x ∧ (t.ctx j m).pc = (s.ctx j m).pc) ∧
    (s.turns = [] → ∀ i q, s.pending = i :: q → s.parity = true →
      step s = exec i { s with pending := q, parity := false, mode := { slow := false, fill := false, split := false } })

/-- R64-R80 (encode and decode agree): an encoded well-formed instruction decodes to itself, with every operand at every value the
encoding admits; the rows that share their word with another row of the command are decoded by that row. -/
def Obligations.DecodeEncode : Prop :=
  ∀ (i : Instr) (w : IWord), i.wf = true → i.sharesWord = false → encode i = some w → decodeWord w = .ok i

/-- R64-R80 (encode and decode agree, from the word): every word that decodes is the one its instruction encodes to, so no two words
mean one instruction and no bit of a word is dropped; and what decodes is well-formed. -/
def Obligations.EncodeDecode : Prop :=
  ∀ (i : Instr) (w : IWord), decodeWord w = .ok i → encode i = some w ∧ i.wf = true ∧ i.sharesWord = false

/-- Memory at reset is in canonical form: nothing is listed. -/
def Obligations.ResetMemoryCanonical : Prop := State.reset.memOk

/-- Every step goes on: a failing access and an illegal encoding are exceptions that the machine takes. And every step keeps memory in
canonical form: addresses rise, and no entry is listed that an unlisted address would read as.
The model's own choices that it rests on: log entry 5. -/
def Obligations.StepKeepsMemory : Prop :=
  ∀ s : State, s.safe ∧ ∀ t, s.memOk → step s = .next t → t.memOk

/-! The vector engine (chapter 05). -/

/-- R135, R140-R143, R145, R151-R153: the element-wise instructions: each enabled element of the destination is the function of the
sources' elements that the table gives, a disabled one keeps its old value, and only an instruction that rounds in stochastic mode
moves the generator; without a window, or with a type the instruction does not take, it traps ILLEGAL_INSTR.
The model's own choices that it rests on: log entry 44. -/
def Obligations.VectorElements : Prop :=
  ∀ (s : State) (w : Nat) (m : MSel) (srcs : List VReg) (vd : VReg) (i : Instr) (ok rounds : Bool)
    (f : BitVec 32 → Nat → Nat → Nat → Nat),
    let T := s.cur.vt
    let W := T.ty.width
    let F (c : Nat) : FV := fval T.ty c
    let Z (c : Nat) : Int := ival T.ty c
    let P (fi : Int → Int → Int) (ff : FV → FV → FV) : BitVec 32 → Nat → Nat → Nat → Nat :=
      fun r _ a b => if T.ty.isFloat then roundF T.ty T.mode T.sat r (ff (F a) (F b)) else intCode T.ty T.sat (fi (Z a) (Z b))
    let near (v : FV) : Nat := roundF T.ty .rne false 0 v
    ((∃ o : VOps, m = o.msel ∧ srcs = [o.vs1, o.vs2] ∧ vd = o.vd ∧
        ((ok = okArith T.ty ∧ rounds = true ∧
          ((i = .vadd o ∧ f = P (fun a b => a + b) (FV.add T.mode)) ∨ (i = .vsub o ∧ f = P (fun a b => a - b) (FV.sub T.mode)) ∨
           (i = .vmul o ∧ f = P (fun a b => a * b) FV.mul) ∨
           (i = .vfma o ∧ f = fun r c a b => if T.ty.isFloat then roundF T.ty T.mode T.sat r (FV.fma T.mode (F a) (F b) (F c))
             else intCode T.ty T.sat (Z a * Z b + Z c)))) ∨
         (ok = okArith T.ty ∧ rounds = false ∧
          ((i = .vmin o ∧ f = fun _ _ a b => if T.ty.isFloat then near ((F a).min (F b)) else if Z b < Z a then b else a) ∨
           (i = .vmax o ∧ f = fun _ _ a b => if T.ty.isFloat then near ((F a).max (F b)) else if Z a < Z b then b else a))) ∨
         (ok = okMove T.ty ∧ rounds = false ∧
          ((i = .vand o ∧ f = fun _ _ a b => a &&& b) ∨ (i = .vor o ∧ f = fun _ _ a b => a ||| b) ∨
           (i = .vxor o ∧ f = fun _ _ a b => a ^^^ b) ∨ (i = .vandn o ∧ f = fun _ _ a b => a ^^^ (a &&& b)))) ∨
         (ok = okInt T.ty ∧ rounds = false ∧
          ((i = .vmulh o ∧ f = fun _ _ a b => (Z a * Z b / 2 ^ W % 2 ^ W).toNat) ∨
           (i = .vsll o ∧ f = fun _ _ a b => a * 2 ^ (b % W)) ∨ (i = .vsrl o ∧ f = fun _ _ a b => a / 2 ^ (b % W)) ∨
           (i = .vsra o ∧ f = fun _ _ a b => (((if a.testBit (W - 1) then (a : Int) - 2 ^ W else a) / 2 ^ (b % W)) % 2 ^ W).toNat) ∨
           (i = .vfsl o ∧ f = fun _ c a b => (a * 2 ^ W + c) * 2 ^ (b % W) / 2 ^ W) ∨
           (i = .vfsr o ∧ f = fun _ c a b => if b % W = 0 then c else (a * 2 ^ W + c) / 2 ^ (b % W)))) ∨
         (ok = okField T.ty ∧ rounds = false ∧
          ((i = .vbfx o ∧ f = fun _ _ a b => bfExtract W true a b) ∨ (i = .vbfxu o ∧ f = fun _ _ a b => bfExtract W false a b) ∨
           (i = .vbfi o ∧ f = fun _ c a b => bfInsert W c a b))))) ∨
     (∃ o : VUn, m = o.msel ∧ srcs = [o.vs1] ∧ vd = o.vd ∧ rounds = false ∧
        ((ok = okArith T.ty ∧
          ((i = .vabs o ∧ f = fun _ _ a _ => if T.ty.isFloat then near (F a).abs else intCode T.ty T.sat ((Z a).natAbs : Int)) ∨
           (i = .vneg o ∧ f = fun _ _ a _ => if T.ty.isFloat then near (F a).neg else intCode T.ty T.sat (-Z a)))) ∨
         (ok = okInt T.ty ∧
          ((i = .vclz o ∧ f = fun _ _ a _ => if a = 0 then W else W - 1 - Nat.log2 a) ∨
           (i = .vpopc o ∧ f = fun _ _ a _ => (List.range W).countP a.testBit))) ∨
         (ok = okFloat T.ty ∧
          ((i = .vexp2 o ∧ f = fun _ _ a _ => exp2E T a) ∨ (i = .vrcp o ∧ f = fun _ _ a _ => rcpE T a) ∨
           (i = .vrsq o ∧ f = fun _ _ a _ => rsqE T a)))))) →
    (s.VReady w ok srcs vd → ∃ t v, exec i s = .next t ∧ s.VPuts t w srcs vd v ∧
      (∀ j, j < 512 / W → velem W v j = if s.cur.enabled m j
        then f ((s.cur.draws (rounds && T.ty.isFloat) (512 / W)).1.getD j 0) (velem W ((s.here.win w).old vd) j)
          (velem W (s.vsrc w srcs 0) j) (velem W (s.vsrc w srcs 1) j) % 2 ^ W
        else velem W ((s.here.win w).old vd) j) ∧
      t.cur.rndseed = (s.cur.draws (rounds && T.ty.isFloat) (512 / W)).2) ∧
    ((s.window = none ∨ ok = false) → ∃ t, exec i s = .next t ∧ s.TakesTrap t 0x01 0 0 s.cur.pc)

/-- R142, R145, R148: VSEL, VCVT and the movements: VSLIDE, VPERM, VBCAST and VIOTA, element by element.
The model's own choices that it rests on: log entry 44. -/
def Obligations.VectorMoves : Prop :=
  ∀ (s : State) (w : Nat) (m : MSel) (srcs : List VReg) (vd : VReg) (i : Instr) (ok : Bool) (W : Nat)
    (f : (Nat → Nat) → (Nat → Nat) → Nat → Nat),
    let T := s.cur.vt
    let a : Nat → Nat := velem T.ty.width (s.vsrc w srcs 0)
    let b : Nat → Nat := velem T.ty.width (s.vsrc w srcs 1)
    let E (on off : Nat → Nat) : Nat → Nat := fun j => if s.cur.enabled m j then on j else off j
    let n := 512 / max T.ty.width W
    ((∃ o : VOps, m = o.msel ∧ srcs = [o.vs1, o.vs2] ∧ vd = o.vd ∧ ok = okMove T.ty ∧ W = T.ty.width ∧
        ((i = .vsel o ∧ m ≠ .none ∧ f = fun _ _ => E a b) ∨ (i = .vperm o ∧ f = fun old _ => E (fun j => a (b j % n)) old))) ∨
     (∃ o : VImm, m = o.msel ∧ srcs = [o.vs1] ∧ vd = o.vd ∧ W = T.ty.width ∧
        ((i = .vslide o ∧ ok = okMove T.ty ∧ f = fun old _ => E (fun j => if 0 ≤ (j : Int) + o.imm.toInt ∧ (j : Int) + o.imm.toInt < n
            then a ((j : Int) + o.imm.toInt).toNat else 0) old) ∨
         (i = .vbcast o ∧ ok = (okMove T.ty && decide (o.imm.toNat < n)) ∧ f = fun old _ => E (fun _ => a o.imm.toNat) old))) ∨
     (srcs = [] ∧ i = .viota m vd ∧ ok = okInt T.ty ∧ W = T.ty.width ∧ f = fun old _ => E (fun j => j) old) ∨
     (∃ (o : VUn) (ty : BitVec 4) (d : ElemTy), m = o.msel ∧ srcs = [o.vs1] ∧ vd = o.vd ∧ i = .vcvt ty o ∧
        ElemTy.ofCode ty.toNat = some d ∧ ty.toNat < 13 ∧ ok = !(T.ty = .e2m1 && d = .e2m1) ∧ W = d.width ∧
        f = fun old r => E (fun j => convCode T.ty d T.mode T.sat (BitVec.ofNat 32 (r j)) (a j)) old)) →
    (s.VReady w ok srcs vd → ∃ t v, exec i s = .next t ∧ s.VPuts t w srcs vd v ∧
      (∀ j, j < n → velem W v j =
        f (velem W ((s.here.win w).old vd)) (fun j => ((s.cur.draws true n).1.getD j 0).toNat) j % 2 ^ W) ∧
      ∀ j, n ≤ j → j < 512 / W → velem W v j = 0) ∧
    ((s.window = none ∨ ok = false) → ∃ t, exec i s = .next t ∧ s.TakesTrap t 0x01 0 0 s.cur.pc)

/-- R144: a compare sets bit i of mask md when element i is enabled and the relation holds, and clears every other bit; it changes no other
mask and no other register. As float values, a NaN is equal to nothing and below nothing, and −0 equals +0. -/
def Obligations.VectorCompares : Prop :=
  (∀ x : FV, FV.eqv .nan x = false ∧ x.eqv .nan = false ∧ FV.lt .nan x = false ∧ x.lt .nan = false) ∧
  (∀ (p q : Bool) (e f : Int), FV.eqv (.fin p 0 e) (.fin q 0 f) = true) ∧
  ∀ (s : State) (w : Nat),
    let T := s.cur.vt
    let W := T.ty.width
    let n := 512 / W
    ∀ (o : VCmp) (i : Instr) (rel : Nat → Nat → Prop),
      ((i = .vcmpeq o ∧ rel = fun a b => if T.ty.isFloat then (fval T.ty a).eqv (fval T.ty b) = true else a = b) ∨
       (i = .vcmplt o ∧ rel = fun a b => if T.ty.isFloat then (fval T.ty a).lt (fval T.ty b) = true else ival T.ty a < ival T.ty b) ∨
       (i = .vcmple o ∧ rel = fun a b => if T.ty.isFloat then ((fval T.ty a).lt (fval T.ty b) || (fval T.ty a).eqv (fval T.ty b)) = true
         else ival T.ty a ≤ ival T.ty b) ∨
       (i = .vcmpltu o ∧ rel = fun a b => a < b)) →
      s.VReady w (okArith T.ty) [o.vs1, o.vs2] 0 → ∃ t, exec i s = .next t ∧ s.VReads t w [o.vs1, o.vs2] ∧
        (∀ j, (t.cur.rm o.md).getLsbD j = true ↔ j < n ∧ s.cur.enabled o.msel j = true ∧
          rel (velem W (s.vsrc w [o.vs1, o.vs2] 0) j) (velem W (s.vsrc w [o.vs1, o.vs2] 1) j)) ∧
        (∀ q, q ≠ o.md → t.cur.rm q = s.cur.rm q) ∧ (∀ r, t.rx r = s.rx r) ∧ s.keepsMem t

/-- R60, R146, R147: reductions, in the order of their tree, and the prefix sum, in the order of its elements.
The model's own choices that it rests on: log entry 43. -/
def Obligations.VectorReductions : Prop :=
  ∀ (s : State) (w : Nat),
    let T := s.cur.vt
    let W := T.ty.width
    let n := 512 / W
    (∀ (o : VUn) (i : Instr) (g : Nat) (rounds : Bool) (f : List (BitVec 32) → List (Option Nat) → Nat),
      ((i = .vredsum o ∧ g = n ∧ rounds = true ∧ f = fun rs l => redSum T (rs.headD 0) l) ∨
       (i = .vredmax o ∧ g = n ∧ rounds = false ∧ f = fun _ l => redPick true T l) ∨
       (i = .vredmin o ∧ g = n ∧ rounds = false ∧ f = fun _ l => redPick false T l) ∨
       (∃ z, i = .vredmaxG z o ∧ g = GroupSize.num z ∧ rounds = false ∧ f = fun _ l => redPick true T l) ∨
       (∃ z, i = .vredminG z o ∧ g = GroupSize.num z ∧ rounds = false ∧ f = fun _ l => redPick false T l)) →
      s.VReady w (okArith T.ty && decide (g ≤ n)) [o.vs1] o.vd → ∃ t v, exec i s = .next t ∧ s.VPuts t w [o.vs1] o.vd v ∧
        ∀ j, j < n → velem W v j = if j < n / g
          then f (s.cur.draws (rounds && T.ty.isFloat) n).1 ((List.range g).map (fun q =>
            if s.cur.enabled o.msel (g * j + q) then some (velem W (s.vsrc w [o.vs1] 0) (g * j + q)) else none)) % 2 ^ W
          else 0) ∧
    (∀ (o : VUn), s.VReady w (okArith T.ty) [o.vs1] o.vd → ∃ t v, exec (.vscan o) s = .next t ∧ s.VPuts t w [o.vs1] o.vd v ∧
      let x (j : Nat) : Nat := if s.cur.enabled o.msel j then velem W (s.vsrc w [o.vs1] 0) j
        else if T.ty.isFloat then 2 ^ (W - 1) else 0
      (T.ty.isFloat = false → velem W v 0 = x 0) ∧
      ∀ j, j + 1 < n → velem W v (j + 1) =
        if T.ty.isFloat then roundF T.ty T.mode T.sat ((s.cur.draws true n).1.getD (j + 1) 0)
          (FV.add T.mode (fval T.ty (velem W v j)) (fval T.ty (x (j + 1)))) % 2 ^ W
        else intCode T.ty T.sat (ival T.ty (velem W v j) + ival T.ty (x (j + 1))))

/-- R80, R129, R130, R154, R158, R159: mask instructions, moves between the files, the accumulator read, the claim and release of a
window and the setting of vtype.
The model's own choices that it rests on: log entries 44, 85, 87, 95. -/
def Obligations.MasksWindowsAndType : Prop :=
  ∀ (s : State),
    (∀ (i : Instr) (md : MReg) (v : Word),
      ((∃ a b, i = .mand md a b ∧ v = s.cur.rm a &&& s.cur.rm b) ∨ (∃ a b, i = .mor md a b ∧ v = s.cur.rm a ||| s.cur.rm b) ∨
       (∃ a b, i = .mxor md a b ∧ v = s.cur.rm a ^^^ s.cur.rm b) ∨ (∃ a, i = .mnot md a ∧ v = ~~~(s.cur.rm a)) ∨
       (∃ r, i = .mset md r ∧ v = s.rx r)) →
      ∃ t, exec i s = .next t ∧ (∀ q, t.cur.rm q = if q = md then v else s.cur.rm q) ∧
        t.cur = { s.cur with m := t.cur.m, pc := s.cur.pc + 4, hold := t.cur.hold } ∧ s.onlyCur t) ∧
    (∀ rd a, (∃ t, exec (.mcnt rd a) s = .next t ∧ s.VAnswers t rd (BitVec.ofNat 64 ((List.range 64).countP (s.cur.rm a).getLsbD))) ∧
      ∃ t v, exec (.mfirst rd a) s = .next t ∧ s.VAnswers t rd v ∧ v.toNat ≤ 64 ∧ (∀ j, j < v.toNat → (s.cur.rm a).getLsbD j = false) ∧
        (v.toNat < 64 → (s.cur.rm a).getLsbD v.toNat = true)) ∧
    (∀ w rd vs rs2, let W := s.cur.vt.ty.width
      s.VReady w (okMove s.cur.vt.ty) [vs] 0 → ∃ t, exec (.vmvxs rd vs rs2) s = .next t ∧ s.VReads t w [vs] ∧ s.keepsMem t ∧
        ∀ r, t.rx r = if r = 0 then 0 else if r = rd then
          BitVec.ofInt 64 (ival s.cur.vt.ty (velem W (s.vsrc w [vs] 0) ((s.rx rs2).toNat % (512 / W)))) else s.rx r) ∧
    (∀ w vd rs1 rs2, let W := s.cur.vt.ty.width
      s.VReady w (okMove s.cur.vt.ty) [vd] vd → ∃ t v, exec (.vmvsx vd rs1 rs2) s = .next t ∧ s.VPuts t w [] vd v ∧
        ∀ j, j < 512 / W → velem W v j = if j = (s.rx rs2).toNat % (512 / W) then (s.rx rs1).toNat % 2 ^ W
          else velem W (s.vsrc w [vd] 0) j) ∧
    (∀ rd slot, slot = s.cur.slot →
      ((isCompute s.curCore = false ∨ s.cur.st ≠ .strand) → ∃ t, exec (.vclaim rd) s = .next t ∧ s.TakesTrap t 0x01 0 0 s.cur.pc) ∧
      (isCompute s.curCore = true → s.cur.st = .strand →
        (∀ w, s.here.heldBy slot = some w → ∃ t, exec (.vclaim rd) s = .next t ∧ s.VAnswers t rd (BitVec.ofNat 64 w)) ∧
        (∀ w, s.here.heldBy slot = none → (s.here.reservedFor slot).or s.here.freeWindow = some w →
          ∃ t, exec (.vclaim rd) s = .next t ∧ (∀ r, t.rx r = if r = 0 then 0 else if r = rd then BitVec.ofNat 64 w else s.rx r) ∧
            (t.here.win w).holder = some slot ∧ (t.here.win w).regs = [] ∧ (t.here.win w).vin = [] ∧ (t.here.win w).vout = [] ∧
            (∀ j, j ≠ w → t.here.win j = s.here.win j) ∧ t.cur.pc = s.cur.pc + 4 ∧ s.keepsMem t) ∧
        (s.here.heldBy slot = none → (s.here.reservedFor slot).or s.here.freeWindow = none →
          ∃ t, exec (.vclaim rd) s = .next t ∧ s.VAnswers t rd (-1)))) ∧
    (s.window = none → ∃ t, exec .vrelease s = .next t ∧ t.cur = { s.cur with pc := s.cur.pc + 4, hold := t.cur.hold } ∧ s.onlyCur t) ∧
    (∀ w, s.window = some w → ∃ t, exec .vrelease s = .next t ∧ (t.here.win w).holder = none ∧ (t.here.win w).regs = [] ∧
      (∀ r, t.rx r = s.rx r) ∧ t.cur.pc = s.cur.pc + 4 ∧ s.keepsMem t) ∧
    (∀ (i : Instr) (rd : Reg) (v : Word),
      ((∃ imm, i = .vsettImm rd imm ∧ v = imm.setWidth 64) ∨ (∃ r, i = .vsettReg rd r ∧ v = s.rx r)) →
      ((v &&& 15 < 13 ∧ v >>> 4 &&& 7 < 5 ∧ v >>> 8 = 0) → ∃ t, exec i s = .next t ∧
        (∀ r, t.rx r = if r = 0 then 0 else if r = rd then s.cur.vtype else s.rx r) ∧
        t.cur = { s.cur with x := t.cur.x, pc := s.cur.pc + 4, vtype := v, early := t.cur.early } ∧ s.onlyCur t) ∧
      (¬(v &&& 15 < 13 ∧ v >>> 4 &&& 7 < 5 ∧ v >>> 8 = 0) → ∃ t, exec i s = .next t ∧ s.TakesTrap t 0x01 0 0 s.cur.pc ∧
        t.cur.vtype = s.cur.vtype)) ∧
    (∀ w vd (acc : BitVec 2) rs1, let m := s.here.mat
      s.VReady w true [] vd →
      (s.holdsMatrix = true → m.err = none → (s.rx rs1).toNat ≤ 63 →
        (∀ q ∈ m.queue, mTarget q.hd.word = some acc.toNat →
          q.hd.ctx ≠ s.curCtx ∧ q.requeued = false ∧ ¬(cOpcode q.hd.word = 0x22 ∧ q.row ≠ 0)) →
        (m.poison.getLsbD acc.toNat = false → m.accBad.getLsbD acc.toNat = false →
          ∃ t v, exec (.vacc vd acc rs1) s = .next t ∧ s.VPuts t w [] vd v ∧
            ∀ j, j < 16 → velem 32 v j = (m.accAt acc.toNat ((s.rx rs1).toNat / 2) (16 * ((s.rx rs1).toNat % 2) + j)).toNat) ∧
        ((m.poison.getLsbD acc.toNat = true ∨ m.accBad.getLsbD acc.toNat = true) →
          ∃ t, exec (.vacc vd acc rs1) s = .next t ∧ s.TakesTrap t 0x26 0 0 s.cur.pc)) ∧
      (s.holdsMatrix = false → ∃ t, exec (.vacc vd acc rs1) s = .next t ∧ s.TakesTrap t 0x19 0 0 s.cur.pc) ∧
      (s.holdsMatrix = true → m.err = none → 63 < (s.rx rs1).toNat → ∃ t, exec (.vacc vd acc rs1) s = .next t ∧
        s.TakesTrap t 0x1B 0 0 s.cur.pc))

/-- R155-R157: vector loads and stores: 64 bytes at an address, aligned or not, the bytes a mask enables, and the elements of the
own local memory that an index register names. A misaligned VLD or VST traps.
The model's own choices that it rests on: log entries 42, 43, 84, 86. -/
def Obligations.VectorMemory : Prop :=
  ∀ (s : State) (w : Nat) (v vs2 : VReg) (rs1 : Reg), s.here.watch = [] → s.cur.wait = .none →
    let W := s.cur.vt.ty.width
    let base := s.rx rs1
    let idx (n : Nat) (srcs : List VReg) : Nat → Nat := fun j => base.toNat + velem W (s.vsrc w srcs n) j * (W / 8)
    (∀ (i : Instr) (va : Word),
      ((∃ imm, i = .vld v rs1 imm ∧ va = base + imm.signExtend 64 * 64 ∧ va.toNat % 64 = 0) ∨ (i = .vldu v rs1 ∧ va = base)) →
      ∀ ls, s.VReady w true [] v → s.places s.whoCur .load va 64 = .ok ls → s.waysOpen s.curCore ls = true →
        ∃ t, exec i s = .next t ∧
          s.VPuts t w [] v (BitVec.ofNat 512 (leNat (ls.map (s.seenByte s.curCore s.curCtx))))) ∧
    (∀ imm ls, let va := base + imm.signExtend 64 * 64
      va.toNat % 64 = 0 → s.VReady w true [v] 0 → s.places s.whoCur .store va 64 = .ok ls →
      (∀ l ∈ ls, s.atOnce s.curCore l = true) → ∃ t, exec (.vst v rs1 imm) s = .next t ∧
        s.VStores t w [v] (ls.zip (leBytes 64 (s.vsrc w [v] 0).toNat))) ∧
    (∀ imm, let va := base + imm.signExtend 64 * 64
      va.toNat % 64 ≠ 0 → (s.VReady w true [] v → ∀ ls, s.places s.whoCur .load va 64 = .ok ls →
        ∃ t, exec (.vld v rs1 imm) s = .next t ∧ s.TakesTrap t 0x0A va 0 s.cur.pc) ∧
      (s.VReady w true [v] 0 → ∀ ls, s.places s.whoCur .store va 64 = .ok ls →
        ∃ t, exec (.vst v rs1 imm) s = .next t ∧ s.TakesTrap t 0x0B va 0 s.cur.pc)) ∧
    (∀ mn ls, let on := (natsFrom 0 64).filter (s.cur.rm mn).getLsbD
      let srcs := if s.cur.rm mn = 0 then [] else [v]
      s.VReady w true srcs 0 → s.maskedPlaces base on = .ok ls → (∀ l ∈ ls, s.atOnce s.curCore l = true) →
      ∃ t, exec (.vstu v rs1 mn) s = .next t ∧
        s.VStores t w srcs (ls.zip (on.map (fun j => (s.vsrc w srcs 0).extractLsb' (8 * j) 8)))) ∧
    (base.toNat < 65536 → base.toNat % (W / 8) = 0 →
      (s.VReady w (okMove s.cur.vt.ty) [vs2] v → (∀ j, j < 512 / W → idx 0 [vs2] j + W / 8 ≤ 65536) → s.badParity = [] →
        ∃ t x, exec (.vldx v vs2 rs1) s = .next t ∧ s.VPuts t w [vs2] v x ∧
          ∀ j, j < 512 / W → velem W x j = leNat ((natsFrom (idx 0 [vs2] j) (W / 8)).map s.ownByte)) ∧
      (s.VReady w (okMove s.cur.vt.ty) [v, vs2] 0 → (∀ j, j < 512 / W → idx 1 [v, vs2] j + W / 8 ≤ 65536) →
        ∃ t, exec (.vstx v vs2 rs1) s = .next t ∧ s.VStores t w [v, vs2]
          ((s.windowLocs (elemOffs (W / 8) ((natsFrom 0 (512 / W)).map (idx 1 [v, vs2])))).zip
            (leBytes 64 (s.vsrc w [v, vs2] 0).toNat))))

/-! Engine commands (chapters 03, 06, 07). -/

/-- R84, R189, R191: ISSUE reads the command word and checks it in order: a misaligned address, an unassigned opcode, a header out
of order, a matrix command for another core, a reserved operand, a channel of the supervisor. A copy or stream command that passes
enters the queue with its snapshot and its number; with no entry free a handler traps, and a strand waits and keeps the word it has
read: an ISSUE that has waited repeats its unit's steps with that word and does not read it again.
The model's own choices that it rests on: log entry 45. -/
def Obligations.CommandIssue : Prop :=
  (∀ (s : State) (rs1 : Reg) (imm : BitVec 12) (w : CmdWord), s.cur.cmdRead = some w →
    exec (.issue rs1 imm) s =
      .next ((s.modCur (fun c => { c with cmdRead := none })).issueUnit (s.rx rs1 + imm.signExtend 64 * 32) w)) ∧
  ∀ (s : State) (rs1 : Reg) (imm : BitVec 12), s.here.watch = [] → s.cur.cmdRead = none →
    let va := s.rx rs1 + imm.signExtend 64 * 32
    (va.toNat % 32 ≠ 0 → ∃ t, exec (.issue rs1 imm) s = .next t ∧ s.TakesTrap t 0x0A va 0 s.cur.pc) ∧
    (∀ ls (w : CmdWord), va.toNat % 32 = 0 → s.places s.whoCur .load va 32 = .ok ls → s.waysOpen s.curCore ls = true →
      w = BitVec.ofNat 256 (leNat (ls.map (s.seenByte s.curCore s.curCtx))) →
      (w.extractLsb' 0 32 = 0#32 ∨ w.extractLsb' 0 32 = 0x700B#32 →
        ∃ t, exec (.issue rs1 imm) s = .next t ∧ s.TakesTrap t 0x02 va 0 s.cur.pc) ∧
      (bits w 31 0 ≠ 0 → bits w 31 0 ≠ 0x700B → cmdEvent (cOpcode w) { core := 0, seq := 0 } = none →
        ∃ t, exec (.issue rs1 imm) s = .next t ∧ s.TakesTrap t 0x02 va (BitVec.ofNat 64 (cOpcode w)) s.cur.pc) ∧
      (bits w 31 0 ≠ 0 → bits w 31 0 ≠ 0x700B → (cmdEvent (cOpcode w) { core := 0, seq := 0 }).isSome = true → cmdHeaderOk w = false →
        ∃ t, exec (.issue rs1 imm) s = .next t ∧ s.TakesTrap t 0x03 va 0 s.cur.pc) ∧
      (∀ rs, s.CmdFine w → unitOf (cOpcode w) = .copy → s.cur.copyErr = none → s.cur.dueNow = none →
        s.readRecs (copyRecs w) = .ok rs →
        (∀ j, j < rs.length → shapeOk ((copyRecs w).getD j 0) (fun _ => true) (rs.getD j 0) = true ∧ roleOk w rs j = true ∧
          extentOk (rs.getD j 0) = true) →
        constOk w rs = true → countsOk s.grade w rs = true → s.copyResource w = none →
        (s.here.copyQ.length < 2 → ∃ t, exec (.issue rs1 imm) s = .next t ∧ (∃ q, t.here.copyQ = s.here.copyQ ++ [q] ∧ q.hd.word = w ∧
            q.hd.seq = s.here.copySeq ∧ q.hd.ctx = s.curCtx ∧ q.recs = rs ∧ q.seed = s.cur.rndseed ∧ q.row = 0 ∧ q.st = .waiting) ∧
          t.here.copySeq = (s.here.copySeq + 1) % 65536 ∧
          t.cur = { s.cur with pc := s.cur.pc + 4, rndseed := t.cur.rndseed, early := t.cur.early, out := t.cur.out } ∧
          s.keepsOthers t ∧ s.keepsMem t ∧
          t.pending = s.pending ++ (cmdEvent (cOpcode w) { core := s.curCore, seq := s.here.copySeq }).toList) ∧
        (2 ≤ s.here.copyQ.length → s.cur.st ≠ .firing → ∃ t, exec (.issue rs1 imm) s = .next t ∧
          t.cur = { s.cur with wait := .engine, cmdRead := some w } ∧ s.onlyCur t) ∧
        (2 ≤ s.here.copyQ.length → s.cur.st = .firing → ∃ t, exec (.issue rs1 imm) s = .next t ∧ s.TakesTrap t 0x12 0 0 s.cur.pc)))

/-- R85, R188, R192, R193, R196, R199, R200, R202, R206-R211: a row of a copy or stream command: the elements it reads, the function
that it applies, the conversion, and the elements it writes; then the next row, or the end. What writing an element does, and how
an access that fails or an index out of range ends the command.
The model's own choices that it rests on: log entries 52, 54, 72. -/
def Obligations.CopyRows : Prop :=
  ∀ (s : State),
    (∀ k h (rec : Rec) e v, shPadding rec (shIdx rec e) = true →
      s.engElem k h rec e = .ok (shPad rec % 2 ^ (shType rec).width) ∧ s.engPut k h rec e v = .ok s) ∧
    (∀ k h (rec : Rec) e v ls, shPadding rec (shIdx rec e) = false → (shType rec).width ≠ 4 →
      s.engPlaces k h .store (shAddr rec (shIdx rec e)) (shBytes rec) = .ok ls → (∀ l ∈ ls, s.atOnce k l = true) →
      ∃ u, s.engPut k h rec e v = .ok u ∧ s.Writes u k 8 (ls.zip (leBytes (shBytes rec) v))) ∧
    (∀ (r : CmdRef) (q : CopyCmd), s.CopyReady r q →
      let k := r.core
      let A := q.recs.getD 0 0
      let B := q.recs.getD 1 0
      let C := q.recs.getD 2 0
      let p := rowOf A q.row
      let el (rec : Rec) (lo n : Nat) (vs : List Nat) : Prop := s.engElems k q.hd rec lo n = .ok vs
      let conv (lo : Nat) (vs : List Nat) : List (Nat × Nat) := (natsFrom lo vs.length).zip (q.conv.elems q.seed lo vs)
      (∀ (i : Instr) (dst : Rec) (out : List (Nat × Nat)) (rows : Nat) (vs : List Nat),
        ((i = .cpy r ∧ el A p.1 p.2 vs ∧ dst = B ∧ out = (natsFrom p.1 p.2).zip (q.conv.elems q.seed p.1 vs) ∧ rows = rowsOf A) ∨
         (i = .cpyn r ∧ q.row < rowsOf A ∧ el A p.1 p.2 vs ∧ dst = B ∧
           out = (natsFrom p.1 p.2).zip (q.conv.elems q.seed p.1 vs) ∧ rows = rowsOf A + 1) ∨
         (∃ x, s.engElem k q.hd C q.row = .ok x ∧ x < shSize A 1 ∧ rows = shCount C ∧
           ((i = .gather r ∧ el A (shSize A 0 * x) (shSize A 0) vs ∧ dst = B ∧
              out = (natsFrom (q.row * shSize A 0) (shSize A 0)).zip (q.conv.elems q.seed (q.row * shSize A 0) vs)) ∨
            (i = .scatter r ∧ el B (q.row * shSize A 0) (shSize A 0) vs ∧ dst = A ∧
              out = (natsFrom (shSize A 0 * x) (shSize A 0)).zip (q.conv.elems q.seed (q.row * shSize A 0) vs)))) ∨
         (i = .fill r ∧ dst = A ∧ rows = rowsOf A ∧
           out = (natsFrom p.1 p.2).map (fun e => (e, (cAddr q.hd.word 3).toNat % 2 ^ (shType A).width))) ∨
         (i = .smap r ∧ el A p.1 p.2 vs ∧ dst = B ∧ rows = rowsOf A ∧
           out = conv p.1 (vs.map (fun a => streamOp (streamFn q.hd.word) (shVT A) a (cvalOf (shType A) (cOp q.hd.word 6))))) ∨
         (∃ bs, i = .sbin r ∧ el A p.1 p.2 vs ∧ el B p.1 p.2 bs ∧ dst = C ∧ rows = rowsOf A ∧
           out = conv p.1 ((vs.zip bs).map (fun x => streamOp (streamFn q.hd.word) (shVT A) x.1 x.2))) ∨
         (i = .sred r ∧ el A p.1 p.2 vs ∧ dst = B ∧ rows = rowsOf A ∧
           out = conv q.row [rowReduce (cBits q.hd.word 5 1 0) (shVT A) vs]) ∨
         (i = .snorm r ∧ el A p.1 p.2 vs ∧ dst = B ∧ rows = rowsOf A ∧ out = conv p.1 (normRow (shType A) (cOp q.hd.word 5) vs)) ∨
         (∃ js, i = .sperm r ∧ el C 0 (rowOf B q.row).2 js ∧ (∀ j ∈ js, j < shLen A 0) ∧ vs.length = js.length ∧
           (∀ n, n < js.length → s.engElem k q.hd A (js.getD n 0 + shLen A 0 * q.row) = .ok (vs.getD n 0)) ∧ dst = B ∧
           rows = rowsOf B ∧ out = conv (rowOf B q.row).1 vs)) →
        ∀ u, s.engPuts k q.hd dst out = .ok u → ∃ t, exec i s = .next t ∧ u.RowTo t r q rows) ∧
      (∀ vs u u', el A p.1 p.2 vs →
        let bl := rowBlocks (shType A) vs
        let sc := bl.map (fun b => blockScale (blockMax b))
        let es := ((natsFrom 0 bl.length).zip bl).flatMap (fun b => ((natsFrom 0 8).zip b.2).map (fun x =>
          blockElem (shRound B) ((q.conv.rnds q.seed p.1 vs.length).getD (8 * b.1 + x.1) 0) (sc.getD b.1 0) x.2))
        s.engPuts k q.hd B ((natsFrom p.1 es.length).zip es) = .ok u →
        u.engPuts k q.hd C ((natsFrom (p.1 / 8) sc.length).zip sc) = .ok u' →
        ∃ t, exec (.scvt r) s = .next t ∧ u'.RowTo t r q (rowsOf A)) ∧
      (∀ (i : Instr) e c a, i = .cpy r ∨ i = .smap r ∨ i = .sred r ∨ i = .snorm r → s.engElems k q.hd A p.1 p.2 = .error e →
        EngErr.stop e = .fail c a → (s.ctx k q.hd.ctx).copyErr = none → ∃ t, exec i s = .next t ∧ s.keepsMem t ∧
          (∃ e, (t.ctx k q.hd.ctx).copyErr = some e ∧ e.cause = c ∧ e.eaddr = a ∧
            e.einfo = cmdInfo (cOpcode q.hd.word) q.hd.seq 0 ∧ e.stamp = s.clock) ∧
          (t.core k).copyQ.find? (fun q => q.hd.seq = r.seq) = some { q with st := .done 1 } ∧ .copyCommandRetire r ∈ t.pending) ∧
      (∀ (i : Instr) x, i = .gather r ∨ i = .scatter r → s.engElem k q.hd C q.row = .ok x → shSize A 1 ≤ x →
        (s.ctx k q.hd.ctx).copyErr = none → ∃ t, exec i s = .next t ∧ s.keepsMem t ∧
          ∃ e, (t.ctx k q.hd.ctx).copyErr = some e ∧ e.cause = 0x1C ∧ e.eaddr = shAddr C (shIdx C q.row)))

/-- R188, R194, R195, R199, R201, R203-R205: what the other copy commands do: the notify of CPYN, the tile of RINGPUT, the rows of
STREAMIN and STREAMOUT, the two phases of MCAST, the lines that L2PINFILL pins, and a finished command that retires. A stream
whose window has been released ends.
The model's own choices that it rests on: log entries 53, 54, 72. -/
def Obligations.CopyTransfers : Prop :=
  ∀ (s : State) (r : CmdRef) (q : CopyCmd),
    let k := r.core
    let W := q.hd.word
    let A := q.recs.getD 0 0
    (s.CopyReady r q →
      (rowsOf A ≤ q.row →
        (s.engHome k = false → ∃ t, exec (.cpyn r) s = .next t ∧ t = s.planCmd k q.hd) ∧
        (∀ d, s.engHome k = true → cFlag W 0 = true → coreOfIdent s.grade (cOp W 5) = some d →
          ∃ t, exec (.cpyn r) s = .next t ∧ t = (s.sendNotify k q d (cBits W 6 4 0)).copyFinish r 0) ∧
        (∀ l ls, s.engHome k = true → cFlag W 0 = false → s.engPlaces k q.hd .store (cAddr W 5) 8 = .ok (l :: ls) →
          l.kind = .own → ∃ t, exec (.cpyn r) s = .next t ∧ t = (s.sendFeNotify k q l.key).copyFinish r 0)) ∧
      (∀ vs sd, let g := (s.core k).mat.ring (cBits W 3 2 0)
        g.fits (decide (q.recs.length = 2)) = true → g.revoked = false → g.count < g.slots →
        s.engElems k q.hd A 0 (shCount A) = .ok vs →
        (if g.side then s.engElems k q.hd (q.recs.getD 1 0) 0 512 else .ok []) = .ok sd →
        let data := ringBytes (cBits W 3 7 4) (q.conv.elems q.seed 0 vs) ++ packBytes 8 sd.length sd
        ∃ t u : State, exec (.ringput r) s = .next t ∧ s.Writes u k 8 ((s.keyLocs (g.slotKey k g.tail) data.length).zip data) ∧
          t = (u.modRing k (cBits W 3 2 0) Ring.push).copyFinish r 0) ∧
      (∀ g, g = (s.core k).mat.ring (cBits W 3 2 0) →
        g.fits (decide (q.recs.length = 2)) = true → g.revoked = false → g.slots ≤ g.count →
        ∃ t, exec (.ringput r) s = .next t ∧ t = s.planCmd k q.hd) ∧
      (∀ w vs, let e := 512 / (typeOf (cBits W 3 3 0)).width
        let lo := q.row * e
        let n := min e (shCount A - lo)
        (s.core k).heldBy q.hd.slot = some w → q.released = false →
        (((s.core k).win w).vin.length < 4 → s.engElems k q.hd A lo n = .ok vs →
          ∃ t u : State, exec (.streamin r) s = .next t ∧ u.RowTo t r q ((shCount A + e - 1) / e) ∧ s.keepsMem t ∧
            ((t.core k).win w).vin = ((s.core k).win w).vin ++
              [BitVec.ofNat 512 (leNat (packBytes (typeOf (cBits W 3 3 0)).width 64 (q.conv.elems q.seed lo vs)))]) ∧
        (4 ≤ ((s.core k).win w).vin.length → ∃ t, exec (.streamin r) s = .next t ∧ t = s.planCmd k q.hd) ∧
        (∀ row rest u, ((s.core k).win w).vout = row :: rest →
          s.engPuts k q.hd A ((natsFrom lo n).zip (q.conv.elems q.seed lo ((natsFrom 0 n).map (velem (typeOf (cBits W 3 3 0)).width row)))) = .ok u →
          ∃ t, exec (.streamout r) s = .next t ∧ u.keepsMem t ∧ ((t.core k).win w).vout = rest) ∧
        (((s.core k).win w).vout = [] → ∃ t, exec (.streamout r) s = .next t ∧ t = s.planCmd k q.hd)) ∧
      (∀ (i : Instr), i = .streamin r ∨ i = .streamout r → q.released = true → exec i s = .next (s.copyFinish r 0)) ∧
      (∀ (i : Instr), i = .mcastRect r ∨ i = .mcastList r →
        (∀ vs es, q.row = 0 → s.engElems k q.hd A 0 (shCount A) = .ok vs → s.castList k q = .ok es →
          ∃ t u : State, exec i s = .next t ∧ u.RowTo t r q 2 ∧
            u = ((castDests s.grade W es).1.foldl (fun x rank => x.storeFrom k 8 (some q.hd.name) (BitVec.ofNat 64 (cBits W 3 15 0))
                ((x.keyLocs (lmemKey (coreOfRank rank) (cBits W 3 15 0)) (packedLen A)).zip (packBytes (shType A).width (packedLen A) vs)))
              s).modCopy k q.hd.seq (fun q => { q with marks := (castDests s.grade W es).1, badAt := (castDests s.grade W es).2 })) ∧
        (q.row ≠ 0 → s.engHome k = false → ∃ t, exec i s = .next t ∧ t = s.planCmd k q.hd) ∧
        (q.row ≠ 0 → s.engHome k = true → q.badAt = none → q.marks = [] → ∃ t, exec i s = .next t ∧ t = s.copyFinish r 0) ∧
        (∀ rank, q.row ≠ 0 → s.engHome k = true → q.badAt = none → q.marks = [rank] → cFlag W 0 = true → cFlag W 1 = false →
          ∃ t, exec i s = .next t ∧ t = (s.sendNotify k q (coreOfRank rank) (cBits W 3 20 16)).copyFinish r 0)) ∧
      (∀ bs u, let p := rowOf A q.row
        s.rowBytes k q.hd A (natsFrom p.1 p.2) = .ok bs → s.pinBytes k q bs = .go u →
        ∃ t, exec (.l2pinfill r) s = .next t ∧ u.RowTo t r q (rowsOf A))) ∧
    ((s.core k).copyQ.find? (fun q => q.hd.seq = r.seq) = some q → ∀ n, q.st = .done n → q.notifies = 0 →
      (s.core k).stopped = false →
      (s.engHome k = false → ∃ t, exec (.copyCommandRetire r) s = .next t ∧ t = s.plan (.copyCommandRetire r)) ∧
      (s.engHome k = true → ∃ t, exec (.copyCommandRetire r) s = .next t ∧ s.keepsMem t ∧
        (t.core k).copyQ = dropFirst (fun (x : CopyCmd) => x.hd.seq = r.seq) (s.core k).copyQ ∧
        (cNotify W = true → (s.core k).windowBusy = false → (s.core k).hwWait = [] →
          ∃ m ∈ (t.core k).window, m.uid = (s.core k).nextUid ∧ m.dst = k ∧ m.chan = cChan W ∧
            m.words = [completionWord (cOp W 7) q.hd.seq n 0 (cOpcode W)]))) ∧
    (q.notifies ≠ 0 → (s.core k).copyQ.find? (fun q => q.hd.seq = r.seq) = some q → ∀ n, q.st = .done n →
      exec (.copyCommandRetire r) s = .next s)

/-- R56-R58, R163-R186: what the matrix commands do when their turn has come, and how a finished one retires: an MMA gives its
operands' slots back, unless its flags keep them. An MMA on a ring whose carve has been revoked ends with CARVE_REVOKED.
The model's own choices that it rests on: log entries 46, 47, 72, 90. -/
def Obligations.MatrixCommands : Prop :=
  (∀ (s : State) (r : CmdRef) (q : MatCmd), s.MatReady r q →
    let k := r.core
    let W := q.hd.word
    let M := (s.core k).mat
    let n := mAcc W
    let a := M.ring (mRingA W)
    let b := M.ring (mRingB W)
    let ka := a.slotKey k a.head
    let kb := b.slotKey k b.head
    let one : FV := .fin false 1 0
    let fm := M.fmt.getD 0
    let at8 (addr : Nat) : Int := (Memory.byte addr s.mem).toInt
    let slice8 (x y : Nat) (v : BitVec 32) (sl : Nat) : BitVec 32 := BitVec.ofNat 32 (intCode .i32 (cSat W)
      (v.toInt + ((List.range 32).map (fun c => at8 (ka + 64 * x + 32 * sl + c) * at8 (kb + 64 * y + 32 * sl + c))).sum))
    (q.bad = 0 → ∃ t, exec (.mfmt r) s = .next t ∧ (t.core k).mat.fmt = some q.fmt ∧ s.MatDone t k 0) ∧
    (q.bad ≠ 0 → M.err = none → ∃ t, exec (.mfmt r) s = .next t ∧ s.MatDone t k 1 ∧ ∃ e, (t.core k).mat.err = some e ∧ e.cause = q.bad ∧
      e.eaddr = q.badAddr) ∧
    (cOpcode W = 0x21 → ∃ t, exec (.mzero r) s = .next t ∧ s.AccIs t k n (fun _ _ => 0) ∧
      (t.core k).mat.poison.getLsbD n = false ∧ s.MatDone t k 0) ∧
    (q.row = 0 → ∀ bs : Nat → List Byte, (∀ i : Nat, i < 32 →
        s.engRead k q.hd (BitVec.ofInt 64 (vaInt (cAddr W 2) + (i : Int) * mStride W)) 128 = .ok (bs i)) →
      ∃ t, exec (.mldacc r) s = .next t ∧ s.AccIs t k n (fun i j => BitVec.ofNat 32 (leNat (((bs i).drop (4 * j)).take 4))) ∧
        (t.core k).mat.poison.getLsbD n = false ∧ s.MatDone t k 0) ∧
    (∀ u : Nat → State, q.row = 0 → fmOut fm ≠ 12 → (fmMode fm).isRst = false → cFlag W 0 = false →
      u 0 = s.modCluster (cluKey k) (fun c => { c with matTurn := idxOf k }) →
      (∀ i : Nat, i < 32 → (u i).engWrite k q.hd (BitVec.ofInt 64 (vaInt (cAddr W 2) + (i : Int) * mStride W))
        (accRow fm (cSat W) [] ((natsFrom 0 32).map (((u i).core k).mat.accAt n i))) = .ok (u (i + 1))) →
      ∃ t, exec (.mstacc r) s = .next t ∧ t = (u 32).matFinish k 0) ∧
    (q.bad = 0 → ∃ t, exec (.mcfgring r) s = .next t ∧
      (t.core k).mat.ring (mRing W) = { Ring.make W q.base q.carved with revoked := q.revoked, sees := q.hd.sees } ∧
      (∀ j, j ≠ mRing W → (t.core k).mat.ring j = M.ring j) ∧ s.MatDone t k 0) ∧
    (∃ t, exec (.mringstat r) s = .next t ∧ s.MatDone t k 0 ∧ (t.core k).mat.queue.head?.map (·.payload) = some (M.ring (mRing W)).report) ∧
    (a.configured = true → b.configured = true → a.revoked = false → b.revoked = false →
      s.slotBad a.carved ka (slotReads 64 (decide (cOpcode W = 0x2C))) = none →
      s.slotBad b.carved kb (slotReads (if cOpcode W = 0x2E then 32 else 64) (decide (cOpcode W = 0x2C))) = none →
      (∀ i : Instr, ((i = .mmaBf16 r ∧ cOpcode W = 0x28) ∨ (i = .mmaE4m3 r ∧ cOpcode W = 0x29) ∨ (i = .mmaE5m2 r ∧ cOpcode W = 0x2A) ∨
          (i = .mmaE4e5 r ∧ cOpcode W = 0x2B) ∨ (i = .mmaI8w4 r ∧ cOpcode W = 0x2E) ∨
          (i = .mmaE2m1 r ∧ cOpcode W = 0x2C ∧ fmBandA fm = 0 ∧ fmBandB fm = 0)) →
        ∃ t, exec i s = .next t ∧ s.MatDone t k 0 ∧ s.AccIs t k n (fun x y =>
          (mmaTile (cOpcode W) (cSat W) one one (s.slotBytes k q.hd a ka 2048) (s.slotBytes k q.hd b kb 2048)
            (s.slotBytes k q.hd a (ka + 2048) 512) (s.slotBytes k q.hd b (kb + 2048) 512) (fun x y => M.accAt n x y)).getD
              (32 * x + y) 0)) ∧
      (cOpcode W = 0x2D → s.reqs = [] → ∃ t, exec (.mmaI8 r) s = .next t ∧ s.MatDone t k 0 ∧
        s.AccIs t k n (fun x y => slice8 x y (slice8 x y (M.accAt n x y) 0) 1))) ∧
    (∀ i : Instr, i = .mmaBf16 r ∨ i = .mmaE4m3 r ∨ i = .mmaE5m2 r ∨ i = .mmaE4e5 r ∨ i = .mmaE2m1 r ∨ i = .mmaI8 r ∨ i = .mmaI8w4 r →
      a.configured = true → b.configured = true → (a.revoked = true ∨ b.revoked = true) → M.err = none →
      ∃ t e, exec i s = .next t ∧ s.MatDone t k 1 ∧ (t.core k).mat.err = some e ∧ e.cause = 0x1D ∧
        e.eaddr = slotAddr k (if a.revoked then ka else kb))) ∧
  (∀ (s : State) (k : Nat) (q : MatCmd) (rest : List MatCmd) (st : Nat), (s.core k).mat.queue = q :: rest → q.st = .done st →
    (s.core k).stopped = false →
    let W := q.hd.word
    let M := (s.core k).mat
    M.holder ≠ some endedHolder → mRingA W ≠ mRingB W →
    ∃ t, exec (.matrixCommandRetire k) s = .next t ∧ s.keepsMem t ∧ (t.core k).mat.queue = rest ∧ (t.core k).mat.acc = M.acc ∧
      (t.core k).mat.undelivered = M.undelivered + (if cNotify W then 1 else 0) ∧
      (isMma (cOpcode W) = false → (t.core k).mat.rings = M.rings) ∧
      (isMma (cOpcode W) = true →
        (t.core k).mat.ring (mRingA W) = (if cFlag W 0 then M.ring (mRingA W) else (M.ring (mRingA W)).pop) ∧
        (t.core k).mat.ring (mRingB W) = (if cFlag W 1 then M.ring (mRingB W) else (M.ring (mRingB W)).pop)))

/-! Collectives and the attention sweep (chapters 13, 16). -/

/-- R351-R354: a collective command reads its input, if its participant brings one, and sends its contribution; a router combines it
or, with its 32 entries taken, returns it to be sent again; when all are in, the result is written where the command says, and
the command retires; an abort marker ends it with a pending error.
The model's own choices that it rests on: log entries 16, 22, 70, 72, 105. -/
def Obligations.Collectives : Prop :=
  ∀ (s : State) (r : CmdRef) (q : CollCmd),
    let k := r.core
    let op := cOpcode q.hd.word
    let idx := rankOf k - crRank0 q.rcd
    let key := crKey q.rcd
    (∀ (i : Instr), s.CollReady r q → q.sent = false →
      ((i = .nred r ∧ op = 0xC0) ∨ (i = .nallred r ∧ op = 0xC1) ∨ (i = .nbcast r ∧ op = 0xC2) ∨ (i = .nbar r ∧ op = 0xC3)) →
      ∀ bs, ((op = 0xC0 ∨ op = 0xC1 ∨ (op = 0xC2 ∧ idx = crRoot q.rcd)) → s.engRead k q.hd (crIn q.rcd) (64 * crLines q.rcd) = .ok bs) →
        (¬(op = 0xC0 ∨ op = 0xC1 ∨ (op = 0xC2 ∧ idx = crRoot q.rcd)) → bs = q.bytes) →
        ∃ t, exec i s = .next t ∧ t.coll? r = some { q with bytes := bs, sent := true, st := .waiting } ∧
          t.pending = s.pending ++ [.collectiveContribution r (cluKey k)] ∧ s.keepsMem t ∧ ∀ j n, t.ctx j n = s.ctx j n) ∧
    (∀ router, s.coll? r = some q → q.sent = true → q.back = none → q.cause = 0 → s.collOf key idx = none ∨
        (∃ c, s.collOf key idx = some c ∧ c.agrees q = true ∧ tfind idx c.parts = none) →
      ((key ∈ (s.cluster router).combining ∨ (s.cluster router).combining.length < 32) →
        ∃ t c, exec (.collectiveContribution r router) s = .next t ∧ t.collOf key idx = some c ∧ tfind idx c.parts = some q.bytes ∧
          (c.ready = false → key ∈ (t.cluster router).combining) ∧ (c.ready = true → key ∉ (t.cluster router).combining) ∧
          s.keepsMem t ∧ ∀ j n, t.ctx j n = s.ctx j n) ∧
      (key ∉ (s.cluster router).combining → 32 ≤ (s.cluster router).combining.length →
        ∃ t, exec (.collectiveContribution r router) s = .next t ∧ s.keepsMem t ∧ t.pending = s.pending ∧
          t.coll? r = some { q with back := some (s.cycleOf k) })) ∧
    (∀ since, s.coll? r = some q → q.back = some since →
      (s.feGapOver k since = true → ∃ t, exec (.collectiveContribResend r) s = .next t ∧ s.keepsMem t ∧
        t.pending = s.pending ++ [.collectiveContribution r (cluKey k)] ∧ t.coll? r = some { q with back := none }) ∧
      (s.feGapOver k since = false → exec (.collectiveContribResend r) s = .next s)) ∧
    (∀ c, s.coll? r = some q → q.st = .waiting → (s.core k).stopped = false → q.sent = true → s.collOf key idx = some c →
      c.ready = true →
      (c.aborted = none → (s.chip (dieOf k)).xset c.cid = none →
        (∀ u, (c.opcode = 0xC1 ∨ c.opcode = 0xC2 ∨ (c.opcode = 0xC0 ∧ idx = c.root)) →
          s.engWrite k q.hd (crOut q.rcd) (s.collResult k c) = .ok u →
          ∃ t, exec (.collectiveComplete r) s = .next t ∧ u.keepsMem t ∧ .collectiveComplete r ∈ t.pending) ∧
        (¬(c.opcode = 0xC1 ∨ c.opcode = 0xC2 ∨ (c.opcode = 0xC0 ∧ idx = c.root)) →
          ∃ t, exec (.collectiveComplete r) s = .next t ∧ s.keepsMem t ∧ t.coll? r = some { q with st := .done 0 })) ∧
      (∀ j cause, c.aborted = some (j, cause) → q.cause = 0 → (s.ctx k q.hd.ctx).copyErr = none →
        ∃ t e, exec (.collectiveComplete r) s = .next t ∧ s.keepsMem t ∧ t.coll? r = some { q with st := .done 1 } ∧
          (t.ctx k q.hd.ctx).copyErr = some e ∧ e.cause = cause ∧ e.eaddr = 0 ∧ e.einfo = BitVec.ofNat 64 j)) ∧
    (∀ n, s.coll? r = some q → q.st = .done n → (s.core k).stopped = false →
      (s.engHome k = true → ∃ t, exec (.collectiveComplete r) s = .next t ∧ s.keepsMem t ∧
        (t.core k).collQ = dropFirst (fun (x : CollCmd) => x.hd.seq = r.seq) (s.core k).collQ) ∧
      (s.engHome k = false → ∃ t, exec (.collectiveComplete r) s = .next t ∧ t = s.plan (.collectiveComplete r))) ∧
    (∀ c : Coll, c.opcode = 0xC2 → s.collResult k c = tget [] c.root c.parts)

/-- R409, R410, R412, R416-R418, R421: the six commands of the attention sweep.
The model's own choices that it rests on: log entries 13, 48, 72. -/
def Obligations.SweepCommands : Prop :=
  ∀ (s : State) (r : CmdRef) (q : SweepCmd), s.SweepReady r q →
    let W := q.hd.word
    let n := swNum W
    let clu := cluKey r.core
    (tfind n s.sweeps = none → ∃ t, exec (.asopen r) s = .next t ∧ s.SweepEnded t r q 0 0 ∧
      tfind n t.sweeps = some
        { st := .opened, pblk := cBits W 2 9 0, hd := cBits W 3 8 0, keyid := cBits W 3 21 16, det := cDet W, bound := 0, closer := none } ∧
      ∀ m, m ≠ n → tfind m t.sweeps = tfind m s.sweeps) ∧
    (∀ x, tfind n s.sweeps = some x → ∃ t, exec (.asopen r) s = .next t ∧ s.SweepEnded t r q 0 1 ∧ t.sweeps = s.sweeps) ∧
    (∃ t, exec (.asub r) s = .next t ∧ t = s.plan (.subscriptionAtPage r)) ∧
    (∀ x, tfind n s.sweeps = some x →
      (x.st = .opened → ∃ t, exec (.asclose r) s = .next t ∧ tfind n t.sweeps = some { x with st := .sweeping, closer := some r } ∧
        s.keepsMem t ∧ .sweepClosedDone n ∈ t.pending ∧
        ∀ c e, (c, e) ∈ s.clusters → ∀ p ∈ e.pages, p.sweep = n → p.st = .opened → .pageReadComplete c n p.pa ∈ t.pending) ∧
      (x.st ≠ .opened → ∃ t, exec (.asclose r) s = .next t ∧ s.SweepEnded t r q 0 1 ∧ t.sweeps = s.sweeps)) ∧
    (q.entry = true → (∀ u ∈ (s.core r.core).subs, u.st ≠ .parked) →
      (∀ u, s.sub? r.core (swName W) = some u → u.st = .delivered → u.apart = none →
        ∃ t, exec (.apart r) s = .next t ∧ t.sub? r.core (swName W) = some { u with apart := some r.seq, poff := swOff W } ∧
          .partialArrival r.core n (swName W).page ∈ t.pending ∧ s.keepsMem t) ∧
      (s.sub? r.core (swName W) = none → ∃ t, exec (.apart r) s = .next t ∧ s.SweepEnded t r q 0 1)) ∧
    (cBits W 2 7 0 ≠ 0 → ∃ t, exec (.amcfg r) s = .next t ∧ s.SweepEnded t r q 0 0 ∧
      t.merge clu = { Merge.none with off := cBits W 1 12 0, nslots := cBits W 2 7 0, nentries := cBits W 2 24 16, hd := cBits W 3 8 0 }) ∧
    (cBits W 2 7 0 = 0 → ∃ t, exec (.amcfg r) s = .next t ∧ s.SweepEnded t r q 0 0 ∧ t.merge clu = Merge.none) ∧
    (∀ qs, qs = cBits W 1 23 0 →
      (s.qslot qs = none → ∃ t, exec (.amread r) s = .next t ∧ s.SweepEnded t r q 0 1) ∧
      (∀ x, s.qslot qs = some x →
        (swLast W = true → ∃ t, exec (.amread r) s = .next t ∧ s.SweepEnded t r q 0 0 ∧ t.qslot qs = none) ∧
        (swLast W = false →
          (x.st = .bound → ∃ t, exec (.amread r) s = .next t ∧ s.keepsMem t ∧ t.qslot qs = some x ∧
            t.sweep? r = some { q with entry := false, registered := true, since := if q.registered then q.since else s.timeOf r.core }) ∧
          (∀ u, x.st = .complete → (s.handOver r).engWrite r.core q.hd (cAddr W 2) (x.bytes (if cOp W 4 = 9 then .f32 else .bf16)) = .ok u →
            ∃ t, exec (.amread r) s = .next t ∧ u.keepsMem t ∧ t.qslot qs = none) ∧
          (∀ cause, x.st = .error cause → (s.ctx r.core q.hd.ctx).copyErr = none → ∃ t e, exec (.amread r) s = .next t ∧
            s.SweepEnded t r q 1 0 ∧ t.qslot qs = none ∧ (t.ctx r.core q.hd.ctx).copyErr = some e ∧ e.cause = cause))))

/-- R408, R410, R412-R416, R418-R421: what happens to subscriptions, pages, deliveries and partials: a subscription is registered at
its slot or refused with its reason, and enters its page's list; a fetched page is sent to every subscriber; a delivery writes the
page and fills the flag word when that is EMPTY; a partial that lands is merged, and one that does not is parked and sent again; a
time limit ends a wait with MERGE_TIMEOUT; a sweep with nothing left to send is done.
The model's own choices that it rests on: log entries 13, 16, 55. -/
def Obligations.SweepEvents : Prop :=
  ∀ (s : State) (r : CmdRef) (q : SweepCmd) (core sweep : Nat) (at_ : QIdx),
    let W := q.hd.word
    let n := swNum W
    let sub : SubName := { sweep := sweep, page := at_ }
    let qs := at_.qs
    (s.sweep? r = some q → q.registered = false → (s.ctx r.core q.hd.ctx).wait = .asub r.seq → q.hd.ctx < 8 →
      (tfind n s.sweeps = none → ∃ t, exec (.subscriptionAtSlot r) s = .next t ∧ s.Trapped t r.core q.hd.ctx 0x32 1 ∧ s.keepsMem t) ∧
      (∀ x, tfind n s.sweeps = some x →
        (s.slotReason W x r.core ≠ 0 → ∃ t, exec (.subscriptionAtSlot r) s = .next t ∧
          s.Trapped t r.core q.hd.ctx 0x32 (BitVec.ofNat 64 (s.slotReason W x r.core)) ∧ s.keepsMem t) ∧
        (s.slotReason W x r.core = 0 → x.st ≠ .closedDone → ∃ t y u, exec (.subscriptionAtSlot r) s = .next t ∧
          t.qslot (swQs W) = some y ∧ swIdx W ∈ y.idxs ∧ r.core ∈ y.ranks ∧ (s.qslot (swQs W) = none → y.sweep = n ∧ y.st = .bound) ∧
          (t.core r.core).subs = (s.core r.core).subs ++ [u] ∧ u.sweep = n ∧ u.qs = swQs W ∧ u.idx = swIdx W ∧ u.loff = swOff W ∧
          u.st = .waiting ∧ (t.ctx r.core q.hd.ctx).pc = (s.ctx r.core q.hd.ctx).pc + 4 ∧ (t.ctx r.core q.hd.ctx).wait = .none ∧
          .subscriptionAtPage { core := r.core, seq := (s.core r.core).sweepSeq } ∈ t.pending))) ∧
    (∀ x, let pa := swPa W
      let ctl := (s.locOfKey pa 0).clu
      s.sweep? r = some q → tfind n s.sweeps = some x → q.registered = true → (s.cluster ctl).waitingSubs = [] →
      (s.cluster ctl).kvEntries < 1024 → (s.cluster ctl).marks.contains (n, pa) = false →
      ((s.cluster ctl).kvPage n pa = none → (s.cluster ctl).pages.length < 64 → x.st = .opened →
        ∃ t, exec (.subscriptionAtPage r) s = .next t ∧ s.SweepEnded t r q 0 0 ∧
          (t.cluster ctl).kvPage n pa = some { sweep := n, pa := pa, st := .opened, copy := [], subs := [kvSubOf r W] }) ∧
      (∀ p, (s.cluster ctl).kvPage n pa = some p → p.st ≠ .sending → ∃ t, exec (.subscriptionAtPage r) s = .next t ∧
        s.SweepEnded t r q 0 0 ∧ (t.cluster ctl).kvPage n pa = some { p with subs := p.subs ++ [kvSubOf r W] })) ∧
    (∀ ctl m pa p x, (s.cluster ctl).kvPage m pa = some p → tfind m s.sweeps = some x → p.st = .fetching →
      (s.kvOpen ctl x pa = false → ∃ t, exec (.pageReadComplete ctl m pa) s = .next t ∧ t = s.plan (.pageReadComplete ctl m pa)) ∧
      (∀ bs, s.kvOpen ctl x pa = true → s.kvRead x pa = .ok bs → ∃ t, exec (.pageReadComplete ctl m pa) s = .next t ∧ s.keepsMem t ∧
        (p.subs ≠ [] → (t.cluster ctl).kvPage m pa = some { p with st := .sending, copy := bs }) ∧
        ∀ u ∈ p.subs, .sweepDelivery u.core m { qs := u.qs, idx := u.idx } ∈ t.pending)) ∧
    (∀ ctl d, s.kvDelivery core sub = some (ctl, d) → s.fes = [] →
      let base := lmemKey core d.sub.loff
      let len := d.bytes.length
      let w := lmemKey core ((d.sub.loff + len) % 65536)
      (s.subWaits core sub = false → ∃ t, exec (.sweepDelivery core sweep at_) s = .next t ∧ s.keepsMem t ∧ t.fes = []) ∧
      (s.subWaits core sub = true → s.pathOpen (s.epOfClu ctl) (s.epOfCore core) = true → s.coreGone (ownerOf w) = false →
        (w ∉ s.full → d.sub.loff + len + 8 ≤ 65536 → ∃ t, exec (.sweepDelivery core sweep at_) s = .next t ∧ w ∈ t.full ∧ t.fes = [] ∧
          Memory.bytes t.mem base len = d.bytes ∧ Memory.bytes t.mem w 8 = leBytes 8 (flagWord d).toNat ∧
          s.keepsBut t (natsFrom base len ++ natsFrom w 8) ∧
          ∀ u ∈ (t.core core).subs, u.name = sub → u.st = .delivered) ∧
        (w ∈ s.full → ∃ t f, exec (.sweepDelivery core sweep at_) s = .next t ∧ s.keepsMem t ∧ t.fes = [f] ∧ f.word = w ∧ f.st = 1))) ∧
    ((∀ f ∈ s.fes, ¬(f.op = 6 ∧ f.core = core ∧ f.sub = sub ∧ f.st = 2)) → exec (.sweepDeliveryResend core sweep at_) s = .next s) ∧
    (∀ f ctl d, s.fes = [f] → f.op = 6 → f.core = core → f.sub = sub → f.st = 2 → f.ctx = 8 → f.remote = true → f.word ∉ s.full →
      s.subWaits core sub = true → s.coreGone (ownerOf f.word) = false → s.kvDelivery core sub = some (ctl, d) →
      (s.feGapOver core f.since = false → exec (.sweepDeliveryResend core sweep at_) s = .next s) ∧
      (s.feGapOver core f.since = true → ∃ t, exec (.sweepDeliveryResend core sweep at_) s = .next t ∧ f.word ∈ t.full ∧ t.fes = [] ∧
        Memory.bytes t.mem f.word 8 = leBytes 8 f.data.toNat)) ∧
    (∀ x m, tfind m s.sweeps = some x → (∀ e ∈ s.clusters, ∀ p ∈ e.2.pages, p.sweep ≠ m) →
      (x.st = .sweeping → x.closer = none → x.bound ≠ 0 → ∃ t, exec (.sweepClosedDone m) s = .next t ∧ s.keepsMem t ∧
        tfind m t.sweeps = some { x with st := .closedDone }) ∧
      (x.st = .closedDone → x.bound = 0 → ∃ t, exec (.sweepClosedDone m) s = .next t ∧ s.keepsMem t ∧ tfind m t.sweeps = none) ∧
      (x.st = .opened → exec (.sweepClosedDone m) s = .next s)) ∧
    (∀ u y x seq bs, s.sub? core sub = some u → u.apart = some seq → u.st = .delivered → s.sweep? { core := core, seq := seq } = none →
      s.pathOpen (s.epOfCore core) (s.epOfClu (qsClu qs)) = true → s.qslot qs = some y → tfind u.sweep s.sweeps = some x →
      y.st = .bound → y.sweep = u.sweep → s.partialBytes core u.poff x.hd = .ok bs → (s.merge (qsClu qs)).entries = [] → y.next = at_.idx →
      ((s.merge (qsClu qs)).nslots < (s.merge (qsClu qs)).nentries → ∃ t z, exec (.partialArrival core sweep at_) s = .next t ∧ s.keepsMem t ∧
        t.qslot qs = some z ∧ z.count = y.count + 1 ∧ z.next = y.next + 1 ∧ (t.merge (qsClu qs)).entries = [] ∧
        (let e := y.merge (word32 bs 0) (word32 bs 1) ((natsFrom 16 x.hd).map (word32 bs))
         z.m = e.m ∧ z.l = e.l ∧ z.o = e.o) ∧ z.st = (if y.n = some (y.next + 1) then .complete else .bound) ∧
        (t.core core).subs = dropFirst (fun (v : Sub) => v.name = sub) (s.core core).subs)) ∧
    (∀ u, s.sub? core sub = some u → u.st = .parked → u.apart ≠ none →
      (s.feGapOver core u.nackAt = true → ∃ t, exec (.partialResend core sweep at_) s = .next t ∧
        t.sub? core sub = some { u with st := .delivered } ∧ .partialArrival core sweep at_ ∈ t.pending ∧ s.keepsMem t) ∧
      (s.feGapOver core u.nackAt = false → exec (.partialResend core sweep at_) s = .next s)) ∧
    (∀ x, s.sweep? r = some q → cOpcode W = 0xA5 → q.registered = true → s.qslot (cBits W 1 23 0) = some x → x.st = .bound →
      (s.mbExpired (qsClu (cBits W 1 23 0)) (s.timeOf r.core) q.since = true → (s.ctx r.core q.hd.ctx).copyErr = none →
        ∃ t e, exec (.mbTimeoutExpiry true r) s = .next t ∧ s.SweepEnded t r q 1 0 ∧ (t.ctx r.core q.hd.ctx).copyErr = some e ∧ e.cause = 0x33) ∧
      (s.mbExpired (qsClu (cBits W 1 23 0)) (s.timeOf r.core) q.since = false → exec (.mbTimeoutExpiry true r) s = .next s))

/-! Contexts (chapter 09) and the end of a strand (R327, R329). -/

/-- R264, R266-R272: who may name a context and what each designator instruction does with it: CSAVE writes the image of a stopped
target, CREST replaces the state of a saved one by an image, CRESUME and TRET let a target go on, CKILL ends one.
The model's own choices that it rests on: log entries 27, 56, 57, 58, 93, 94. -/
def Obligations.ContextInstructions : Prop :=
  ∀ (s : State) (rs1 rs2 : Reg) (k n : Nat),
    let d := s.rx rs1
    let va := s.rx rs2
    let x := s.ctx k n
    (∀ i, i ∈ [Instr.csave rs1 rs2, .crest rs1 rs2, .cresume rs1, .ckill rs1] →
      (s.cur.super = false → ∃ t, exec i s = .next t ∧ s.TakesTrap t cPRIVILEGE 0 0 s.cur.pc) ∧
      (s.cur.super = true → d.getLsbD 8 = false →
        (16 < bits d 7 3 → ∃ t, exec i s = .next t ∧ s.TakesTrap t cDEAD_DESTINATION d 0 s.cur.pc) ∧
        (bits d 7 3 ≤ 16 → isCompute s.curCore = true → bits d 7 3 ≠ idxOf s.curCore →
          ∃ t, exec i s = .next t ∧ s.TakesTrap t cPRIVILEGE 0 0 s.cur.pc))) ∧
    (s.MayName d k n → d.getLsbD 24 = true → x.tseq ≠ bits d 23 16 →
      (∃ t, exec (.cresume rs1) s = .next t ∧ s.Passes t) ∧ (∃ t, exec (.ckill rs1) s = .next t ∧ s.Passes t) ∧
      (bits va 5 0 = 0 → (∃ t, exec (.csave rs1 rs2) s = .next t ∧ s.Passes t) ∧ ∃ t, exec (.crest rs1 rs2) s = .next t ∧ s.Passes t)) ∧
    (s.MayName d k n → bits va 5 0 ≠ 0 →
      (∃ t, exec (.csave rs1 rs2) s = .next t ∧ s.TakesTrap t cCONTEXT_SAVE_FAULT va (BitVec.ofNat 64 cSTORE_ACCESS) s.cur.pc) ∧
      ∃ t, exec (.crest rs1 rs2) s = .next t ∧ s.TakesTrap t cCONTEXT_SAVE_FAULT va (BitVec.ofNat 64 cLOAD_ACCESS) s.cur.pc) ∧
    (∀ u ls, s.Names d k n → s.NotSelf k n → bits va 5 0 = 0 → s.here.watch = [] → s.settled →
      s.cur.wait = .none → x.running = true ∨ x.st = .trapped ∨ x.st = .saved → x.wait = .none ∨ (x.running = false ∧ x.wait = .stop) →
      u = (if x.running = true then s.stopCtx k n cSAVE_REQUEST else s) → u.stopped k n = true →
      u.places u.whoCur .store va 512 = .ok ls →
      (∀ l ∈ ls, u.wayOpen s.curCore l = true ∧ (l.kind = .own ∨ u.ahead s.curCore l.die = false)) →
      ∃ t, exec (.csave rs1 rs2) s = .next t ∧ (t.ctx k n).st = .saved ∧ (t.ctx k n).prior = (u.ctx k n).prior ∧
        (t.ctx k n).epc = (if x.running = true then x.pc else x.epc) ∧ (∀ r, (t.ctx k n).rx r = x.rx r) ∧
        t.cur.pc = s.cur.pc + 4 ∧ (∀ r, t.rx r = s.rx r) ∧
        (Loc.Apart ls → ∀ b ∈ ls.zip (wordBytes ({ u.ctx k n with
            stop := if (u.ctx k n).wait = Wait.stop ∧ (u.ctx k n).stop = cSAVE_REQUEST then cSAVE_REQUEST else 0 }.image n (u.ctx k n).epc)), t.byteAt b.1 = b.2)) ∧
    (∀ (c : Ctx) (e : Word), (c.image n e).length = 64 ∧ (c.image n e).getD 0 0 = e ∧ (c.image n e).getD 63 0 = 0x0200E1C0 ∧
      (∀ r : Reg, r ≠ 0 → (c.image n e).getD r.toNat 0 = c.rx r) ∧ (∀ m : MReg, (c.image n e).getD (32 + m.toNat) 0 = c.rm m)) ∧
    (∀ ls, s.Names d k n → s.NotSelf k n → bits va 5 0 = 0 → s.here.watch = [] →
      (x.st ≠ .saved → ∃ t, exec (.crest rs1 rs2) s = .next t ∧ s.Passes t) ∧
      (x.st = .saved → s.places s.whoCur .load va 512 = .ok ls → s.waysOpen s.curCore ls = true →
        let img := imgWord (ls.map (s.seenByte s.curCore s.curCtx))
        (img 63 ≠ 0x0200E1C0 → ∃ t, exec (.crest rs1 rs2) s = .next t ∧ s.TakesTrap t cCONTEXT_SAVE_FAULT (va + 504) 0 s.cur.pc) ∧
        (img 63 = 0x0200E1C0 → ((img 45).getLsbD 7 ≠ x.super ∨ bits (img 45) 9 8 ≠ if 6 ≤ n then 1 else 0) →
          ∃ t, exec (.crest rs1 rs2) s = .next t ∧ s.TakesTrap t cSECURITY_VIOLATION (va + 360) 0 s.cur.pc) ∧
        (img 63 = 0x0200E1C0 → (img 45).getLsbD 7 = x.super → (bits (img 45) 9 8 = if 6 ≤ n then 1 else 0) →
          ∃ t y, exec (.crest rs1 rs2) s = .next t ∧ t.ctx k n = y ∧ y.st = .saved ∧ y.tseq = x.tseq ∧ y.wasTrapped = x.wasTrapped ∧
            y.super = x.super ∧ y.epc = img 0 &&& ~~~3 ∧ (∀ r : Reg, r ≠ 0 → y.rx r = img r.toNat) ∧
            (∀ m : MReg, y.rm m = img (32 + m.toNat)) ∧ y.vtype = img 40 ∧ y.ecause = img 42 &&& 63 ∧ y.eaddr = img 43 ∧
            y.einfo = img 44 ∧ t.cur = { s.cur with pc := s.cur.pc + 4 } ∧ s.keepsMem t))) ∧
    (s.Names d k n →
      (x.st ≠ .trapped ∧ x.st ≠ .saved → ∃ t, exec (.cresume rs1) s = .next t ∧ s.Passes t) ∧
      (x.st = .trapped ∨ x.st = .saved → s.NotSelf k n → ∃ t, exec (.cresume rs1) s = .next t ∧
        t.ctx k n = { x with st := x.prior, pc := x.epc, wait := .none, starved := 0 } ∧ t.cur = { s.cur with pc := s.cur.pc + 4 } ∧
        (∀ e ∈ (t.core k).notices, e.1 ≠ n) ∧ s.keepsMem t)) ∧
    (s.Names d k n → x.st = .free ∨ x.st = .dormant ∨ x.st = .quarantined → ∃ t, exec (.ckill rs1) s = .next t ∧ s.Passes t) ∧
    (s.Names d k n → (¬s.NotSelf k n ∧ x.running = true) ∨
        (s.NotSelf k n ∧ (x.st = .trapped ∨ x.st = .saved) ∧ (x.wait ≠ .stop ∨ s.messagesOf k n = false)) →
      let last := s.strandsOf k x.slot = [n]
      (n < 6 → ¬last → x.cause = 0 → s.mutexesOf k n = [] →
        (∀ kid g y, s.groupAt k x.slot = some (kid, g) → s.kernel? kid = some y →
          (y.group g).st ≠ .parked ∧ (x.policyDue = false ∨ kdPolicy y.desc ≠ 2)) → ∃ t, exec (.ckill rs1) s = .next t ∧ x.Freed (t.ctx k n) ∧
        (s.NotSelf k n → t.cur.pc = s.cur.pc + 4) ∧ (∀ q ∈ (t.core k).copyQ, q.hd.ctx ≠ n) ∧ s.keepsMem t) ∧
      (∀ kid g y, n < 6 → last ∨ x.cause ≠ 0 → s.groupAt k x.slot = some (kid, g) → s.kernel? kid = some y → y.st = .running →
        (y.group g).bound = true → kdPolicy y.desc = 0 → ∃ t z, exec (.ckill rs1) s = .next t ∧ (t.ctx k n).st = .free ∧
          t.kernel? kid = some z ∧ z.st = .aborting ∧ s.keepsMem t ∧
          (y.cause = 0 → z.cause = if x.cause = 0 then cKERNEL_ABORTED else x.cause)) ∧
      (6 ≤ n → ∃ t, exec (.ckill rs1) s = .next t ∧ (t.ctx k n).st = .dormant ∧ (t.ctx k n).words = [] ∧ s.keepsMem t ∧
        (x.resv ≠ 0 → (t.chan k x.resvChan).prodResv = (s.chan k x.resvChan).prodResv - x.resv))) ∧
    (¬(s.cur.st = .firing ∧ s.cur.chan = 31) → ∃ t, exec .tret s = .next t ∧ s.Traps t cPRIVILEGE 0 0 s.cur.pc) ∧
    (s.cur.st = .firing → s.cur.chan = 31 → s.cur.copyErr = none → s.Names (s.cur.words.headD 0) k n → s.NotSelf k n →
      x.st = .trapped ∨ x.st = .saved → ∃ t, exec .tret s = .next t ∧ t.cur.st = .dormant ∧
        t.ctx k n = { x with st := x.prior, pc := x.epc, wait := .none, starved := 0 } ∧ s.keepsMem t)

/-- R327-R329: RETIRE waits until the strand's commands and messages are done, delivers a pending error or frees the context, and with
the last strand the group retires: it is recorded, and a token goes to each successor; GYIELD gives the core to the other group
until each of its strands has issued, none is eligible, or 1,024 cycles have passed.
The model's own choices that it rests on: log entry 49. -/
def Obligations.StrandsEnd : Prop :=
  ∀ s : State,
    let k := s.curCore
    let n := s.curCtx
    let c := s.cur
    let others := s.otherStrands k c.slot
    (c.st ≠ .strand →
      (∃ t, exec .retire s = .next t ∧ s.TakesTrap t cPRIVILEGE 0 0 c.pc) ∧
      ∃ t, exec .gyield s = .next t ∧ s.TakesTrap t cPRIVILEGE 0 0 c.pc) ∧
    (c.st = .strand → s.mutexesOf k n ≠ [] → ∃ t, exec .retire s = .next t ∧ s.Traps t cBARRIER_MISMATCH 0 0 c.pc) ∧
    (c.st = .strand → s.mutexesOf k n = [] →
      ((∃ q ∈ s.here.copyQ, q.hd.ctx = n) ∨ (∃ q ∈ s.here.collQ, q.hd.ctx = n) → ∃ t, exec .retire s = .next t ∧ s.Waits t .engine) ∧
      ((∀ q ∈ s.here.copyQ, q.hd.ctx ≠ n ∧ (q.hd.slot = c.slot → 6 ≤ q.hd.ctx)) → (∀ q ∈ s.here.collQ, q.hd.ctx ≠ n) →
        s.copyWords k n = false →
        (s.messagesOf k n = true → ∃ t, exec .retire s = .next t ∧ s.Waits t .window) ∧
        (s.messagesOf k n = false →
          (s.strandsOf k c.slot ≠ [n] → c.xportErr = none →
            (c.copyErr = none → ∃ t, exec .retire s = .next t ∧ c.Freed t.cur ∧ s.keepsOthers t ∧ s.keepsMem t) ∧
            (∀ e, c.copyErr = some e → ∃ t, exec .retire s = .next t ∧ s.Traps t e.cause e.eaddr e.einfo c.pc ∧ t.cur.copyErr = none)) ∧
          (∀ kid g y, s.strandsOf k c.slot = [n] → c.copyErr = none → c.xportErr = none → s.here.mat.err = none →
            s.here.mat.holder = none → s.groupStores k n (s.groupAt k c.slot) = false → s.groupAt k c.slot = some (kid, g) → s.kernel? kid = some y →
            y.st = .running → ∃ t z, exec .retire s = .next t ∧ t.cur.st = .free ∧ t.kernel? kid = some z ∧ g ∈ z.retired ∧
              (z.group g).st = .retired ∧ t.Carries (y.homeChip g) (edgeDie (queueOf kid)) (.groupRetirementReport kid g) ∧
              (∀ p ∈ gSuccs y.desc g, t.Carries (y.homeChip g) (y.homeChip p) (.retirementToken kid p g)) ∧ s.keepsMem t)))) ∧
    (c.st = .strand →
      (others = [] → exec .gyield s = exec .yield s) ∧
      (others ≠ [] → (∀ m ∈ others, s.eligible k m = false) → ∃ t, exec .gyield s = .next t ∧ s.Passes t) ∧
      ((∃ m ∈ others, s.eligible k m = true) → ∃ t, exec .gyield s = .next t ∧ s.keepsOthers t ∧ s.keepsMem t ∧
        t.cur = { c with pc := c.pc + 4 } ∧ tfind c.slot (t.core k).gives = some (s.cycleOf k, others) ∧
        (∀ m, (t.ctx k m).st = .strand → (t.ctx k m).slot = c.slot → t.eligible k m = false) ∧ .gyieldTimeout k n ∈ t.pending)) ∧
    (∀ j m, ∃ t, exec (.gyieldTimeout j m) s = .next t ∧ s.keepsMem t ∧ (∀ i l, t.ctx i l = s.ctx i l) ∧
      (∀ e, e ∈ (t.core j).gives ↔ e ∈ (s.core j).gives ∧ (∃ p ∈ e.2.2, s.eligible j p = true) ∧ s.cycleOf j - e.2.1 < 1024) ∧
      ((t.core j).gives ≠ [] → .gyieldTimeout j m ∈ t.pending)) ∧
    (∀ j p e, e ∈ ((s.noteIssue j p).core j).gives → p ∉ e.2.2)

/-! Work queues and kernels (chapter 11). -/

/-- R296-R302, R315: WQPOP and WQPOPT take the record at the head of a queue, or wait or say why not; WQPUSH and LAUNCH append one;
the host's commands and tail writes move a queue between its states.
The model's own choices that it rests on: log entries 35, 50. -/
def Obligations.WorkQueues : Prop :=
  ∀ (s : State) (rd rs1 rs2 : Reg) (q : Nat),
    let buf := s.rx rs2
    let w := s.wq q
    let live := w.st = .opened ∨ w.st = .suspended ∨ w.st = .draining
    (∀ i, i ∈ [Instr.wqpop rd rs1 rs2, .wqpopt rd rs1 rs2] →
      (bits (s.rx rs1) 63 10 ≠ 0 → ∃ t, exec i s = .next t ∧ s.Puts t rd 6) ∧
      (s.rx rs1 = BitVec.ofNat 64 q → q < 1024 →
        (bits buf 5 0 ≠ 0 → ∃ t, exec i s = .next t ∧ s.TakesTrap t cSTORE_ACCESS buf 0 s.cur.pc) ∧
        (∀ ls, bits buf 5 0 = 0 → s.here.watch = [] → s.places s.whoCur .store buf 64 = .ok ls →
          (s.cur.super = false → w.userPop = false → ∃ t, exec i s = .next t ∧ s.Puts t rd 5) ∧
          (s.cur.super = true ∨ w.userPop = true →
            (∀ n, n = (if w.st = .closed then 2 else if w.st = .disabled then 3 else 4) → ¬live →
              ∃ t, exec i s = .next t ∧ s.Puts t rd (BitVec.ofNat 64 n)) ∧
            (w.st = .opened ∨ w.st = .draining → w.held ≠ 0 → recKind (w.nth 0) = 2 → w.waiters = [] → s.cur.wait = .none →
              (∀ l ∈ ls, s.wayOpen s.curCore l = true ∧ (l.kind = .own ∨ s.ahead s.curCore l.die = false)) →
              ∃ t, exec i s = .next t ∧ s.Stores t (ls.zip (leBytes 64 (w.nth 0).toNat)) rd 0 ∧
                (t.wq q).head = (w.head + 1) % 65536 ∧ (t.wq q).tail = w.tail) ∧
            (live → w.st = .suspended ∨ w.held = 0 ∨ recKind (w.nth 0) ≠ 2 →
              (s.cur.st = .firing → ∃ t, exec (.wqpop rd rs1 rs2) s = .next t ∧ s.TakesTrap t cHANDLER_BLOCKED 0 0 s.cur.pc) ∧
              (∃ t, exec (.wqpopt rd rs1 rs2) s = .next t ∧ s.Puts t rd 1) ∧
              (s.cur.st ≠ .firing → w.waiters.length < 64 → ∃ t, exec (.wqpop rd rs1 rs2) s = .next t ∧ t.cur = { s.cur with wait := .wq q rd buf } ∧
                t.wq q = { w with waiters := w.waiters ++ [(s.curCore, s.curCtx)] } ∧ s.keepsOthers t ∧ s.keepsMem t) ∧
              (s.cur.st ≠ .firing → 64 ≤ w.waiters.length →
                ∃ t, exec (.wqpop rd rs1 rs2) s = .next t ∧ s.Waits t (.wqRetry q (s.cycleOf s.curCore)))))))) ∧
    (s.cur.super = false → s.cur.xportErr = none →
      ∃ t, exec (.launch rd rs1 rs2) s = .next t ∧ s.TakesTrap t cPRIVILEGE 0 0 s.cur.pc) ∧
    (∀ ls, s.cur.super = false → s.cur.xportErr = none → s.rx rs1 = BitVec.ofNat 64 q → q < 1024 → bits buf 5 0 = 0 →
      s.here.watch = [] → s.spots s.whoCur .load buf 64 = .ok ls → w.userPush = false →
      ∃ t, exec (.wqpush rd rs1 rs2) s = .next t ∧ s.Puts t rd 5) ∧
    (∀ i kind, (i, kind) ∈ [(Instr.wqpush rd rs1 rs2, 2), (.launch rd rs1 rs2, 1)] → s.cur.xportErr = none →
      s.cur.super = true ∨ (kind = 2 ∧ w.userPush = true) →
      (bits (s.rx rs1) 63 10 ≠ 0 → ∃ t, exec i s = .next t ∧ s.Puts t rd 6) ∧
      (s.rx rs1 = BitVec.ofNat 64 q → q < 1024 →
        (bits buf 5 0 ≠ 0 → ∃ t, exec i s = .next t ∧ s.TakesTrap t cLOAD_ACCESS buf 0 s.cur.pc) ∧
        (∀ ls r, bits buf 5 0 = 0 → s.here.watch = [] → s.places s.whoCur .load buf 64 = .ok ls → s.waysOpen s.curCore ls = true →
          r = BitVec.ofNat 512 (leNat (ls.map (s.seenByte s.curCore s.curCtx))) →
          (recKind r ≠ kind → ∃ t, exec i s = .next t ∧ s.Puts t rd 6) ∧
          (recKind r = kind → (kind = 2 → rBytes r 1 3 = 0) →
            (w.st ≠ .opened → w.st ≠ .suspended → ∃ t, exec i s = .next t ∧ s.Puts t rd 3) ∧
            (w.st = .opened ∨ w.st = .suspended →
              (64 ≤ w.held → ∃ t, exec i s = .next t ∧ s.Puts t rd 1) ∧
              (w.held < 64 → s.settled → w.waiters = [] → ∃ t, exec i s = .next t ∧
                s.Completes t rd (if kind = 1 then BitVec.ofNat 64 ((q * 2 ^ 22 + w.launches % 2 ^ 22) * 2 ^ 32) else 0) ∧
                (t.wq q).slots = tset (w.tail % 64) r w.slots ∧ (t.wq q).tail = (w.tail + 1) % 65536 ∧ (t.wq q).head = w.head ∧
                (t.wq q).launches = w.launches + if kind = 1 then 1 else 0)))))) ∧
    (∀ tail d, d = (tail % 65536 + 65536 - w.tail) % 65536 →
      (¬live → ∃ t, exec (.wqTailWrite q tail) s = .next t ∧ t.wq q = w ∧ s.keepsMem t) ∧
      (live → w.userPush = true → w.waiters = [] → ∃ t, exec (.wqTailWrite q tail) s = .next t ∧
        t.wq q = { w with st := .error, err := 3 } ∧ q ∈ t.trust.msix) ∧
      (live → w.userPush = false → w.waiters = [] →
        (32768 ≤ d → ∃ t, exec (.wqTailWrite q tail) s = .next t ∧ t.wq q = { w with st := .error, err := 4 } ∧ q ∈ t.trust.msix) ∧
        (d < 32768 → 64 < (tail % 65536 + 65536 - w.head) % 65536 → ∃ t, exec (.wqTailWrite q tail) s = .next t ∧
          t.wq q = { w with st := .error, err := 2 } ∧ q ∈ t.trust.msix) ∧
        (d < 32768 → (tail % 65536 + 65536 - w.head) % 65536 ≤ 64 → w.st ≠ .draining → ∃ t, exec (.wqTailWrite q tail) s = .next t ∧
          (t.wq q).tail = tail % 65536 ∧ (t.wq q).head = w.head ∧ (t.wq q).slots = w.slots ∧ s.keepsMem t))) ∧
    ((w.st = .disabled → s.trust.safe = false → ∃ t, exec (.wqEnable q) s = .next t ∧ t.wq q = { w with st := .opened, head := 0, tail := 0 }) ∧
      (w.st ≠ .disabled → ∃ t, exec (.wqEnable q) s = .next t ∧ t.wq q = w) ∧
      (w.st = .opened → ∃ t, exec (.wqSuspend q) s = .next t ∧ t.wq q = { w with st := .suspended }) ∧
      (w.st ≠ .opened → ∃ t, exec (.wqSuspend q) s = .next t ∧ t.wq q = w) ∧
      (w.st = .suspended → w.held = 0 → ∃ t, exec (.wqResume q) s = .next t ∧ t.wq q = { w with st := .opened }) ∧
      (w.st ≠ .suspended → ∃ t, exec (.wqResume q) s = .next t ∧ t.wq q = w) ∧
      (w.st = .opened ∨ w.st = .suspended → w.waiters = [] →
        (w.held = 0 → ∃ t, exec (.wqClose q) s = .next t ∧ t.wq q = { w with st := .closed } ∧ q ∈ t.trust.msix) ∧
        (w.held ≠ 0 → recKind (w.nth 0) = 2 → ∃ t, exec (.wqClose q) s = .next t ∧ t.wq q = { w with st := .draining })) ∧
      (¬(w.st = .opened ∨ w.st = .suspended) → ∃ t, exec (.wqClose q) s = .next t ∧ t.wq q = w) ∧
      (w.st = .closed ∨ w.st = .error → ∃ t, exec (.wqDisable q) s = .next t ∧ t.wq q = { w with st := .disabled, slots := [] }) ∧
      (live → ∃ t, exec (.wqDisable q) s = .next t ∧ t.wq q = w)) ∧
    (∀ k n p t0, (s.ctx k n).wait = .wqRetry p t0 →
      (s.wqDue k n = true → ∃ t, exec (.wqpopRetry k n) s = .next t ∧ t = s.modCtx k n (fun c => { c with wait := .none })) ∧
      (s.wqDue k n = false → exec (.wqpopRetry k n) s = .next s)) ∧
    (∀ k n p d b, (s.ctx k n).wait = .wq p d b → exec (.wqpopRetry k n) s = .next (s.wqLook p))

/-- R302, R307, R310, R312, R314, R316-R318, R322: a launch record is taken and admitted or FAULTED with the cause of the check that
fails; a grant makes a kernel RUNNING; KSTAT reads its state; KPREEMPT and KSHRINK answer a status and change it; a SAVE is
complete when all is at rest and written, and a save area that faults ends the kernel.
The model's own choices that it rests on: log entries 60, 78. -/
def Obligations.Kernels : Prop :=
  ∀ (s : State) (rd rs1 rs2 : Reg) (kid : Nat),
    let v := s.rx rs2
    (bits (s.rx rs1) 31 0 = kid →
      (s.anyKernel kid = none → ∃ t, exec (.kstat rd rs1) s = .next t ∧ s.Puts t rd 15) ∧
      (∀ x, s.anyKernel kid = some x → ∃ t, exec (.kstat rd rs1) s = .next t ∧ s.Completes t rd x.stat)) ∧
    (∀ x : Kernel, bits x.stat 7 0 = KState.code x.st ∧ x.stat.getLsbD 8 = x.drained ∧ x.stat.getLsbD 9 = x.saved ∧
      bits x.stat 15 10 = (if x.st = .faulted then x.cause % 64 else 0) ∧ bits x.stat 63 32 = x.reported % 2 ^ 32) ∧
    (∀ i, i ∈ [Instr.kpreemptDrain rd rs1 rs2, .kpreemptSave rd rs1 rs2, .kpreemptResume rd rs1 rs2, .kpreemptCancel rd rs1 rs2] →
      (s.cur.super = false → ∃ t, exec i s = .next t ∧ s.TakesTrap t cPRIVILEGE 0 0 s.cur.pc) ∧
      (s.cur.super = true → bits v 63 2 ≠ 0 → ∃ t, exec i s = .next t ∧ s.Puts t rd 4) ∧
      (s.cur.super = true → bits v 63 2 = 0 → bits (s.rx rs1) 31 0 = kid →
        (s.kernel? kid = none → ∃ t, exec i s = .next t ∧ s.Puts t rd (if (tfind kid s.ended).isSome = true then 1 else 3)) ∧
        (∀ x, s.kernel? kid = some x →
          let waiting := x.st = .blocked ∨ x.st = .ready
          (bits v 1 0 = 0 → waiting → ∃ t, exec i s = .next t ∧ s.Completes t rd 0 ∧
            t.kernel? kid = some { x with st := .preempted, drained := true }) ∧
          (bits v 1 0 = 0 → x.st = .running → (∃ e ∈ x.boundGroups, ∀ f ∈ x.groups, f.1 = e.1 → f = e) → ∃ t z, exec i s = .next t ∧ s.Completes t rd 0 ∧
            t.kernel? kid = some z ∧ z.st = .draining ∧ ∀ g, (z.group g).st ≠ .released) ∧
          (bits v 1 0 = 0 → ¬waiting → x.st ≠ .running → ∃ t, exec i s = .next t ∧ s.Puts t rd 1) ∧
          (bits v 1 0 = 1 → waiting ∨ x.st = .running ∨ x.st = .draining →
            (lrSave x.rcd = 0 → ∃ t, exec i s = .next t ∧ s.Puts t rd 2) ∧
            (lrSave x.rcd ≠ 0 → waiting → ∃ t, exec i s = .next t ∧ s.Completes t rd 0 ∧ t.kernel? kid = some { x with st := .preempted }) ∧
            (lrSave x.rcd ≠ 0 → ¬waiting → ∃ t z, exec i s = .next t ∧ t.rx rd = 0 ∧ s.keepsMem t ∧
              t.kernel? kid = some z ∧ z.st = .saving ∧ (∀ g, (z.group g).st ≠ .released) ∧ .saveComplete kid ∈ t.pending)) ∧
          (bits v 1 0 = 1 → ¬(waiting ∨ x.st = .running ∨ x.st = .draining) → ∃ t, exec i s = .next t ∧ s.Puts t rd 1) ∧
          (bits v 1 0 = 2 → x.st = .preempted → ∃ t z, exec i s = .next t ∧ s.Completes t rd 0 ∧ t.kernel? kid = some z ∧
            z.st = if x.edgesLeft = [] then .ready else .blocked) ∧
          (bits v 1 0 = 2 → x.st ≠ .preempted → ∃ t, exec i s = .next t ∧ s.Puts t rd 1) ∧
          (bits v 1 0 = 3 → ∃ t z, exec i s = .next t ∧ s.Completes t rd 0 ∧ t.kernel? kid = some z ∧ z.st = .aborting ∧
            z.cancel = true)))) ∧
    (s.cur.super = false → ∃ t, exec (.kshrink rd rs1 rs2) s = .next t ∧ s.TakesTrap t cPRIVILEGE 0 0 s.cur.pc) ∧
    (s.cur.super = true → bits v 63 42 ≠ 0 ∨ bits v 41 21 = 0 → ∃ t, exec (.kshrink rd rs1 rs2) s = .next t ∧ s.Puts t rd 4) ∧
    (∀ x, s.cur.super = true → bits v 63 42 = 0 → bits v 41 21 ≠ 0 → bits (s.rx rs1) 31 0 = kid → s.kernel? kid = some x →
      (¬(x.st = .running ∨ x.st = .draining ∨ x.st = .preempted) → ∃ t, exec (.kshrink rd rs1 rs2) s = .next t ∧ s.Puts t rd 1) ∧
      (x.st = .preempted → lrSave x.rcd ≠ 0 → kdPclass x.desc = 0 → bits v 20 0 + bits v 41 21 ≤ s.grade * 2112 →
        bits v 41 21 ≤ x.ncores0 → x.saved = false → ∃ t z, exec (.kshrink rd rs1 rs2) s = .next t ∧ s.Completes t rd 0 ∧
          t.kernel? kid = some z ∧ z.rank0 = bits v 20 0 ∧ z.ncores = bits v 41 21 ∧
          z.st = if x.edgesLeft = [] then .ready else .blocked)) ∧
    (∀ q w k u, w = s.wq q → w.st = .opened ∨ w.st = .draining → w.held ≠ 0 → recKind (w.nth 0) = 1 →
      (s.kernels.filter (fun e => unitOfQueue (queueOf e.1) = unitOfQueue q)).length < 256 → kid = w.headKid q →
      k = Kernel.fresh (w.nth 0) (s.unitTime q) s.clock (w.taken + 1) →
      u = ({ s.setWq q { w.take with taken := w.taken + 1 } with
        ended := s.ended.filter (fun e => !(queueOf e.1 = q && decide (e.2.takeNo + 4096 ≤ w.taken + 1))) }.tick).setKernel kid k →
      (∀ c, u.checked kid (w.nth 0) = .error c → ∃ t z, exec (.launchRecordTake q) s = .next t ∧ t.kernel? kid = none ∧
        tfind kid t.ended = some z ∧ z.st = .faulted ∧ z.cause = c ∧ (t.wq q).taken = w.taken + 1) ∧
      (∀ d, u.checked kid (w.nth 0) = .ok d → (∀ e ∈ u.edges kid (w.nth 0), e.2 = .satisfied) → ∃ t z,
        exec (.launchRecordTake q) s = .next t ∧ t.kernel? kid = some z ∧ z.st = .ready ∧ z.desc = d ∧ z.edgesLeft = [] ∧
        .kernelGrant kid ∈ t.pending ∧ (t.wq q).taken = w.taken + 1)) ∧
    (∀ x, s.kernel? kid = some x → x.st = .ready →
      (∃ t, exec (.agingInterval kid) s = .next t ∧ t = s.plan (.kernelGrant kid)) ∧
      ((∀ c ∈ x.chips, x.entriesOn c ≤ 2097152) → s.firstInLine kid x = none → s.heldBack kid x = false →
        (s.canGrant x = false → exec (.kernelGrant kid) s = .next s) ∧
        (∀ gs retired, s.canGrant x = true → s.grantGroups x = some (gs, retired) → ∃ t z, exec (.kernelGrant kid) s = .next t ∧
          t.kernel? kid = some z ∧ z.st = .running ∧ z.groups = gs ∧ z.retired = retired ∧ z.rank = s.rankNow kid x ∧
          (∀ c ∈ x.chips, .groupRelease c ∈ t.pending) ∧
          (x.saved = false → x.groups = [] → ∀ g, g < x.count → (z.group g).counter = (gPreds x.desc g).length ∧
            (z.group g).st = if gPreds x.desc g = [] then .ready else .waiting)))) ∧
    (∀ x u, s.kernel? kid = some x → x.st = .saving →
      u = x.boundGroups.foldl (fun s e => s.policyGroup kid e.1)
        (x.boundGroups.foldl (fun s e => (s.strandsOf e.2.core e.2.slot).foldl (fun s n => s.tryStop e.2.core n cPREEMPT) s) s) →
      (∀ y, u.kernel? kid = some y →
        (y.st ≠ .saving → exec (.saveComplete kid) s = .next u) ∧
        (y.st = .saving →
          let busy := (∃ e ∈ y.boundGroups, u.atRest e.2 = false) ∨ y.tokens ≠ [] ∨ y.reports ≠ [] ∨
            ∃ r ∈ u.reqs, ∃ g, r.group = some (kid, g)
          (busy → exec (.saveComplete kid) s = .next (u.plan (.saveComplete kid))) ∧
          (∀ w, ¬busy → y.shrink = none → u.writeSave kid y = some w →
            ∃ t z, exec (.saveComplete kid) s = .next t ∧ t.kernel? kid = some z ∧ z.st = .preempted ∧ z.saved = true ∧
              z.hasBase = true ∧ z.groups = [] ∧ w.keepsMem t) ∧
          (¬busy → y.cause = 0 → u.writeSave kid y = none → ∃ t z, exec (.saveComplete kid) s = .next t ∧ t.kernel? kid = none ∧
            tfind kid t.ended = some z ∧ z.st = .faulted ∧ z.cause = 0x3D))))

/-- R320, R323-R326, R328: the dispatcher releases the head of its queue when the power gate passes; a released group is bound, each
strand with its registers; a token counts a predecessor off, and a report a retired group; the last report completes the kernel.
The model's own choices that it rests on: log entries 23, 78, 101. -/
def Obligations.Groups : Prop :=
  ∀ (s : State) (kid g : Nat) (x : Kernel), s.kernel? kid = some x →
    let e := x.group g
    (∀ pred, ¬(g, pred) ∈ x.tokens → exec (.retirementToken kid g pred) s = .next (s.settleDrain kid)) ∧
    (∀ pred, (g, pred) ∈ x.tokens → e.st = .waiting → x.st ≠ .draining →
      (e.counter = 1 → ∃ t z, exec (.retirementToken kid g pred) s = .next t ∧ t.kernel? kid = some z ∧
        z.group g = { e with counter := 0, st := .ready, stamp := s.clock } ∧ (g, pred) ∉ z.tokens ∧
        .groupRelease (x.homeChip g) ∈ t.pending) ∧
      (1 < e.counter → ∃ t z, exec (.retirementToken kid g pred) s = .next t ∧ t.kernel? kid = some z ∧
        z.group g = { e with counter := e.counter - 1 } ∧ (g, pred) ∉ z.tokens)) ∧
    (g ∈ x.reports →
      (x.reported + 1 ≠ x.count → x.st ≠ .draining → ∃ t z, exec (.groupRetirementReport kid g) s = .next t ∧ t.kernel? kid = some z ∧
        z.reported = x.reported + 1 ∧ g ∉ z.reports) ∧
      (x.reported + 1 = x.count → x.st = .running → ∃ t z, exec (.groupRetirementReport kid g) s = .next t ∧ t.kernel? kid = none ∧
        tfind kid t.ended = some z ∧ z.st = .completed ∧ z.reported = x.count)) ∧
    (∀ chip w r, s.kernels = [(kid, x)] → x.st = .running → (∀ e ∈ x.groups, e.2.bound = false) → s.releaseQueue chip = w :: r →
      s.gateOpen chip (s.drawOf chip kid) = true → ∃ t z, exec (.groupRelease chip) s = .next t ∧ t.kernel? kid = some z ∧
        (z.group w.g).st = .released ∧ (z.group w.g).draw = s.drawOf chip kid ∧
        (t.chip chip).proj = (s.chip chip).proj + s.drawOf chip kid ∧ s.keepsMem t) ∧
    (∀ chip w, s.kernels = [(kid, x)] → x.st = .running → (∀ e ∈ x.groups, e.2.bound = false) → s.releaseQueue chip = [w] →
      s.gateOpen chip (s.drawOf chip kid) = false → ∃ t z, exec (.groupRelease chip) s = .next t ∧ t.kernel? kid = some z ∧
        (z.group w.g).gated = true ∧ (t.chip chip).powerWait = true ∧ (t.chip chip).proj = (s.chip chip).proj ∧ s.keepsMem t) ∧
    (∀ chip d, s.gateOpen chip d = true ↔ (s.chip chip).share ≠ 0 ∧ (s.chip chip).proj + d ≤ (s.chip chip).share) ∧
    (∀ chip w c, s.kernels = [(kid, x)] → x.st = .running → x.groups = [(g, w)] → w.st = .running → chipOf w.core = chip →
      (s.core w.core).stopped = false → w.again = false → s.groupTrap w = some c → s.groupHalted w = true → kdPolicy x.desc = 2 → ∃ t z, exec (.groupRelease chip) s = .next t ∧
        t.kernel? kid = some z ∧ (z.group g).st = .parked ∧ s.keepsMem t) ∧
    (x.st = .running → e.st = .released →
      (s.coreRuns (coreOfRank (x.home g)) = false ∨ s.groupOwes kid g = true → exec (.groupBind kid g) s = .next s) ∧
      (s.bindTarget kid x g e = none → exec (.groupBind kid g) s = .next s) ∧
      (∀ k slot ks, s.bindTarget kid x g e = some (k, slot, ks) → s.bindTurn kid g k e = true → e.replays = 0 →
        ∃ t z, exec (.groupBind kid g) s = .next t ∧ t.kernel? kid = some z ∧ (z.group g).st = .running ∧ (z.group g).core = k ∧
          (z.group g).slot = slot ∧ tfind slot (t.core k).slots = some { kid := kid, g := some g, k := ks } ∧ s.keepsMem t ∧
          ∀ i n, ((s.freeCtxs k).take (kdStrands x.desc))[i]? = some n → ∃ y, t.ctx k n = y ∧ y.st = .strand ∧ y.wait = .none ∧
            y.pc = kdEntry x.desc ∧ y.super = lrSuper x.rcd ∧ y.routeSvc = lrRoute x.rcd ∧ y.slot = slot ∧ y.gstrand = i ∧
            y.gcoord = gCoord x.desc g ∧ y.rx 10 = lrArg x.rcd ∧ y.rx 11 = BitVec.ofNat 64 (x.base + ks * kdLocal x.desc) ∧
            y.rx 12 = BitVec.ofNat 64 i ∧ ∀ r : Reg, r ≠ 10 → r ≠ 11 → r ≠ 12 → y.rx r = 0))

/-! Translation entries, pages and pins (chapter 14). -/

/-- R357-R359, R363-R365: TLBW installs an entry that is in order, in place of those it overlaps, refuses one whose page is not there,
settles the fault of a context; TLBINV removes entries and TLBPROBE reads one.
The model's own choices that it rests on: log entries 9, 15, 41, 97, 98. -/
def Obligations.TranslationEntries : Prop :=
  ∀ (s : State) (rd rs1 rs2 : Reg) (k n : Nat),
    let d := s.rx rs1
    let a := s.rx rs2
    let x := s.ctx k n
    (∀ i, i ∈ [Instr.tlbwWrite rs1 rs2, .tlbwResume rs1 rs2, .tlbwFail rs1 rs2, .tlbinvGranule rs1 rs2, .tlbinvAll rs1 rs2,
        .tlbinvMask rs1 rs2, .tlbprobe rd rs1 rs2] →
      (s.cur.super = false → ∃ t, exec i s = .next t ∧ s.TakesTrap t cPRIVILEGE 0 0 s.cur.pc) ∧
      (s.cur.super = true → d.getLsbD 8 = false → 16 < bits d 7 3 →
        ∃ t, exec i s = .next t ∧ s.TakesTrap t cDEAD_DESTINATION d 0 s.cur.pc)) ∧
    (s.MayName d k n →
      (∀ i, i ∈ [Instr.tlbwWrite rs1 rs2, .tlbwResume rs1 rs2, .tlbwFail rs1 rs2] →
        (bits d 10 9 ≠ 2 → bits a 3 0 ≠ 0 → ∃ t, exec i s = .next t ∧ s.TakesTrap t cLOAD_ACCESS a 0 s.cur.pc) ∧
        (∀ ls v e, bits d 10 9 ≠ 2 → bits a 3 0 = 0 → s.here.watch = [] → s.places s.whoCur .load a 16 = .ok ls →
          s.waysOpen s.curCore ls = true → v = leNat (ls.map (s.seenByte s.curCore s.curCtx)) → e = TlbEntry.ofNat v →
          (s.entryOk k v = false → ∃ t, exec i s = .next t ∧ s.TakesTrap t cSECURITY_VIOLATION a 0 s.cur.pc) ∧
          (s.entryOk k v = true → s.fillAllowed s.curCore e = false → ∃ t, exec i s = .next t ∧ (t.core k).tlb = (s.core k).tlb ∧
            s.Answers t 0 0 ∧ s.keepsMem t) ∧
          (s.entryOk k v = true → s.fillAllowed s.curCore e = true → s.NotSelf k n → ∃ t, exec i s = .next t ∧ s.Answers t 0 0 ∧
            s.keepsMem t ∧ (∃ j, tfind j (t.core k).tlb = some (e.taken (s.chip (dieOf k)))) ∧
            (∀ p ∈ (t.core k).tlb, p.2 = e.taken (s.chip (dieOf k)) ∨
              (p ∈ (s.core k).tlb ∧ ¬(p.2.overlaps e.lo e.hi = true ∧ (p.2.vis &&& e.vis) ≠ 0))) ∧
            (bits d 10 9 = 1 → (d.getLsbD 24 = true → x.tseq = bits d 23 16) → x.st = .trapped →
              (t.ctx k n).st = x.prior ∧ (t.ctx k n).pc = x.epc ∧ (t.ctx k n).wait = .none))) ∧
        (∀ c, s.Names d k n → s.NotSelf k n → bits d 10 9 = 2 → x.onFaultPath = true →
          c = (if bits d 63 58 = 0 then x.ecause.toNat else bits d 63 58) → ∃ t, exec i s = .next t ∧ s.Answers t 0 0 ∧ s.keepsMem t ∧
            t.ctx k n = { x with ecause := BitVec.ofNat 64 c, einfo := x.einfo ||| 16, onPath := false, cause := c,
                                 policyDue := x.policyDue || (x.prior = .strand && isCompute k) })) ∧
      (∀ i, i ∈ [Instr.tlbinvGranule rs1 rs2, .tlbinvAll rs1 rs2, .tlbinvMask rs1 rs2] →
        let hit (e : TlbEntry) : Bool := a.extractLsb' 2 3 = 0 || (e.vis &&& a.extractLsb' 2 3) ≠ 0
        let lo := bits a 56 16 * 2 ^ 16
        let goes (e : TlbEntry) : Bool :=
          if bits a 1 0 = 0 then e.overlaps lo (lo + 65536) && hit e else if bits a 1 0 = 2 then hit e else true
        let inUse := s.inFlight (fun c => c = k) (fun x y => (s.core k).tlb.any (fun e => goes e.2 && e.2.overlaps x y))
        (inUse = true → exec i s = .next s) ∧
        (inUse = false → ∃ t, exec i s = .next t ∧ s.Answers t 0 0 ∧ s.keepsMem t ∧
          (t.core k).tlb = (s.core k).tlb.filter (fun p => !goes p.2))) ∧
      (∀ es, es = (s.core k).tlb.filter (fun p => p.2.covers a && (a.extractLsb' 2 3 = 0 || (p.2.vis &&& a.extractLsb' 2 3) ≠ 0)) →
        (es = [] → ∃ t, exec (.tlbprobe rd rs1 rs2) s = .next t ∧ s.Puts t rd 0) ∧
        (∀ p r, es = p :: r → ∃ t w, exec (.tlbprobe rd rs1 rs2) s = .next t ∧ s.Puts t rd w ∧
          (p.1 < 64 → p.2.keyid < 64 → p.2.size ≠ 3 → w.getLsbD 63 = true ∧ w.getLsbD 62 = !r.isEmpty ∧ bits w 61 56 = p.2.keyid ∧
            bits w 55 12 = p.2.pa a / 4096 % 2 ^ 44 ∧ bits w 11 8 = 0 ∧ bits w 5 0 = p.1))))

/-- R377, R378, R469: FWAKE puts a fault word in the window of its core as a message to q27; on its way a raise is recorded at a router,
or joins one of its granule that has passed there and goes no further; past the last router it goes to the destination; a wake or fail
comes down and frees the entries on its way, going on by every port that they record.
The model's own choices that it rests on: log entries 9, 21. -/
def Obligations.FaultWords : Prop :=
  ∀ (s : State) (rs1 rs2 : Reg) (id : Nat),
    let w := s.rx rs1
    let v := s.rx rs2
    (∀ i, i ∈ [Instr.fwakeRaise rs1 rs2, .fwakeWake rs1 rs2, .fwakeFail rs1 rs2] →
      let plain := bits w 63 57 = 0 ∧ bits w 7 6 = 0 ∧ bits w 3 2 = 0
      let sent (t : State) (dst : Nat) (ws : List Word) := (s.here.windowBusy = false → s.here.hwWait = [] →
        ∃ m ∈ t.here.window, m.uid = s.here.nextUid ∧ m.dst = dst ∧ m.chan = 27 ∧ m.words = ws ∧ m.frm = .fault s.clock)
      (s.cur.super = false → ∃ t, exec i s = .next t ∧ s.TakesTrap t cPRIVILEGE 0 0 s.cur.pc) ∧
      (s.cur.super = true → ¬plain ∨ bits w 5 4 = 3 → ∃ t, exec i s = .next t ∧ s.Passes t) ∧
      (s.cur.super = true → plain → bits w 5 4 = 0 →
        (isService s.curCore = false → ∃ t, exec i s = .next t ∧ s.TakesTrap t cPRIVILEGE 0 0 s.cur.pc) ∧
        (isService s.curCore = true → s.settled → ∃ t fw, exec i s = .next t ∧ t.cur = { s.cur with pc := s.cur.pc + 4 } ∧
          t.faultWords = s.faultWords ++ [fw] ∧ fw.id = s.clock ∧ fw.word = w ∧ fw.origin = s.curCore ∧ fw.donated = v ∧
          fw.merged = 0 ∧ fw.down = false ∧ s.keepsOthers t ∧ s.keepsMem t ∧
          sent t (mgmtKey (576 + bits w 56 16 % 32)) [w, BitVec.ofNat 64 (mhartid s.curCore % 2 ^ 32), v])) ∧
      (s.cur.super = true → plain → bits w 5 4 = 1 ∨ bits w 5 4 = 2 →
        (isMgmt s.curCore = false → ∃ t, exec i s = .next t ∧ s.TakesTrap t cPRIVILEGE 0 0 s.cur.pc) ∧
        (isMgmt s.curCore = true →
          ((∀ k, coreOfIdent s.grade (bits v 31 0) = some k → isService k = false) →
            ∃ t, exec i s = .next t ∧ s.TakesTrap t cDEAD_DESTINATION v 0 s.cur.pc) ∧
          (∀ k, coreOfIdent s.grade (bits v 31 0) = some k → isService k = true → s.settled → ∃ t fw, exec i s = .next t ∧
            t.cur = { s.cur with pc := s.cur.pc + 4 } ∧ t.faultWords = s.faultWords ++ [fw] ∧ fw.id = s.clock ∧ fw.word = w ∧
            fw.origin = k ∧ fw.down = true ∧ s.keepsOthers t ∧ s.keepsMem t ∧ sent t k [w])))) ∧
    (∀ fw m, s.faultWords = [fw] → fw.id = id → id < s.clock → s.fwMsg fw = some m → (s.core fw.core).window = [m] →
      let g := bits fw.word 56 16
      let step := if fw.down = true then Instr.faultWordDown id else .faultRaiseAtRouter id
      (fw.path = [] → ∃ t q, exec step s = .next t ∧ t.msg? fw.core m.uid = some q ∧
        q.st = (if m.grant = true then .granted else .sent) ∧ .messageDelivery fw.core m.uid ∈ t.pending ∧ s.keepsMem t) ∧
      (∀ r rest, fw.down = false → fw.path = r :: rest →
        (∀ ports, fw.donated = 0 → s.fwPorts r g = some ports → m.grant = false → (s.core fw.core).hwWait = [] → ∃ t,
          exec step s = .next t ∧ t.faultWords = [] ∧ (t.core fw.core).window = [] ∧ t.fwPorts r g = some (ports ++ [fw.port]) ∧
          s.keepsMem t) ∧
        (fw.donated = 0 → s.fwPorts r g = none → (tget [] r s.routers).length < 16 → ∃ t, exec step s = .next t ∧
          t.fwPorts r g = some [fw.port] ∧ t.faultWords = [{ fw with path := rest, port := r + 1 }] ∧ step ∈ t.pending ∧ s.keepsMem t) ∧
        (fw.donated ≠ 0 ∨ (s.fwPorts r g = none ∧ 16 ≤ (tget [] r s.routers).length) → ∃ t, exec step s = .next t ∧
          t.routers = s.routers ∧ t.faultWords = [{ fw with path := rest, port := r + 1 }] ∧ step ∈ t.pending ∧ s.keepsMem t)) ∧
      (∀ r rest, fw.down = true → fw.path = r :: rest →
        let main (p : Nat) := if p = 0 then s.svcAt r = some fw.origin else rest.head? = some (p - 1)
        (s.fwPorts r g = none → ∃ t, exec step s = .next t ∧ t.faultWords = [{ fw with path := rest }] ∧ step ∈ t.pending ∧
          s.keepsMem t) ∧
        (∀ ports, s.fwPorts r g = some ports → m.grant = false → ∃ t, exec step s = .next t ∧ t.fwPorts r g = none ∧ s.keepsMem t ∧
          (∀ p ∈ ports, ¬main p → ∃ f ∈ t.faultWords, f.id ≠ id ∧ f.word = fw.word ∧ f.down = true ∧
            f.path = if p = 0 then [] else [p - 1]) ∧
          ((∃ p ∈ ports, main p) → { fw with path := rest } ∈ t.faultWords ∧ step ∈ t.pending) ∧
          ((∀ p ∈ ports, ¬main p) → ∀ f ∈ t.faultWords, f.id ≠ id))))

/-- R340, R368, R370-R375: once nothing is under way through the entries, SHOOT changes the state of a page in its record, unless pins or
the state forbid it, takes its entries from every core, or makes them transitional for a migration, and ends the monitors of its lines;
LPIN and LUNPIN pin and release lines, in the nest of the line and the record of its page.
The model's own choices that it rests on: log entries 9, 15, 20, 97, 98. -/
def Obligations.PagesAndPins : Prop :=
  ∀ (s : State) (rd rs1 rs2 : Reg),
    let a := s.rx rs1
    let f := s.rx rs2
    let op := bits f 2 0
    let shift := if bits a 1 0 = 0 then 16 else if bits a 1 0 = 1 then 21 else 30
    let pa := bits f 55 16 * 2 ^ 16
    let lo := bits a 56 16 * 2 ^ 16
    let fine := bits a 1 0 ≠ 3 ∧ op ≠ 7 ∧ bits a 15 2 = 0 ∧ canonical a = true ∧ bits f 15 3 = 0 ∧ bits f 63 56 = 0 ∧
      lo % 2 ^ shift = 0 ∧ pa % 2 ^ shift = 0 ∧ isDramPa pa = true
    (∀ i, i ∈ [Instr.shootOnly rd rs1 rs2, .shootMigrate rd rs1 rs2, .shootFlip rd rs1 rs2, .shootEvict rd rs1 rs2,
        .shootUnmap rd rs1 rs2, .shootForce rd rs1 rs2, .shootAbort rd rs1 rs2] →
      (s.cur.super = false → ∃ t, exec i s = .next t ∧ s.TakesTrap t cPRIVILEGE 0 0 s.cur.pc) ∧
      (s.cur.super = true → ¬fine → ∃ t, exec i s = .next t ∧ s.Puts t rd 3) ∧
      (s.cur.super = true → fine → s.settled → s.cur.wait = .none →
        (op = 0 → s.underWay lo (lo + 2 ^ shift) = true → exec i s = .next s) ∧
        (op = 0 → s.underWay lo (lo + 2 ^ shift) = false → ∃ t, exec i s = .next t ∧ s.Answers t rd 0 ∧ s.keepsMem t ∧
          ∀ k, ∀ p ∈ (t.core k).tlb, p.2.overlaps lo (lo + 2 ^ shift) = false) ∧
        (op ≠ 0 → s.recordOf s.curCore pa = none → ∃ t, exec i s = .next t ∧ s.Puts t rd 2) ∧
        (∀ r, op ≠ 0 → s.recordOf s.curCore pa = some r →
          (shootChange op (s.readRecord r) = none → ∃ t, exec i s = .next t ∧
            s.Puts t rd (if bits (s.readRecord r) 23 8 = 0 then 2 else 1)) ∧
          (∀ v, shootChange op (s.readRecord r) = some v →
            (s.underWay lo (lo + 2 ^ shift) = true → exec i s = .next s) ∧
            (s.underWay lo (lo + 2 ^ shift) = false → ∃ t, exec i s = .next t ∧ s.Answers t rd 0 ∧
              (op ≠ 5 → Loc.Apart (s.recordLocs r) → t.readRecord r = v) ∧
              (op = 1 → ∀ k, (t.core k).tlb = (s.core k).tlb.map (fun p =>
                (p.1, if p.2.overlaps lo (lo + 2 ^ shift) then { p.2 with w := false, t := true } else p.2))) ∧
              (op ≠ 1 → ∀ k, ∀ p ∈ (t.core k).tlb, p.2.overlaps lo (lo + 2 ^ shift) = false) ∧
              (op ≠ 6 → ∀ c, ∀ m ∈ (t.cluster c).monitors, ¬(pa ≤ 128 * m.1 ∧ 128 * m.1 < pa + 2 ^ shift)) ∧
              (op = 5 → ∀ line, pa ≤ line * 128 → line * 128 < pa + 2 ^ shift → tget 0 line t.pinNests = 0 ∧
                (tget 0 line s.pinNests ≠ 0 → tget 0 line t.poison = 2 ^ 128 - 1))))))) ∧
    (∀ (o : Nat) (v u : Word), 1 ≤ o → o < 7 → shootChange o v = some u →
      bits u 2 0 = (if o = 1 then 2 else if o = 3 then 3 else if o = 6 then 1 else 0) ∧
      bits u 23 8 = (if o = 5 then 0 else bits v 23 8) ∧ (o = 1 ∨ o = 3 ∨ o = 4 → bits v 2 0 = 1 ∧ bits v 23 8 = 0) ∧
      (o = 2 ∨ o = 6 → bits v 2 0 = 2) ∧ (o = 5 → bits v 2 0 ≠ 0)) ∧
    (∀ i, i ∈ [Instr.lpin rd rs1 rs2, .lunpin rd rs1 rs2] →
      (f = 0 → ∃ t, exec i s = .next t ∧ s.Puts t rd 0) ∧
      (65536 < f.toNat → ∃ t, exec i s = .next t ∧ s.Puts t rd (2 ^ 63)) ∧
      (∀ e, f ≠ 0 → f.toNat ≤ 65536 → s.pinFault a f.toNat = some e → e.parks = false →
        ∃ t, exec i s = .next t ∧ s.TakesTrap t e.cause e.addr e.info s.cur.pc)) ∧
    (∀ page va line r, f ≠ 0 → bits a 6 0 + f.toNat ≤ 128 → s.pinFault a f.toNat = none → s.cur.wait = .none →
      s.pageOf s.whoCur (a &&& ~~~127) = some (page, va) → line = va / 128 → s.recordOf s.curCore page = some r →
      let nest := tget 0 line s.pinNests
      let pins := bits (s.readRecord r) 23 8
      (s.mayPin line = true → bits (s.readRecord r) 2 0 = 1 → pins < 65535 → ∃ t, exec (.lpin rd rs1 rs2) s = .next t ∧
        s.Answers t rd 1 ∧ tget 0 line t.pinNests = nest + 1 ∧ (Loc.Apart (s.recordLocs r) → bits (t.readRecord r) 23 8 = pins + 1)) ∧
      (s.mayPin line = false ∨ bits (s.readRecord r) 2 0 ≠ 1 ∨ pins = 65535 →
        ∃ t, exec (.lpin rd rs1 rs2) s = .next t ∧ s.TakesTrap t cPIN_LIMIT a 0 s.cur.pc) ∧
      (nest = 0 → ∃ t, exec (.lunpin rd rs1 rs2) s = .next t ∧ s.Puts t rd 0) ∧
      (nest ≠ 0 → 0 < pins → ∃ t, exec (.lunpin rd rs1 rs2) s = .next t ∧ s.Answers t rd 1 ∧ tget 0 line t.pinNests = nest - 1 ∧
        (Loc.Apart (s.recordLocs r) → bits (t.readRecord r) 23 8 = pins - 1)))

/-- R371, R376: CARVE takes ways of the slice of the executing core's cluster for the bytes of a page, or for zeros, and UNCARVE, once
nothing is under way to them, gives them back, writing the bytes to the page when asked.
The model's own choices that it rests on: log entries 51, 98. -/
def Obligations.Carves : Prop :=
  ∀ (s : State) (rd rs1 rs2 : Reg),
    let v := s.rx rs1
    let va := s.rx rs2
    let m := bits v 3 0
    let clu := cluKey s.curCore
    let cv := (s.cluster clu).carve
    let within (a : Nat) := carveKey clu ≤ a ∧ a < carveKey clu + cv.ways * 131072
    (s.cur.super = false →
      (∃ t, exec (.carve rd rs1 rs2) s = .next t ∧ s.TakesTrap t cPRIVILEGE 0 0 s.cur.pc) ∧
      ∃ t, exec (.uncarve rd rs1) s = .next t ∧ s.TakesTrap t cPRIVILEGE 0 0 s.cur.pc) ∧
    (s.cur.super = true → cv.state ≠ 0 → ∃ t, exec (.carve rd rs1 rs2) s = .next t ∧ s.Puts t rd 1) ∧
    (s.cur.super = true → cv.state = 0 →
      (∃ t, exec (.uncarve rd rs1) s = .next t ∧ s.Puts t rd 1) ∧
      (m = 0 ∨ 8 < m ∨ bits v 63 5 ≠ 0 → ∃ t, exec (.carve rd rs1 rs2) s = .next t ∧ s.Puts t rd 6) ∧
      (∀ e l r, m ≠ 0 → m ≤ 8 → bits v 63 5 = 0 → isMgmt s.curCore = false → s.xlate s.whoCur .store va = .ok l →
        s.tlbMatch s.whoCur va = [e] → e.size = 1 → bits va 20 0 = 0 → l.kind = .dram →
        s.recordOf s.curCore (e.frame * 4096) = some r →
        let x := s.readRecord r
        (bits x 2 0 ≠ 1 → ∃ t, exec (.carve rd rs1 rs2) s = .next t ∧ s.Puts t rd 2) ∧
        (bits x 2 0 = 1 → x.getLsbD 3 = true → ∃ t, exec (.carve rd rs1 rs2) s = .next t ∧ s.Puts t rd 3) ∧
        (bits x 2 0 = 1 → x.getLsbD 3 = false →
          (bits x 23 8 = 65535 → ∃ t, exec (.carve rd rs1 rs2) s = .next t ∧ s.TakesTrap t cPIN_LIMIT va 0 s.cur.pc) ∧
          (bits x 23 8 < 65535 → s.pinNests = [] → s.memOk → s.cur.wait = .none → ∃ t, exec (.carve rd rs1 rs2) s = .next t ∧
            s.Answers t rd 0 ∧ (t.cluster clu).carve = { state := 1, ways := m, backing := e.frame * 4096 } ∧
            ∀ i, i < m * 131072 → Memory.byte (carveKey clu + i) t.mem =
              if v.getLsbD 4 = true then Memory.byte (e.frame * 4096 + i) t.mem else 0)))) ∧
    (s.cur.super = true → cv.state ≠ 0 → (∃ r ∈ s.reqs, ∃ a ∈ r.kind.keys, within a) → exec (.uncarve rd rs1) s = .next s) ∧
    (s.cur.super = true → cv.state = 2 → (∀ r ∈ s.reqs, ∀ a ∈ r.kind.keys, ¬within a) → ∃ t, exec (.uncarve rd rs1) s = .next t ∧
      s.Answers t rd (if v.getLsbD 0 = true then 2 else 0) ∧ (t.cluster clu).carve.state = 0 ∧ s.keepsMem t) ∧
    (s.cur.super = true → cv.state = 1 → s.cur.wait = .none → s.memOk → s.recordOf s.curCore cv.backing = none →
      (∀ r ∈ s.reqs, ∀ a ∈ r.kind.keys, ¬within a) →
      ∃ t, exec (.uncarve rd rs1) s = .next t ∧ s.Answers t rd 0 ∧ (t.cluster clu).carve.state = 0 ∧
        (∀ k, ∀ p ∈ (t.core k).tlb, p.2.size = 0 → ¬(carveKey clu ≤ p.2.frame * 4096 ∧
          p.2.frame * 4096 < carveKey clu + cv.ways * 131072)) ∧
        (v.getLsbD 0 = false → s.keepsMem t) ∧
        (v.getLsbD 0 = true → cv.backing + cv.ways * 131072 ≤ carveKey clu ∨ carveKey clu + cv.ways * 131072 ≤ cv.backing →
          ∀ i, i < cv.ways * 131072 → Memory.byte (cv.backing + i) t.mem = Memory.byte (carveKey clu + i) s.mem))

/-! Messages and requests on their way (chapters 08, 10, 15). -/

/-- R27, R28, R256, R278, R288-R292: what happens to a message in its replay window: it waits for those before it, is delivered or
comes back, is sent again after its back-off, or is refused at the limit; grants are given in turn; refusal words go to q30.
The model's own choices that it rests on: log entries 28, 83. -/
def Obligations.MessageEvents : Prop :=
  ∀ (s : State) (k uid : Nat) (m : Msg),
    (∀ n dst w r, (s.core k).notices = (n, dst, w) :: r →
      ((s.core k).windowBusy = true → ∃ t, exec (.trapNoticeSend k) s = .next t ∧ t = s.plan (.trapNoticeSend k)) ∧
      ((s.core k).windowBusy = false → (s.core k).hwWait = [] → ∃ t, exec (.trapNoticeSend k) s = .next t ∧ (t.core k).notices = r ∧
        s.keepsMem t ∧ ∃ q ∈ (t.core k).window, q.uid = (s.core k).nextUid ∧ q.dst = dst ∧ q.chan = 31 ∧ q.words = [w])) ∧
    (s.msg? k uid = some m →
      (m.st = .sent ∨ m.st = .granted →
        let d := m.dst
        let q := s.chan d m.chan
        ((s.core k).behindOther m = true ∨ (∃ r ∈ s.reqs, r.id ∈ m.stores) →
          exec (.messageDelivery k uid) s = .next (s.plan (.messageDelivery k uid))) ∧
        ((s.core k).behindOther m = false → (∀ r ∈ s.reqs, r.id ∉ m.stores) →
          (∀ f, s.walker m = some f → ∃ t x, exec (.messageDelivery k uid) s = .next t ∧ t.msg? k uid = some x ∧ x.st = .walking ∧
            (if f.down = true then Instr.faultWordDown f.id else .faultRaiseAtRouter f.id) ∈ t.pending ∧ s.keepsMem t) ∧
          ((∀ i, m.frm ≠ .fault i) → s.pathOpen (s.epOfCore k) (s.epOfCore d) = true → (s.core k).followsTransit m = false →
            isCompute d = true → s.unreachable d = false →
            (m.grant = false → s.awaited k d = none → (s.die (dieOf d)).op < 4 → m.words.length ≤ q.free → q.reqs = [] → q.poppers = [] →
              ∃ t x, exec (.messageDelivery k uid) s = .next t ∧ (t.chan d m.chan).words = q.words ++ m.words ∧
                t.msg? k uid = some x ∧ x.st = .delivered ∧ .messageAck k uid ∈ t.pending ∧ s.keepsMem t) ∧
            (m.grant = true → m.words.length ≤ q.grantResv → q.poppers = [] →
              ∃ t x, exec (.messageDelivery k uid) s = .next t ∧ (t.chan d m.chan).words = q.words ++ m.words ∧
                (t.chan d m.chan).grantResv = q.grantResv - m.words.length ∧ t.msg? k uid = some x ∧ x.st = .delivered ∧ s.keepsMem t) ∧
            (m.grant = false → (q.free < m.words.length ∨ q.reqs ≠ [] ∨ 4 ≤ (s.die (dieOf d)).op ∨
                ∃ u, s.awaited k d = some u ∧ u ≠ uid) →
              ∃ t x, exec (.messageDelivery k uid) s = .next t ∧ (t.chan d m.chan).words = q.words ∧ t.msg? k uid = some x ∧
                x.st = .nacked false ∧ .nackReceived k uid ∈ t.pending ∧ (∃ e ∈ (t.core d).nackFrom, e.1 = k) ∧ s.keepsMem t)))) ∧
      (∀ dead, m.st = .nacked dead → m.nacks + 1 < (s.core k).qretry.toNat → ∃ t q, exec (.nackReceived k uid) s = .next t ∧
        t.msg? k uid = some q ∧ q.st = .backoff ∧ q.nacks = m.nacks + 1 ∧ q.since = s.cycleOf k ∧ s.keepsMem t) ∧
      (∀ dead, m.st = .nacked dead → (s.core k).qretry.toNat ≤ m.nacks + 1 → (s.core k).window = [m] → (s.core k).hwWait = [] →
        s.coreGone k = false → m.frm = .ctx → m.ctx < 8 → (s.ctx k m.ctx).gen = m.gen → (s.ctx k m.ctx).st = .strand →
        (s.ctx k m.ctx).wait = .none → ∃ t, exec (.nackReceived k uid) s = .next t ∧ (t.core k).window = [] ∧ s.keepsMem t ∧
          s.Trapped t k m.ctx (if dead = true then cDEAD_DESTINATION else cNACK_LIMIT)
            (BitVec.ofNat 64 (m.chan + (m.words.length - 1) * 32 + 256)) ∧ (t.ctx k m.ctx).eaddr = BitVec.ofNat 64 (mhartid m.dst)) ∧
      (m.st = .backoff → s.msgDue k m = false → exec (.messageResend k uid) s = .next s) ∧
      (m.st = .backoff → s.msgDue k m = true → (s.core k).credit = false → ∃ t q, exec (.messageResend k uid) s = .next t ∧ t.msg? k uid = some q ∧
        q.st = .sent ∧ .messageDelivery k uid ∈ t.pending ∧ s.keepsMem t) ∧
      (m.st = .delivered → (s.core k).hwWait = [] → ∃ t, exec (.messageAck k uid) s = .next t ∧ s.keepsMem t ∧
        ∀ q ∈ (t.core k).window, q.uid ≠ uid) ∧
      (m.st ≠ .delivered → exec (.messageAck k uid) s = .next s) ∧
      (m.st = .waitGrant → ∃ t q, exec (.grantReceived k uid) s = .next t ∧ t.msg? k uid = some q ∧ q.st = .granted ∧
        q.grant = true ∧ .messageDelivery k uid ∈ t.pending ∧ s.keepsMem t ∧
        ∀ n, n < 8 → (s.ctx k n).wait = .grant uid → t.ctx k n = { s.ctx k n with wait := .none }) ∧
      (m.st = .retryGrant → s.msgDue k m = false → exec (.grantRequestRetry k uid) s = .next s) ∧
      (m.st = .retryGrant → s.msgDue k m = true → s.unreachable m.dst = false →
        let total := (s.core m.dst).chans.foldl (fun n e => n + e.2.reqs.length) 0
        (total < 32 → ∃ t q, exec (.grantRequestRetry k uid) s = .next t ∧ t.msg? k uid = some q ∧ q.st = .waitGrant ∧
          (t.chan m.dst m.chan).reqs = (s.chan m.dst m.chan).reqs ++ [(k, m.uid, m.words.length)] ∧
          .creditGrant m.dst m.chan ∈ t.pending) ∧
        (32 ≤ total → ∃ t q, exec (.grantRequestRetry k uid) s = .next t ∧ t.msg? k uid = some q ∧ q.st = .retryGrant ∧
          q.since = s.cycleOf k ∧ s.keepsMem t)) ∧
      (m.st = .atProxy → (idxOf m.dst, k, uid) ∈ (s.cluster (cluKey m.dst)).proxyIn → ∃ t q,
        exec (.proxyReturn k uid) s = .next t ∧ t.msg? k uid = some q ∧ q.st = .nacked true ∧ .nackReceived k uid ∈ t.pending ∧
        (idxOf m.dst, k) ∈ (t.cluster (cluKey m.dst)).returned ∧ s.keepsMem t)) ∧
    (∀ n src u c rest, (s.chan k n).reqs = (src, u, c) :: rest → s.msg? src u = some m → m.st = .waitGrant →
      ((s.chan k n).free < c → exec (.creditGrant k n) s = .next s) ∧
      (c ≤ (s.chan k n).free → ∃ t, exec (.creditGrant k n) s = .next t ∧ (t.chan k n).reqs = rest ∧
        (t.chan k n).grantResv = (s.chan k n).grantResv + c ∧ .grantReceived src u ∈ t.pending ∧ s.keepsMem t)) ∧
    (∀ c, (s.core k).window = [m] → m.st = .refused c →
      ((s.chan k 30).free = 0 → ∃ t, exec (.refusalWordPush k) s = .next t ∧ t = s.plan (.refusalWordPush k)) ∧
      ((s.chan k 30).free ≠ 0 → (s.chan k 30).poppers = [] → (s.core k).hwWait = [] → ∃ t, exec (.refusalWordPush k) s = .next t ∧
        (t.core k).window = [] ∧ (t.chan k 30).words = (s.chan k 30).words ++ [refusalWord k m c] ∧ s.keepsMem t))

/-- R110, R223, R225, R227-R229, R238: a request is performed at its home, after those of its context that it must follow, and once unless
it is a weak store that is sent again; the reply goes to the instruction that waits for it, the acknowledgement of a store to its context;
a fill whose check fails is poisoned.
The model's own choices that it rests on: log entries 6, 71. -/
def Obligations.RequestsAtHome : Prop :=
  ∀ (s : State) (id : Nat) (r : Req), s.req? id = some r →
    let loc (a : Nat) : Loc := s.locOfKey a r.keyid
    let performed (t : State) (v : Word) : Prop := ∃ q, t.req? id = some q ∧ q.phase = .done ∧ q.reply = v ∧ q.kind = r.kind
    (r.phase = .home → s.behind r = true → exec (.memoryRequestAtHome id) s = .next s) ∧
    (r.phase = .home → s.behind r = false →
      (∀ bs strong, r.kind = .store bs strong → ∃ t, exec (.memoryRequestAtHome id) s = .next t ∧ performed t 0 ∧
        (Loc.Apart (bs.map (fun b => loc b.1)) → ∀ b ∈ bs, t.byteAt (loc b.1) = b.2) ∧
        (if r.src = r.dst then .storeAck id ∈ t.pending else .e2eAck r.src r.dst r.seq ∈ t.pending)) ∧
      (∀ keys signed rd, r.kind = .load keys signed rd false → s.firstDataError r.va (keys.map loc) = none →
        ∃ t, exec (.memoryRequestAtHome id) s = .next t ∧ performed t (extended signed (keys.map (fun a => s.byteAt (loc a)))) ∧
          .loadReply id ∈ t.pending ∧ s.keepsMem t) ∧
      (∀ op a dbl rd b e, r.kind = .amo op a dbl rd b e → s.firstDataError r.va ((natsFrom a (if dbl then 8 else 4)).map loc) = none →
        let ls := (natsFrom a (if dbl then 8 else 4)).map loc
        let p := amoStep op dbl (ls.map s.byteAt) b e
        ∃ t, exec (.memoryRequestAtHome id) s = .next t ∧ performed t p.2.1 ∧ .loadReply id ∈ t.pending ∧
          (p.2.2 = false → s.keepsMem t) ∧
          (p.2.2 = true → Loc.Apart ls → ∀ x ∈ ls.zip p.1, t.byteAt x.1 = x.2)) ∧
      (∀ bs rd b rest, r.kind = .sc bs rd → bs = b :: rest →
        ((s.ctx r.core r.ctx).lrRes ≠ some (lineOf (loc b.1).key) → ∃ t, exec (.memoryRequestAtHome id) s = .next t ∧ performed t 1 ∧
          (t.ctx r.core r.ctx).lrRes = none ∧ .loadReply id ∈ t.pending ∧ s.keepsMem t) ∧
        ((s.ctx r.core r.ctx).lrRes = some (lineOf (loc b.1).key) → ∃ t, exec (.memoryRequestAtHome id) s = .next t ∧ performed t 0 ∧
          (t.ctx r.core r.ctx).lrRes = none ∧ .loadReply id ∈ t.pending ∧
          (Loc.Apart (bs.map (fun b => loc b.1)) → ∀ b ∈ bs, t.byteAt (loc b.1) = b.2))) ∧
      (∀ keys signed rd f, r.kind = .load keys signed rd false → s.firstDataError r.va (keys.map loc) = some f →
        (s.ctx r.core r.ctx).wait = .reply id → ∃ t, exec (.memoryRequestAtHome id) s = .next t ∧
          s.Trapped t r.core r.ctx f.cause f.info ∧ s.keepsMem t)) ∧
    (r.phase = .done → r.again = false → exec (.memoryRequestAtHome id) s = .next s) ∧
    (∀ bs, r.phase = .done → r.again = true → r.kind = .store bs false → ∃ t, exec (.memoryRequestAtHome id) s = .next t ∧
      t.reqs = s.reqs ∧ (Loc.Apart (bs.map (fun b => loc b.1)) → ∀ b ∈ bs, t.byteAt (loc b.1) = b.2)) ∧
    (∀ rd, r.phase = .done → ReqKind.target r.kind = some rd → (s.ctx r.core r.ctx).wait = .reply id →
      ∃ t, exec (.loadReply id) s = .next t ∧ s.Wakes t r.core r.ctx rd r.reply ∧ (∀ q ∈ t.reqs, q.id ≠ id) ∧ s.keepsMem t) ∧
    (∀ bs strong, r.phase = .done → r.kind = .store bs strong → r.src = r.dst → ∃ t, exec (.storeAck id) s = .next t ∧
      t.reqs = s.reqs.filter (fun q => q.id != id) ∧ s.keepsMem t ∧
      (strong = false → r.ctx < 8 → (t.ctx r.core r.ctx).unacked = (t.storesOf r.core r.ctx).length ∧
        ((s.ctx r.core r.ctx).wait = .acks → (t.ctx r.core r.ctx).wait = .none)) ∧
      (strong = true → (s.ctx r.core r.ctx).wait = .reply id →
        t.ctx r.core r.ctx = { s.ctx r.core r.ctx with pc := (s.ctx r.core r.ctx).pc + 4, wait := .none })) ∧
    (∀ line, 512 * 2 ^ 46 ≤ line * 128 → line * 128 < 576 * 2 ^ 46 →
      (∃ t, exec (.dramFillComplete line true) s = .next t ∧ s.keepsMem t ∧
        (tfind line s.poison = none → tfind line t.poison = some (2 ^ 128 - 1))) ∧
      exec (.dramFillComplete line false) s = .next s) ∧
    (∀ die, exec (.dramRefresh die) s = .next s)

/-- R238-R242, R383-R389, R397: a request that arrives in order goes on to its home and one out of order is dropped; a duplicate is
acknowledged again; acknowledgements are cumulative; a time-out sends the unacknowledged requests again, up to the limit, and then
ends them; a stream with nothing outstanding closes.
The model's own choices that it rests on: log entries 61, 71, 100. -/
def Obligations.Transport : Prop :=
  ∀ (s : State) (src dst seq : Nat),
    let st := s.stream src dst
    let key := streamKey src dst
    (∀ r, s.atRequest src dst seq = some r →
      (r.phase = .done → ∃ t, exec (.e2eRequestArrival src dst seq) s = .next t ∧ t = s.plan (.e2eAck src dst seq)) ∧
      (r.phase = .transit → r.lost = true → exec (.e2eRequestArrival src dst seq) s = .next s) ∧
      (r.phase = .transit → r.lost = false →
        (s.reqWay r = .waits → ∃ t, exec (.e2eRequestArrival src dst seq) s = .next t ∧ t = s.plan (.e2eRequestArrival src dst seq)) ∧
        (∀ d m, s.reqWay r = .drops d m → ∃ t, exec (.e2eRequestArrival src dst seq) s = .next t ∧
          (t.link d m).dropped = (s.link d m).dropped + 1 ∧ (∃ q, t.req? r.id = some q ∧ q.lost = true) ∧ s.keepsMem t) ∧
        (s.reqWay r = .through →
          (∀ g, tfind key s.ingress = some g →
            (r.openBit = true ∨ r.seq = g.expect → ∃ t, exec (.e2eRequestArrival src dst seq) s = .next t ∧
              tfind key t.ingress = some { expect := (r.seq + 1) % 65536, replies := [] } ∧
              (∃ q, t.req? r.id = some q ∧ q.phase = .home) ∧ .memoryRequestAtHome r.id ∈ t.pending ∧ s.keepsMem t) ∧
            (r.openBit = false → r.seq ≠ g.expect → ∃ t, exec (.e2eRequestArrival src dst seq) s = .next t ∧ t.ingress = s.ingress ∧
              t.pending = s.pending ∧ (∃ q, t.req? r.id = some q ∧ q.lost = true) ∧ s.keepsMem t)) ∧
          (tfind key s.ingress = none →
            (r.openBit = false → ∃ t, exec (.e2eRequestArrival src dst seq) s = .next t ∧ .e2eResetReply src dst ∈ t.pending ∧
              t.ingress = s.ingress ∧ t.reqs = s.reqs ∧ s.keepsMem t) ∧
            (r.openBit = true → s.entriesAt dst < 256 → ∃ t, exec (.e2eRequestArrival src dst seq) s = .next t ∧
              tfind key t.ingress = some { expect := (r.seq + 1) % 65536, replies := [] } ∧ .memoryRequestAtHome r.id ∈ t.pending) ∧
            (r.openBit = true → 256 ≤ s.entriesAt dst → ∃ t, exec (.e2eRequestArrival src dst seq) s = .next t ∧
              t.ingress = s.ingress ∧ t.stream src dst = { st with busy := true, busyAt := (s.chip src).cycle }))))) ∧
    (∀ n rest, st.unacked = n :: rest →
      (s.completed src dst n = false → exec (.e2eAck src dst n) s = .next s) ∧
      (s.completed src dst n = true → (∀ q ∈ s.reqs, q.phase ≠ .egress) → ∃ t, exec (.e2eAck src dst n) s = .next t ∧
        (t.stream src dst).unacked = rest ∧ (t.stream src dst).counted = 0 ∧ s.keepsMem t ∧
        (rest = [] → .e2eCloseMarker src dst ∈ t.pending) ∧
        (∀ r bs b, r ∈ s.reqs → r.src = src → r.dst = dst → r.seq = n → r.phase = .done → r.kind = .store bs b →
          .storeAck r.id ∈ t.pending))) ∧
    (st.opened = true → st.unacked = [] → (∀ r ∈ s.reqs, ¬(r.src = src ∧ r.dst = dst)) → tfind dst (s.chip src).draining = none →
      ∃ t, exec (.e2eCloseMarker src dst) s = .next t ∧ (t.stream src dst).opened = false ∧ tfind key t.ingress = none ∧ s.keepsMem t) ∧
    (s.e2eDue src dst = false → exec (.e2eTimeout src dst) s = .next s) ∧
    (s.e2eDue src dst = true → st.counted < (s.chip src).e2eLimit → ∃ t, exec (.e2eTimeout src dst) s = .next t ∧
      t.stream src dst = { st with counted := st.counted + 1 } ∧ s.keepsMem t ∧
      (s.heldAt src dst = false → ∀ n ∈ st.unacked, .e2eRequestArrival src dst n ∈ t.pending) ∧
      (∀ q ∈ t.reqs, q.src = src → q.dst = dst → q.phase = .transit → q.seq ∈ st.unacked → q.lost = s.heldAt src dst)) ∧
    (s.e2eDue src dst = true → (s.chip src).e2eLimit ≤ st.counted → (∀ q ∈ s.reqs, q.phase ≠ .egress) →
      ∃ t, exec (.e2eTimeout src dst) s = .next t ∧ (t.stream src dst).opened = false ∧ (t.stream src dst).unacked = [] ∧
        (t.stream src dst).next = st.next ∧ s.keepsMem t ∧
        (∀ r keys signed rd lr, s.reqs = [r] → r.src = src → r.dst = dst → r.seq ∈ st.unacked → r.kind = .load keys signed rd lr →
          (s.ctx r.core r.ctx).wait = .reply r.id → t.reqs = [] ∧ s.Trapped t r.core r.ctx cTRANSPORT_TIMEOUT 0 ∧
            (t.ctx r.core r.ctx).eaddr = r.va) ∧
        (∀ r bs, s.reqs = [r] → r.src = src → r.dst = dst → r.seq ∈ st.unacked → r.kind = .store bs true → r.ctx < 8 →
          (s.ctx r.core r.ctx).wait = .reply r.id → t.reqs = [] ∧ s.Trapped t r.core r.ctx cTRANSPORT_TIMEOUT 0) ∧
        (∀ r bs, s.reqs = [r] → r.src = src → r.dst = dst → r.seq ∈ st.unacked → r.kind = .store bs false → r.ctx < 8 →
          (s.ctx r.core r.ctx).xportErr = none → t.reqs = [] ∧ (t.ctx r.core r.ctx).unacked = 0 ∧
            ∃ e, (t.ctx r.core r.ctx).xportErr = some e ∧ e.cause = cTRANSPORT_TIMEOUT ∧ e.eaddr = r.va ∧ e.einfo = 0)) ∧
    (st.busy = false → exec (.e2eBusyResend src dst) s = .next s) ∧
    (∀ due, due = passed (s.chip src).cycle st.busyAt (BitVec.ofNat 64 (s.chip src).e2eBusy) → st.busy = true →
      (due = false → exec (.e2eBusyResend src dst) s = .next s) ∧
      (due = true → ∃ t, exec (.e2eBusyResend src dst) s = .next t ∧ t.stream src dst = { st with busy := false } ∧
        (s.heldAt src dst = false → ∀ n ∈ st.unacked, .e2eRequestArrival src dst n ∈ t.pending) ∧ s.keepsMem t)) ∧
    ((tfind key s.ingress).isSome = true → exec (.e2eResetReply src dst) s = .next s) ∧
    (st.opened = true → tfind key s.ingress = none → (∀ q ∈ s.reqs, q.phase ≠ .egress) → ∃ t, exec (.e2eResetReply src dst) s = .next t ∧
      (t.stream src dst).opened = false ∧ (t.stream src dst).unacked = [] ∧ s.keepsMem t) ∧
    (∃ t, exec (.gapNotice src dst seq) s = .next t ∧ t.stream src dst = st ∧ s.keepsMem t ∧
      (s.heldAt src dst = false → ∀ n ∈ st.unacked.dropWhile (fun n => n != seq), .e2eRequestArrival src dst n ∈ t.pending))

/-! Links between dies and modules (chapters 15, 16). -/

/-- R391-R398, R401, R461: the commands of a link module and what training, retries, lost flits and beats, and the frames of a peer do. A
change of state is told to the owner of each end.
The model's own choices that it rests on: log entries 62, 63, 64, 66. -/
def Obligations.Links : Prop :=
  ∀ (s : State) (die m : Nat),
    let l := s.link die m
    let st := s.linkState die m
    let works := st = 1 ∨ st = 2
    let both (t : State) (p : Link → Prop) : Prop := ∀ e ∈ s.ends die m, p (t.link e.1 e.2)
    let told (t : State) : Prop := ∀ o, o = s.linkOwner die m → l.evtEn = true → (s.core o).windowBusy = false → (s.core o).hwWait = [] →
      ∃ q ∈ (t.core o).window, q.uid = (s.core o).nextUid ∧ q.dst = o ∧ q.chan = 28 ∧
        q.words = [linkWord 0 1 (t.link die m).state 0 m]
    (works → l.pausing = false → ∃ t, exec (.lnkPause die m) s = .next t ∧ t.link die m = { l with pausing := true } ∧
      both t (fun l => l.pausing = true) ∧ (∀ e ∈ s.ends die m, t.linkUp e.1 e.2 = false) ∧
      .linkPauseComplete die m ∈ t.pending ∧ s.keepsMem t) ∧
    (¬works → exec (.lnkPause die m) s = .next s ∧ exec (.linkPauseComplete die m) s = .next s ∧
      exec (.linkRetryExhausted die m) s = .next s) ∧
    (works → l.pausing = true → ∃ t, exec (.linkPauseComplete die m) s = .next t ∧ both t (fun l => l.state = 3 ∧ l.pausing = false) ∧
      told t ∧ s.keepsMem t) ∧
    (works → ∃ t, exec (.linkRetryExhausted die m) s = .next t ∧ both t (fun l => l.state = 4 ∧ l.fromPaused = false) ∧
      told t ∧ s.keepsMem t) ∧
    (s.linkNotcon die m = false → l.state = 3 ∨ l.state = 5 → ∃ t, exec (.lnkRetrain die m) s = .next t ∧
      both t (fun l => l.state = 4 ∧ l.fromPaused = true ∧ l.attempts = 0 ∧ l.taken = some (l.lanemap, l.force32)) ∧ told t ∧
      s.keepsMem t) ∧
    (s.linkNotcon die m = true → exec (.lnkRetrain die m) s = .next s) ∧
    (st = 3 → ∃ t, exec (.lnkResume die m) s = .next t ∧ both t (fun l => l.state = (if l.x32 then 2 else 1) ∧ l.pausing = false) ∧
      told t ∧ s.keepsMem t) ∧
    (st ≠ 3 → exec (.lnkResume die m) s = .next s) ∧
    (st ≠ 5 → ∃ t, exec (.lnkFail die m) s = .next t ∧ both t (fun l => l.state = 5 ∧ l.pausing = false) ∧ told t ∧ s.keepsMem t) ∧
    (st = 5 → exec (.lnkFail die m) s = .next s) ∧
    (∀ (bad badFar : BitVec 64) e, st = 0 ∨ st = 4 → s.farEnd die m = some e → e ≠ (die, m) →
      let near := (l.lanesBad bad).training
      let far := ((s.link e.1 e.2).lanesBad badFar).training
      let a := trainAs near.1 near.2
      let b := trainAs far.1 far.2
      (∀ x y, a = some x → b = some y → ∃ t, exec (.linkTrainingDone die m bad badFar) s = .next t ∧ s.keepsMem t ∧
        both t (fun l => l.x32 = (x.1 || y.1) ∧
          l.state = if st = 4 ∧ (s.link die m).fromPaused = true then 3 else if x.1 = true ∨ y.1 = true then 2 else 1)) ∧
      (a = none ∨ b = none → l.attempts + 1 < 3 → ∃ t, exec (.linkTrainingDone die m bad badFar) s = .next t ∧ s.keepsMem t ∧
        t.link die m = { l.lanesBad bad with attempts := l.attempts + 1 }) ∧
      (a = none ∨ b = none → 3 ≤ l.attempts + 1 → ∃ t, exec (.linkTrainingDone die m bad badFar) s = .next t ∧ s.keepsMem t ∧
        both t (fun l => l.state = 5))) ∧
    (∀ bad : BitVec 64, (l.lanesBad bad).lanemap = l.lanemap ||| bad ∧ (l.lanesBad bad).training =
      ((match l.taken with | some x => x.1 | none => l.lanemap) ||| bad, match l.taken with | some x => x.2 | none => l.force32)) ∧
    (∀ (lanes : BitVec 64) half, (badIn lanes half ≤ 32) ∧ (badIn lanes 0 + badIn lanes 1 ≤ 4 → trainAs lanes false =
      some (false, false, badIn lanes 0 + badIn lanes 1)) ∧ (4 < badIn lanes 0 → 4 < badIn lanes 1 → trainAs lanes true = none)) ∧
    (∀ lanes : BitVec 64, ∃ t, exec (.flitCrcError die m lanes) s = .next t ∧ (t.link die m).retryCnt = l.retryCnt + 1 ∧
      (t.link die m).errlane = l.errlane ||| lanes ∧
      (t.link die m).windowCnt = (if s.windowOver die m = true then 0 else l.windowCnt) + 1 ∧ s.keepsMem t) ∧
    (l.thr = 0 ∨ l.windowCnt < l.thr.toNat ∨ l.windowSent = true → exec (.lnkRetryThreshold die m) s = .next s) ∧
    (l.thr ≠ 0 → l.thr.toNat ≤ l.windowCnt → l.windowSent = false → ∃ t, exec (.lnkRetryThreshold die m) s = .next t ∧
      t.link die m = { l with windowSent := true } ∧ s.keepsMem t ∧
      (∀ o, o = s.linkOwner die m → l.evtEn = true → (s.core o).windowBusy = false → (s.core o).hwWait = [] →
        ∃ q ∈ (t.core o).window, q.uid = (s.core o).nextUid ∧ q.dst = o ∧ q.chan = 28 ∧
          q.words = [BitVec.ofNat 64 (l.retryCnt.toNat * 2 ^ 32 + st * 2 ^ 16 + m)])) ∧
    (s.windowOver die m = false → exec (.lnkRetryWindowEnd die m) s = .next s) ∧
    (s.windowOver die m = true → ∃ t, exec (.lnkRetryWindowEnd die m) s = .next t ∧
      t.link die m = { l with windowCnt := 0, windowSent := false, windowAt := (s.chip die).time } ∧ s.keepsMem t) ∧
    (∀ corrected metaOk beats, (∃ t, exec (.flitReplay die m corrected true metaOk beats) s = .next t ∧ t.reqs = s.reqs ∧
        t.link die m = { l with corrected := (l.corrected + corrected) % 2 ^ 32 } ∧ s.keepsMem t) ∧
      ∃ t, exec (.flitReplay die m corrected false metaOk beats) s = .next t ∧ s.keepsMem t ∧
        (∀ r ∈ t.reqs, r.phase = .transit → (r.src, r.dst, r.seq) ∈ beats → r.lost = true) ∧
        (t.link die m).gaps = (if metaOk = true then (l.gaps + 1) % 2 ^ 32 else l.gaps) ∧
        (metaOk = true → ∀ b ∈ beats, .gapNotice b.1 b.2.1 b.2.2 ∈ t.pending)) ∧
    (∀ cluster, (∃ t, exec (.beatLost die cluster) s = .next t ∧ s.keepsMem t ∧
        ∀ k, die * 2244 ≤ k → k < die * 2244 + 2244 → (t.core k).stopped = true ∧
          ((s.core k).stopped = false → (t.core k).stopCause = cMACHINE_CHECK)) ∧
      exec (.beatLinkLevelRetry die cluster true) s = .next s ∧
      exec (.beatLinkLevelRetry die cluster false) s = exec (.beatLost die cluster) s) ∧
    (∀ p fcs bytes,
      (fcs = false ∨ s.frameOk die p bytes = false → ∃ t, exec (.scaleoutFrameReceive die p fcs bytes) s = .next t ∧
        t = s.chipLog die 0 p) ∧
      (∀ smod sdie ddie seq, fcs = true → s.frameOk die p bytes = true → smod = frameField bytes 16 2 % 4096 →
        sdie = frameField bytes 20 2 % 1024 → ddie = frameField bytes 22 2 % 1024 → seq = frameField bytes 24 2 →
        (frameField bytes 14 1 / 16 = 1 → ∃ t, exec (.scaleoutFrameReceive die p fcs bytes) s = .next t ∧
          t = s.plan (.e2eAck ddie (peerDst smod sdie) seq)) ∧
        (frameField bytes 14 1 / 16 = 4 → ∃ t, exec (.scaleoutFrameReceive die p fcs bytes) s = .next t ∧
          t = s.plan (.gapNotice ddie (peerDst smod sdie) seq)) ∧
        (frameField bytes 14 1 / 16 = 3 → ∃ t, exec (.scaleoutFrameReceive die p fcs bytes) s = .next t ∧
          t = s.giveUp ddie (peerDst smod sdie)) ∧
        (∀ b g n, frameField bytes 14 1 / 16 = 0 → frameField bytes 26 1 = 1 → frameField bytes 15 1 = 0 → b = (bytes.drop 46).take 80 →
          frameField b 4 4 / 2 ^ 15 = 0 → frameField b 2 1 ≠ 0x80 → tfind (peerKey smod sdie ddie) s.ingress = some g →
          1 ≤ n → n ≤ 32 → (frameField b 0 2 + n) % 65536 = g.expect → ∃ t, exec (.scaleoutFrameReceive die p fcs bytes) s = .next t ∧
            t = s.answerPeer ddie (peerDst smod sdie) (frameField b 0 2) ((g.expect + 65535) % 65536)
                  (tget [] (frameField b 0 2 % 32) g.replies)) ∧
        (∀ b g ls, frameField bytes 14 1 / 16 = 0 → frameField bytes 26 1 = 1 → b = (bytes.drop 46).take 80 →
          frameField b 4 4 / 2 ^ 15 = 0 → frameField b 2 1 = 2 → tfind (peerKey smod sdie ddie) s.ingress = some g →
          frameField b 0 2 = g.expect → ls = s.peerPlaces (frameField b 8 8) (frameField b 3 1 % 128) → ls ≠ [] →
          ∃ t, exec (.scaleoutFrameReceive die p fcs bytes) s = .next t ∧
            (∃ x, tfind (peerKey smod sdie ddie) t.ingress = some x ∧ x.expect = (g.expect + 1) % 65536) ∧
            (Loc.Apart ((ls.zip (b.drop 16)).map (·.1)) → ∀ x ∈ ls.zip (b.drop 16), t.byteAt x.1 = x.2))))

/-! Registers, power and bring-up (chapters 17, 18). -/

/-- R221, R289, R310, R349, R383, R384, R388, R429: what a write does to a register: the queue mode, a semaphore's count, a path of the
network-select table, and registers that a write by offset reaches.
The model's own choices that it rests on: log entries 37, 79. -/
def Obligations.RegisterWrites : Prop :=
  ∀ (s : State) (a : Agent) (chip clu : Nat) (v : Word),
    (clu < 132 →
      (Agent.serves a (chip * 132 + clu) = false → ∃ t, exec (.dispQmodeWrite a chip clu v) s = .next t ∧ t = s.chipLog chip 0 clu) ∧
      (Agent.serves a (chip * 132 + clu) = true → ∃ t, exec (.dispQmodeWrite a chip clu v) s = .next t ∧ s.keepsMem t ∧
        tget 0x1FFFF clu (t.chip chip).qmode = v &&& 0x1FFFF ∧
        ∀ i, i < 17 → (t.core (coreKey chip clu i)).creditNext = v.getLsbD i ∧
          ((s.core (coreKey chip clu i)).creditNext ≠ v.getLsbD i → (s.core (coreKey chip clu i)).window = [] →
            (t.core (coreKey chip clu i)).credit = v.getLsbD i))) ∧
    (∀ k, clu < 132 → k < 4 → (∀ j, ((s.cluster (chip * 132 + clu)).sem j).waiters = []) →
      ∃ t, exec (.dispSyncSemWrite chip clu k v) s = .next t ∧ s.keepsMem t ∧
        (∀ i, i < 4 → ((t.cluster (chip * 132 + clu)).sem (4 * k + i)).count = bits v (16 * i + 15) (16 * i)) ∧
        ∀ j, ¬(4 * k ≤ j ∧ j < 4 * k + 4) → (t.cluster (chip * 132 + clu)).sem j = (s.cluster (chip * 132 + clu)).sem j) ∧
    (∀ die d,
      (1024 ≤ d → exec (.lnkNselWrite die d v) s = .next s) ∧
      (d < 1024 → s.nselOk die d v = false → ∃ t, exec (.lnkNselWrite die d v) s = .next t ∧ t = s.chipLog die 0 d) ∧
      (d < 1024 → s.nselOk die d v = true → (∀ r ∈ s.reqs, r.phase ≠ .egress) → ∃ t, exec (.lnkNselWrite die d v) s = .next t ∧
        s.keepsMem t ∧ tget 0 d (t.chip die).nsel = BitVec.ofNat 64 (bits v 13 4 * 16 + bits v 2 0) ∧
        ((s.stream die d).unacked = [] → t.reqs = s.reqs) ∧
        (d = die → s.inDie die = true → tfind d (s.chip die).draining = none →
          nselPath (s.nsel die d) ≠ nselPath (BitVec.ofNat 64 (bits v 13 4 * 16 + bits v 2 0)) →
          tfind d (t.chip die).draining = some (s.nsel die d)) ∧
        (d ≠ die → bits (s.nsel die d) 1 0 ≠ 3 → (s.stream die d).unacked ≠ [] → tfind d (s.chip die).draining = none →
          nselPath (s.nsel die d) ≠ nselPath (BitVec.ofNat 64 (bits v 13 4 * 16 + bits v 2 0)) →
          tfind d (t.chip die).draining = some (s.nsel die d) ∧ ∃ r ∈ t.reqs, r.kind = .drain d ∧ r.src = die ∧ r.dst = d))) ∧
    (∀ die off wide, off % (if wide = true then 8 else 4) ≠ 0 → exec (.registerWrite a die off wide v) s = .next s) ∧
    (∀ die off wide, off < 2 ^ 40 → ¬(512 ≤ die ∧ die < 576) → s.mmioRead die (off / 8 * 8) = none →
      exec (.registerWrite a die off wide v) s = .next s) ∧
    (∃ t, exec (.registerWrite a 608 0x2000 true v) s = .next t ∧ t = s.modTrust (fun x => { x with budget := v.setWidth 32 })) ∧
    (chip < s.grade → chip < 512 →
      (∃ t, exec (.registerWrite a chip 0x1000 true v) s = .next t ∧
        t = s.modChip chip (fun c => { c with aging := if bits v 31 0 = 0 then 1 else bits v 31 0 })) ∧
      (∃ t, exec (.registerWrite a chip 0x1004 false v) s = .next t ∧ (t.chip chip).aging = (s.chip chip).aging) ∧
      (∃ t, exec (.registerWrite a chip 0x44000 true v) s = .next t ∧ t = s.modChip chip (fun c => { c with
        e2eTmo := if bits v 15 0 = 0 then 1 else bits v 15 0, e2eLimit := if bits v 23 16 = 0 then 1 else bits v 23 16,
        e2eBusy := if bits v 39 24 = 0 then 1 else bits v 39 24 })))

/-- R30-R32, R426-R431, R437: operating points, shares of the budget, throttling, region wakes, thermal trips and clock losses, and the
discipline of time.
The model's own choices that it rests on: log entries 12, 24, 76, 82, 103, 104. -/
def Obligations.Power : Prop :=
  ∀ (s : State) (chip : Nat) (v : Word),
    let d := s.die chip
    let p := bits v 2 0
    let idle := bits v 6 4
    (∀ q, d.change = some q → d.want = none → ∃ t, exec (.opPointChangeDone chip) s = .next t ∧ s.keepsMem t ∧
      t.die chip = { d with op := if d.raising = true then q else d.op, change := none, raising := false }) ∧
    (s.grade ≤ chip → exec (.pwrOpWrite chip v) s = .next s) ∧
    (chip < s.grade → p < 6 → idle < 6 →
      (s.inService chip = false → ∃ t, exec (.pwrOpWrite chip v) s = .next t ∧ t = s.modDie chip (fun d => { d with idle := idle, target := p })) ∧
      (s.inService chip = true → d.op < 4 → d.change = none → p < 4 →
        (p < d.op → ∃ t, exec (.pwrOpWrite chip v) s = .next t ∧ .opPointChangeDone chip ∈ t.pending ∧
          t.die chip = { d with idle := idle, target := p, change := some p, raising := true }) ∧
        (d.op < p → ∃ t, exec (.pwrOpWrite chip v) s = .next t ∧ .opPointChangeDone chip ∈ t.pending ∧
          t.die chip = { d with idle := idle, target := p, op := p, change := some d.op, raising := false })) ∧
      (s.inService chip = true → d.op < 4 → 4 ≤ p →
        (s.hasGroup chip = true ∨ (p = 5 ∧ s.holdsBoard chip = true) → ∃ t, exec (.pwrOpWrite chip v) s = .next t ∧ s.keepsMem t ∧
          t.die chip = { d with idle := idle, target := p } ∧ t.trust.refused = (s.trust.refused + 1) % 2 ^ 32) ∧
        (s.hasGroup chip = false → s.holdsBoard chip = false → ∃ t, exec (.pwrOpWrite chip v) s = .next t ∧ (t.die chip).op = p ∧
          (t.die chip).state = .gated ∧ (t.die chip).change = none)) ∧
      (s.inService chip = true → d.op = 5 → p < 4 → (s.region (s.regionOf chip)).state = 3 → ∃ t, exec (.pwrOpWrite chip v) s = .next t ∧
        (t.die chip).op = p ∧ (t.die chip).change = none ∧ ∀ k, isMgmt k = false → chipOf k = chip → (t.core k).hbcount = 0)) ∧
    (∀ r, r < 64 → let g := s.region r
      let alone := ∀ q, q ≠ r → (s.region q).state ≠ 1 ∧ (s.region q).state ≠ 2 ∧ (s.region q).wanted = false
      let len : Word := if g.slow = true then 524288000 else 131072000
      (g.state ≠ 2 ∨ passed s.trustTime g.stepAt len = false → exec (.regionGateStep r) s = .next s) ∧
      (g.state = 2 → passed s.trustTime g.stepAt len = true → g.steps + 1 < 64 → ∃ t, exec (.regionGateStep r) s = .next t ∧
        t.region r = { g with steps := g.steps + 1, stepAt := g.stepAt + len } ∧ .regionGateStep r ∈ t.pending ∧ s.keepsMem t) ∧
      (g.state = 2 → passed s.trustTime g.stepAt len = true → g.steps + 1 = 64 → ∃ t, exec (.regionGateStep r) s = .next t ∧ (t.region r).state = 3) ∧
      (g.state = 0 → alone → s.trust.regionChips r ≠ [] →
        (s.crowded r = false → ∃ t, exec (.regionWakeRequest r) s = .next t ∧ (t.region r).state = 2 ∧ (t.region r).steps = 0 ∧
          .regionGateStep r ∈ t.pending ∧ s.keepsMem t) ∧
        (s.crowded r = true → ∃ t, exec (.regionWakeRequest r) s = .next t ∧ (t.region r).state = 1 ∧ s.keepsMem t)) ∧
      (g.state ≠ 0 → exec (.regionWakeRequest r) s = .next s) ∧
      (g.state = 1 → alone →
        (s.crowded r = false → ∃ t, exec (.wakeDeferRelease r) s = .next t ∧ (t.region r).state = 2 ∧ (t.region r).slow = false ∧
          .regionGateStep r ∈ t.pending) ∧
        (s.crowded r = true → exec (.wakeDeferRelease r) s = .next s) ∧
        (s.crowded r = true → s.deferOver r = true → ∃ t, exec (.wakeDeferExpiry r) s = .next t ∧ (t.region r).state = 2 ∧
          (t.region r).slow = true ∧ .regionGateStep r ∈ t.pending) ∧
        (s.deferOver r = false → exec (.wakeDeferExpiry r) s = .next s)) ∧
      (let sumF := ((natsFrom 0 64).map (fun r => (s.region r).fixedMw)).sum
       let sumW := ((natsFrom 0 64).map (fun r => (s.region r).weight)).sum
       let b := min (max s.trust.budget.toNat sumF) 40000000
       passed s.trustTime s.trust.powerAt 65536000000 = true → ∃ t, exec (.powerRecompute []) s = .next t ∧ t.trust.floor = decide (s.trust.budget.toNat < sumF) ∧ s.keepsMem t ∧
        (t.region r).allow = g.fixedMw + (if sumW = 0 then 0 else (b - sumF) * g.weight / sumW)) ∧
      (∀ ds, passed s.trustTime s.trust.powerAt 65536000000 = false → exec (.powerRecompute ds) s = .next s) ∧
      (∀ c, c ∈ s.sharers r → (s.die c).op < 3 → (s.die c).change = none → passed s.trustTime (s.die c).stepAt 65536000000 = true →
        ∃ t, exec (.powerThrottle r (some c)) s = .next t ∧
        t.die c = { s.die c with op := (s.die c).op + 1, change := some (s.die c).op, raising := false, stepAt := s.trustTime } ∧
        (cENERGY_THROTTLE, (s.die c).op + 1) ∈ (t.cluster (c * 132)).log ∧ s.keepsMem t) ∧
      (g.above < 2 → exec (.powerThrottle r none) s = .next s)) ∧
    (let g := s.region (s.regionOf chip)
     (s.inService chip = true → d.op < 4 → d.target < d.op → g.drawMw * 10 < g.allow * 9 → d.change = none →
      passed s.trustTime d.stepAt 655360000000 = true → ∃ t, exec (.powerUnthrottle chip) s = .next t ∧
        t.die chip = { d with change := some (d.op - 1), raising := true, stepAt := s.trustTime } ∧ s.keepsMem t) ∧
     (d.change = none → passed s.trustTime d.stepAt 655360000000 = false → exec (.powerUnthrottle chip) s = .next s) ∧
     (g.allow * 9 ≤ g.drawMw * 10 → exec (.powerUnthrottle chip) s = .next s)) ∧
    (s.inService chip = false → exec (.thermalTrip chip) s = .next s ∧ exec (.clockLoss chip) s = .next s) ∧
    (s.inService chip = true → ∃ t, exec (.thermalTrip chip) s = .next t ∧ (t.die chip).op = 5 ∧ (t.die chip).state = .gated ∧
      (t.die chip).fail = 6 ∧ 1026 ∈ t.trust.msix) ∧
    (s.inService chip = true → d.losses + 1 < 3 → ∃ t, exec (.clockLoss chip) s = .next t ∧ (t.die chip).state = .clocked ∧
      (t.die chip).losses = d.losses + 1 ∧ (t.die chip).fail = 5 ∧ (chip < 512 → (t.die chip).op = 5) ∧ (t.chip chip).cycle = 0) ∧
    (∀ (ref : Word) bound, ∃ t, exec (.timeSyncExchange chip ref bound) s = .next t ∧ (t.chip chip).lastSync = (t.chip chip).time ∧
      (t.chip chip).holdover = false ∧ s.keepsMem t ∧ (s.slews chip = false → (t.chip chip).time = s.measured chip ref bound) ∧
      (chip ≠ 608 → ∃ e : Word, s.measured chip ref bound = (s.chip 608).time + e ∧ e.toInt.natAbs * 1000 ≤ bound * 65536) ∧
      (s.slews chip = true → ((t.chip chip).time - (s.chip chip).time).toNat ≤
        ((s.chip chip).time - (s.chip chip).lastSync).toNat / 2000)) ∧
    ((s.chip chip).holdover = false → 655360000000 ≤ (s.chip chip).time - (s.chip chip).lastSync →
      ∃ t, exec (.holdoverEnter chip) s = .next t ∧ t = s.modChip chip (fun c => { c with holdover := true })) ∧
    ((s.chip chip).time - (s.chip chip).lastSync < 655360000000 → exec (.holdoverEnter chip) s = .next s)

/-- R22-R28, R259, R261, R262, R439: a core that is lost is quarantined and its index PROXIED; the spare takes it over, empty; heartbeats
are counted and missed; a part that fails is retired in the log and the map, and may be reinstated.
The model's own choices that it rests on: log entries 14, 33, 65, 77. -/
def Obligations.LostParts : Prop :=
  ∀ (s : State) (k : Nat),
    let clu := cluKey k
    let bind (s : State) (k : Nat) : BindState := tget .bound (idxOf k) (s.cluster (cluKey k)).binds
    let quarantined (t : State) : Prop := bind t k = .proxied ∧ (t.core k).stopped = true ∧ (t.core k).tlb = [] ∧
      (t.core k).handlers = [] ∧ ∀ n, n < 8 → (t.ctx k n).st = .quarantined
    (∀ cause : BitVec 6,
      (isCompute k = true → bind s k = .bound → ∃ t, exec (.coreQuarantine k cause) s = .next t ∧ quarantined t) ∧
      (isCompute k = false ∨ bind s k = .proxied → exec (.coreQuarantine k cause) s = .next s)) ∧
    (isCompute k = true → bind s k = .bound → s.beatMissed k = true → ∃ t, exec (.heartbeatMissed k) s = .next t ∧ quarantined t ∧
      (8, svcOf k, noticeWord k 3 0 cHEARTBEAT_MISSED 0) ∈ (t.core (svcOf k)).notices) ∧
    (s.beatMissed k = false → exec (.heartbeatMissed k) s = .next s) ∧
    (s.beats k = true → (s.core k).stopped = false → s.coreGone k = false → passed (s.cycleOf k) (s.beatFrom k) 65536 = true →
      ∃ t, exec (.heartbeatPost k) s = .next t ∧
        t = s.modCore k (fun c => { c with hbcount := c.hbcount + 1, lastBeat := s.cycleOf k })) ∧
    (s.beats k = false ∨ (s.core k).stopped = true → exec (.heartbeatPost k) s = .next s) ∧
    (∀ unit, ∃ t, exec (.coreLogicError k unit) s = .next t ∧ (t.core k).stopped = true ∧ (∀ j n, t.ctx j n = s.ctx j n) ∧
      ((s.core k).stopped = false → (t.core k).stopCause = cMACHINE_CHECK) ∧ s.keepsMem t ∧
      tget 0 (lifeUnit unit) t.trust.lifetime = tget 0 (lifeUnit unit) s.trust.lifetime +
        (if lifeUnit unit = lifeCause (chipOf k) cMACHINE_CHECK then 2 else 1)) ∧
    (isCompute k = true → bind s k = .proxied → s.spareFree k = true → ∃ t, exec (.rebind k true) s = .next t ∧ bind t k = .bound ∧
      (t.cluster clu).spareFor = some (idxOf k) ∧ (∀ n, n < 8 → (t.ctx k n).st = (Ctx.reset n).st) ∧ (t.core k).stopped = false ∧
      (∀ o, o < 65536 → Memory.byte (lmemKey k o) t.mem = 0) ∧ t.trust.mapSeq = s.trust.mapSeq + 1) ∧
    (bind s k = .bound → ∀ ok, exec (.rebind k ok) s = .next s) ∧
    (∀ c ok, s.beatMissed (svcOfClu c) = false → exec (.serviceCoreLost c ok) s = .next s) ∧
    (∀ c, s.beatMissed (svcOfClu c) = true → s.spareFree (svcOfClu c) = true → ∃ t, exec (.serviceCoreLost c true) s = .next t ∧
      (t.cluster c).spareFor = some 16 ∧ (t.core (svcOfClu c)).stopped = false ∧
      ∀ n, n < 8 → (t.ctx (svcOfClu c) n).st = (Ctx.reset n).st) ∧
    (∀ part, part ∉ s.trust.deferredRetire →
      (s.updatingPart part = true → ∃ t, exec (.fieldRetirement part) s = .next t ∧ t.trust.mapSeq = s.trust.mapSeq ∧
        part ∈ t.trust.deferredRetire ∧ t.trust.logSeq = s.trust.logSeq + 1 ∧ s.keepsMem t) ∧
      (s.updatingPart part = false → s.kernels = [] → ∃ t, exec (.fieldRetirement part) s = .next t ∧
        t.trust.logSeq = s.trust.logSeq + 1 ∧ part ∉ t.trust.deferredRetire ∧
        (let new := s.trust.withPart part
         (moves s.trust new = true ∨ mapChanged s.trust new = true → t.trust.mapSeq = s.trust.mapSeq + 1) ∧
         (moves s.trust new = false → mapChanged s.trust new = false → t.trust.mapSeq = s.trust.mapSeq ∧ t.trust.renum = s.trust.renum)) ∧
        (∀ site, part = .site site → site ∈ t.trust.logSites) ∧ (∀ site c, part = .cluster site c → site * 144 + c ∈ t.trust.logClusters) ∧
        (∀ site c p, part = .slot site c p → (site * 144 + c) * 18 + p ∈ t.trust.logSlots))) ∧
    (∀ parts, exec (.reinstatement parts false) s = .next s ∧
      ((∃ p ∈ parts, s.trust.fused p = true) → exec (.reinstatement parts true) s = .next s) ∧
      ((∀ p ∈ parts, s.trust.fused p = false) → s.trust.reinst.length < 1024 → s.kernels = [] → ∃ t,
        exec (.reinstatement parts true) s = .next t ∧ t.trust.reinst = s.trust.reinst ++ [parts] ∧
        t.trust.logSeq = s.trust.logSeq + 1 ∧ (∀ p ∈ parts, p ∉ t.trust.deferredRetire) ∧
        (let new := parts.foldl Trust.withoutPart s.trust
         (moves s.trust new = true ∨ mapChanged s.trust new = true → t.trust.mapSeq = s.trust.mapSeq + 1) ∧
         (moves s.trust new = false → mapChanged s.trust new = false → t.trust.mapSeq = s.trust.mapSeq))))

/-- R433-R436, R441: bring-up takes each die from DARK to ACTIVE, or quarantines it; the module goes SAFE when it cannot start; a region
that an update has taken out of service joins again.
The model's own choices that it rests on: log entries 12, 68, 104. -/
def Obligations.BringUp : Prop :=
  ∀ (s : State) (die : Nat),
    let d := s.die die
    let goesTo (i : Instr) (p : Die → Prop) : Prop := ∃ t, exec i s = .next t ∧ p (t.die die)
    let safeWith (t : State) (cause : Nat) : Prop := t.trust.safe = true ∧ t.trust.safeCause = cause ∧ ∀ n, n < 609 → (t.die n).state = .safe
    (∀ digests ok,
      (∃ t, exec (.bringupStart digests false ok) s = .next t ∧ safeWith t 1) ∧
      (∃ t, exec (.bringupStart digests true false) s = .next t ∧ safeWith t 2) ∧
      ∃ t, exec (.bringupStart digests true true) s = .next t ∧ t.mem = [] ∧ t.cores = [] ∧ t.trust.safe = false ∧
        t.trust.digests = (natsFrom 1 4).zip digests ∧ t.trust.published = false ∧ t.trust.fuseSites = s.trust.fuseSites ∧
        (s.trust.deferredRetire = [] → t.trust.logSites = s.trust.logSites ∧ t.trust.logSeq = s.trust.logSeq)) ∧
    (d.state = .dark → s.dieExists die = true → goesTo (.dieSupplyPresent die) (fun x => x = { d with state := .powered })) ∧
    (d.state ≠ .dark → exec (.dieSupplyPresent die) s = .next s) ∧
    (d.state = .powered → ∃ t, exec (.dieReferenceLocked die) s = .next t ∧ (t.die die).state = .clocked ∧
      (t.die die).attempts = d.attempts + 1 ∧ (t.die die).tries = 0 ∧ (t.chip die).cycle = 0) ∧
    (d.state ≠ .powered → exec (.dieReferenceLocked die) s = .next s) ∧
    (∀ digest, d.state = .clocked → s.fed die d.side = true →
      (tfind (classOf die) s.trust.digests = some digest →
        goesTo (.dieImageReceived die digest) (fun x => x = { d with state := .measured, digest := digest, fail := 0 })) ∧
      (tfind (classOf die) s.trust.digests ≠ some digest →
        goesTo (.dieImageReceived die digest) (fun x => x = { d with state := .quarantined, fail := 1 }))) ∧
    (s.streamDue die = false → exec (.streamTimeout die) s = .next s) ∧
    (d.state = .clocked → die < 576 → s.streamDue die = true →
      (d.tries < 2 → goesTo (.streamTimeout die) (fun x => x.state = .clocked ∧ x.attempts = d.attempts + 1 ∧ x.tries = d.tries + 1)) ∧
      (2 ≤ d.tries → goesTo (.streamTimeout die) (fun x => x = { d with state := .quarantined, fail := 4 }))) ∧
    (d.state = .measured → goesTo (.dieConfigured die) (fun x => x.state = .configured)) ∧
    (d.state = .configured → goesTo (.dieConfigured die) (fun x => x = { d with state := .selfTest })) ∧
    (d.state ≠ .measured → d.state ≠ .configured → exec (.dieConfigured die) s = .next s) ∧
    (∀ failed, d.state = .configured ∨ d.state = .selfTest →
      (s.trust.published = false → goesTo (.dieSelfTestDone die true failed) (fun x => x.state = .joined)) ∧
      (512 ≤ die → s.trust.published = true → goesTo (.dieSelfTestDone die true failed)
        (fun x => x.state = if s.fullService die = true then .active else .degraded)) ∧
      (512 ≤ die → goesTo (.dieSelfTestDone die false failed) (fun x => x.state = .quarantined ∧ x.fail = 3))) ∧
    (s.trust.published = true ∨ s.trust.safe = true → exec .numberingPublished s = .next s) ∧
    (s.trust.published = false → s.trust.safe = false → moves s.trust s.bringupMap = false →
      ((s.die 576).state ≠ .joined → ∃ t, exec .numberingPublished s = .next t ∧ safeWith t 3) ∧
      ((s.die 576).state = .joined → s.bringupMap.grade ≠ 0 → ∃ t, exec .numberingPublished s = .next t ∧ t.trust.published = true ∧
        t.trust.mapSeq = 0 ∧ ∀ n, 512 ≤ n → n < 609 → (s.die n).state = .joined → (t.die n).state = .active ∨
          (576 ≤ n ∧ n < 608 ∧ (t.die n).state = .degraded))) ∧
    (s.trust.published = true → exec .moduleSelfTestFail s = .next s) ∧
    (s.trust.published = false → ∃ t, exec .moduleSelfTestFail s = .next t ∧ safeWith t 5) ∧
    (∀ r rest, s.trust.updating = r :: rest → r < 64 →
      (∀ q, q ≠ r → exec (.regionUpdateRejoin q) s = .next s) ∧
      (rest = [] → (s.die (512 + r)).state = .configured → ∃ t, exec (.regionUpdateRejoin r) s = .next t ∧ t.trust.updating = [] ∧
        (t.die (512 + r)).state = .active))

/-- R438, R440-R445: the trust die answers each request of Bartan, SPDM and MCTP with a status, and does what it asks when it may.
The model's own choices that it rests on: log entries 12, 25, 38, 39. -/
def Obligations.Management : Prop :=
  ∀ (s : State) (seq : Nat),
    let answers (t : State) (cmd status : Nat) : Prop := ∃ pay, t.trust.responses = ([cmd, 1, seq, status] ++ pay) :: s.trust.responses
    (∀ k n, (s.ctx k n).haltReq = true → (s.ctx k n).running = true →
      ((s.ctx k n).wait.inProgress = true → ∃ t, exec (.debugHalt k n) s = .next t ∧ t = s.plan (.debugHalt k n)) ∧
      ((s.ctx k n).wait.inProgress = false → ∃ t, exec (.debugHalt k n) s = .next t ∧ s.Trapped t k n cDEBUG_HALT 0 ∧
        (t.ctx k n).haltReq = false ∧ s.keepsMem t)) ∧
    (∀ k n, (s.ctx k n).haltReq = false → exec (.debugHalt k n) s = .next s) ∧
    (s.trust.safe = false →
      (∀ rank n, s.grade * 2112 ≤ rank ∨ 7 < n → ∃ t, exec (.halt seq rank n) s = .next t ∧ answers t 4 2) ∧
      (∀ rank n, rank < s.grade * 2112 → n ≤ 7 → ∃ t, exec (.halt seq rank n) s = .next t ∧ answers t 4 0 ∧
        (t.ctx (coreOfRank rank) n).haltReq = true ∧ .debugHalt (coreOfRank rank) n ∈ t.pending) ∧
      (∀ chip clu core i v, chip < s.grade → clu < 132 → core < 16 → i < 2 → ∃ t, exec (.watch seq chip clu core i v) s = .next t ∧
        answers t 5 0 ∧ tget 0 i (t.core (coreKey chip clu core)).watch = v &&& 0x01FFFFFFFFFFFFFF) ∧
      (∀ vals, ∃ t, exec (.regWrite seq 0x1000 1 (0 :: vals)) s = .next t ∧ answers t 2 3 ∧ t.trust.budget = s.trust.budget) ∧
      (∀ w vals, ∃ t, exec (.regWrite seq 0x2000 1 (w :: vals)) s = .next t ∧ answers t 2 0 ∧ t.trust.budget = BitVec.setWidth 32 w) ∧
      (∀ cls off bytes, 1 ≤ cls → cls ≤ 4 → bytes.length ≤ 1000 → off < 2 ^ 32 → ∃ t, exec (.imageData seq cls off bytes) s = .next t ∧
        answers t 6 0 ∧ ∀ i (b : Byte), bytes[i]? = some b → tget 0 (off + i) (tget [] cls t.trust.images) = b) ∧
      (∀ regions, s.trust.updating = [] → ∃ t, exec (.imageCommit seq 1 regions false) s = .next t ∧ answers t 7 5 ∧
        tget [] 1 t.trust.images = []) ∧
      (∀ cls regions ok, s.trust.updating ≠ [] → 1 ≤ cls → cls ≤ 4 → ∃ t, exec (.imageCommit seq cls regions ok) s = .next t ∧
        answers t 7 4 ∧ t.trust.images = s.trust.images) ∧
      (∀ cls regions, s.trust.updating = [] → 1 ≤ cls → cls ≤ 4 → (cls = 2 → ∀ e ∈ s.queues, e.2.st = .disabled) →
        let staged := tget [] cls s.trust.images
        let d := imageDigest staged
        let u := s.modTrust (fun x => { x with images := tdel cls x.images })
        let v := u.modTrust (fun x => { x with digests := tset cls d x.digests, measures := tset cls d x.measures })
        (staged = [] → ∃ t, exec (.imageCommit seq cls regions true) s = .next t ∧ answers t 7 5) ∧
        (staged ≠ [] → cls = 1 → ∃ t, exec (.imageCommit seq cls regions true) s = .next t ∧ t = (u.says 0).respond 7 seq) ∧
        (staged ≠ [] → cls = 2 → ∃ t, exec (.imageCommit seq cls regions true) s = .next t ∧ answers t 7 0 ∧
          tfind 2 t.trust.digests = some d ∧ tget [] 2 t.trust.images = [] ∧
          ∀ n, 576 ≤ n → n < 608 → (s.die n).state.atLeastConfigured = true → (t.die n).digest = d) ∧
        (staged ≠ [] → 3 ≤ cls → ∃ t, exec (.imageCommit seq cls regions true) s = .next t ∧
          t = (((v.modTrust (fun x => { x with updating := (natsFrom 0 64).filter (fun r => regions.getLsbD r) })).nextUpdate).says 0).respond 7
            seq))) ∧
    (s.trust.safe = true → ∀ i cmd, (i, cmd) ∈ [(Instr.halt seq 0 0, 4), (.watch seq 0 0 0 0 0, 5), (.regWrite seq 0x2000 1 [0], 2),
        (.imageData seq 1 0 [], 6), (.imageCommit seq 1 0 true, 7)] → ∃ t, exec i s = .next t ∧ answers t cmd 3) ∧
    (∃ t, exec (.regRead seq 0x40 1) s = .next t ∧ t.trust.responses =
      ([1, 1, seq, 0] ++ (leBytes 8 s.trust.mapId.toNat).map (·.toNat)) :: s.trust.responses) ∧
    (∀ off count, off % 8 ≠ 0 ∨ count = 0 ∨ 16 < count → ∃ t, exec (.regRead seq off count) s = .next t ∧
      t.trust.responses = [1, 1, seq, 2] :: s.trust.responses) ∧
    (∀ cls off len, 1 < cls ∨ 1000 < len → ∃ t, exec (.recRead seq cls off len) s = .next t ∧ answers t 3 2) ∧
    (∀ cls off len, cls ≤ 1 → len ≤ 1000 → ∃ t pay, exec (.recRead seq cls off len) s = .next t ∧ pay.length = len ∧
      t.trust.responses = ([3, 1, seq, 0] ++ pay) :: s.trust.responses) ∧
    (∃ t, exec (.spdmRequest .openSession) s = .next t ∧ t.trust.sessions = true) ∧
    (∀ id key, 1 ≤ id → id ≤ 63 →
      (s.trust.sessions = true → ∃ t, exec (.spdmRequest (.installKey id key)) s = .next t ∧ tfind id t.trust.keys = some key ∧
        tget 0 id t.keyEpochs = tget 0 id s.keyEpochs + 1 ∧ t.mem = s.mem) ∧
      (s.trust.sessions = false → ∃ t, exec (.spdmRequest (.installKey id key)) s = .next t ∧ t.trust.keys = s.trust.keys ∧
        t.trust.responses = [5, 1] :: s.trust.responses)) ∧
    (∀ e : Byte, ∃ t, exec (.mctpControl (.setEid e)) s = .next t ∧ t.trust.eid = e) ∧
    (∃ t, exec (.mctpControl .getMsgTypes) s = .next t ∧ t.trust.responses = [0, 0, 0x00, 0x05, 0x7F] :: s.trust.responses) ∧
    (∀ a : BitVec 7, ∃ t, exec (.entdaa a) s = .next t ∧ t = s.modTrust (fun x => { x with i3cAddr := some a })) ∧
    (∃ t, exec .bupMboxGo s = .next t ∧ t.trust.mboxGo = false ∧ t.trust.mboxDone = true ∧ 1028 ∈ t.trust.msix ∧
      tget 0 0 t.trust.mboxRsp = tget 0 0 s.trust.mboxReq ∧ tget 0 1 t.trust.mboxRsp = 1 ∧
      tget 0 2 t.trust.mboxRsp = tget 0 2 s.trust.mboxReq)

end
end

