-- ==== Sys2Proof/Laws/Tables.lean ====
section
/-! SUPPORT. Laws of tables, of memory in its canonical form, and of the numbers bytes stand for. -/

namespace Sys2Proof.Machine

/-! Tables. -/

theorem tget_nil {α : Type} (d : α) (k : Nat) : tget d k [] = d := rfl

@[simp] theorem tget_tset_same {α : Type} (d : α) (k : Nat) (v : α) (t : Tbl α) : tget d k (tset k v t) = v := by
  induction t with
  | nil => simp [tset, tget]
  | cons e r ih =>
    obtain ⟨j, w⟩ := e
    simp only [tset]
    split
    · simp [tget]
    · split
      · simp [tget]
      · rename_i h _
        simp [tget, h, ih]

theorem tget_tset_of_ne {α : Type} (d : α) {i k : Nat} (h : i ≠ k) (v : α) (t : Tbl α) :
    tget d i (tset k v t) = tget d i t := by
  induction t with
  | nil => simp [tset, tget, Ne.symm h]
  | cons e r ih =>
    obtain ⟨j, w⟩ := e
    simp only [tset]
    split
    · rename_i hj
      subst hj
      simp [tget, Ne.symm h]
    · split
      · simp [tget, Ne.symm h]
      · simp only [tget, ih]

theorem tget_tset {α : Type} (d : α) (i k : Nat) (v : α) (t : Tbl α) :
    tget d i (tset k v t) = if i = k then v else tget d i t := by
  by_cases h : i = k
  · subst h; simp
  · simp [h, tget_tset_of_ne]

theorem tset_tset {α : Type} (k : Nat) (v w : α) (t : Tbl α) : tset k v (tset k w t) = tset k v t := by
  induction t with
  | nil => simp [tset]
  | cons e r ih =>
    obtain ⟨j, u⟩ := e
    simp only [tset]
    split
    · simp [tset]
    · split
      · simp [tset]
      · rename_i h1 h2
        simp [tset, h1, h2, ih]

theorem tget_filter {α : Type} (d : α) (p : Nat × α → Bool) (i : Nat) (h : ∀ v, p (i, v) = true) (t : Tbl α) :
    tget d i (t.filter p) = tget d i t := by
  induction t with
  | nil => rfl
  | cons e r ih =>
    obtain ⟨j, w⟩ := e
    by_cases hj : j = i
    · subst hj
      simp [List.filter_cons, h, tget]
    · by_cases hp : p (j, w) = true
      · simp [List.filter_cons, hp, tget, hj, ih]
      · simp [List.filter_cons, hp, tget, hj, ih]

theorem tget_tdel_of_ne {α : Type} (d : α) {i k : Nat} (h : i ≠ k) (t : Tbl α) : tget d i (tdel k t) = tget d i t :=
  tget_filter d _ i (fun _ => by simpa using h) t

theorem tget_tdel_same {α : Type} (d : α) (k : Nat) (t : Tbl α) : tget d k (tdel k t) = d := by
  induction t with
  | nil => rfl
  | cons e r ih =>
    obtain ⟨j, w⟩ := e
    by_cases h : j = k
    · subst h
      simpa [tdel, List.filter_cons] using ih
    · simp only [tdel, List.filter_cons] at ih ⊢
      simp [h, tget, ih]

/-! Memory. -/

theorem byte_setByte_same (a : Nat) (v : Byte) (m : List Host.Cell) : Memory.byte a (Memory.setByte a v m) = v := by
  unfold Memory.byte Memory.setByte
  split
  · rename_i h
    rw [tget_tdel_same, h]
  · simp

theorem byte_setByte_of_ne {a b : Nat} (h : a ≠ b) (v : Byte) (m : List Host.Cell) :
    Memory.byte a (Memory.setByte b v m) = Memory.byte a m := by
  unfold Memory.byte Memory.setByte
  split
  · exact tget_tdel_of_ne _ h _
  · exact tget_tset_of_ne _ h _ _

/-- A write of bytes leaves every byte outside them alone. -/
theorem byte_setBytes_out {a lo : Nat} {vs : List Byte} (h : a < lo ∨ lo + vs.length ≤ a) (m : List Host.Cell) :
    Memory.byte a (Memory.setBytes lo vs m) = Memory.byte a m := by
  induction vs generalizing lo m with
  | nil => rfl
  | cons v r ih =>
    simp only [Memory.setBytes, List.length_cons] at h ⊢
    rw [ih (by omega), byte_setByte_of_ne (by omega)]

/-- A byte that has been written reads back. -/
theorem byte_setBytes_in {i lo : Nat} {vs : List Byte} (h : i < vs.length) (m : List Host.Cell) :
    Memory.byte (lo + i) (Memory.setBytes lo vs m) = vs[i] := by
  induction vs generalizing lo i m with
  | nil => simp at h
  | cons v r ih =>
    simp only [Memory.setBytes]
    cases i with
    | zero =>
      rw [byte_setBytes_out (by omega)]
      exact byte_setByte_same lo v m
    | succ j =>
      have hj : j < r.length := by simpa using h
      have : lo + (j + 1) = (lo + 1) + j := by omega
      rw [this, ih hj]
      rfl

/-- Every key of a table whose keys rise above a bound lies above it. -/
theorem wfFrom_mono {lo : Option Nat} {b : Nat} {m : List Host.Cell} (h : Memory.wfFrom (some b) m = true)
    (hb : ∀ c, lo = some c → c ≤ b) : Memory.wfFrom lo m = true := by
  cases m with
  | nil => rfl
  | cons e r =>
    obtain ⟨a, v⟩ := e
    simp only [Memory.wfFrom, Bool.and_eq_true, decide_eq_true_eq] at h ⊢
    refine ⟨⟨?_, h.1.2⟩, h.2⟩
    cases lo with
    | none => rfl
    | some c =>
      have := hb c rfl
      have := h.1.1
      simp
      omega

theorem wfFrom_tset {a : Nat} {v : Byte} (hv : v ≠ Memory.unlisted) {m : List Host.Cell} {lo : Option Nat}
    (h : Memory.wfFrom lo m = true) (ha : ∀ b, lo = some b → b < a) : Memory.wfFrom lo (tset a v m) = true := by
  induction m generalizing lo with
  | nil =>
    cases lo with
    | none => simp [tset, Memory.wfFrom, hv]
    | some b => simp [tset, Memory.wfFrom, hv, ha b rfl]
  | cons e r ih =>
    obtain ⟨j, w⟩ := e
    simp only [Memory.wfFrom, Bool.and_eq_true] at h
    simp only [tset]
    split
    · rename_i hj
      subst hj
      simp only [Memory.wfFrom, Bool.and_eq_true]
      exact ⟨⟨h.1.1, by simpa using hv⟩, h.2⟩
    · split
      · rename_i h1 h2
        simp only [Memory.wfFrom, Bool.and_eq_true, decide_eq_true_eq]
        refine ⟨⟨?_, by simpa using hv⟩, ⟨h2, h.1.2⟩, h.2⟩
        cases lo with
        | none => rfl
        | some b => simpa using ha b rfl
      · rename_i h1 h2
        simp only [Memory.wfFrom, Bool.and_eq_true]
        refine ⟨h.1, ih h.2 ?_⟩
        intro b hb
        injection hb with hb
        omega

theorem wfFrom_filter (p : Host.Cell → Bool) {m : List Host.Cell} {lo : Option Nat} (h : Memory.wfFrom lo m = true) :
    Memory.wfFrom lo (m.filter p) = true := by
  induction m generalizing lo with
  | nil => rfl
  | cons e r ih =>
    obtain ⟨j, w⟩ := e
    simp only [Memory.wfFrom, Bool.and_eq_true] at h
    simp only [List.filter]
    split
    · simp only [Memory.wfFrom, Bool.and_eq_true]
      exact ⟨h.1, ih h.2⟩
    · refine wfFrom_mono (ih h.2) ?_
      intro c hc
      subst hc
      have := h.1.1
      simp at this
      omega

/-- Writing a byte keeps the canonical form. -/
theorem wf_setByte {m : List Host.Cell} (h : Memory.wf m = true) (a : Nat) (v : Byte) :
    Memory.wf (Memory.setByte a v m) = true := by
  unfold Memory.setByte
  split
  · exact wfFrom_filter _ h
  · rename_i hv
    exact wfFrom_tset hv h (by simp)

/-- Writing bytes keeps the canonical form. -/
theorem wf_setBytes {m : List Host.Cell} (h : Memory.wf m = true) (a : Nat) (vs : List Byte) :
    Memory.wf (Memory.setBytes a vs m) = true := by
  induction vs generalizing a m with
  | nil => exact h
  | cons v r ih => exact ih (wf_setByte h a v) (a + 1)

/-- Taking entries out keeps the canonical form. -/
theorem wf_filter {m : List Host.Cell} (h : Memory.wf m = true) (p : Host.Cell → Bool) : Memory.wf (m.filter p) = true :=
  wfFrom_filter p h

/-! Bytes and numbers. -/

@[simp] theorem length_leBytes (n v : Nat) : (leBytes n v).length = n := by
  induction n generalizing v with
  | zero => rfl
  | succ n ih => simp [leBytes, ih]

theorem leNat_leBytes (n v : Nat) : leNat (leBytes n v) = v % 256 ^ n := by
  induction n generalizing v with
  | zero => simp [leBytes, leNat, Nat.mod_one]
  | succ n ih =>
    simp only [leBytes, leNat, ih, BitVec.toNat_ofNat]
    have : (2 : Nat) ^ 8 = 256 := rfl
    rw [this, Nat.pow_succ', Nat.mod_mul]

theorem length_bytes (m : List Host.Cell) (a n : Nat) : (Memory.bytes m a n).length = n := by
  induction n generalizing a with
  | zero => rfl
  | succ n ih => simp [Memory.bytes, ih]

theorem length_natsFrom (lo n : Nat) : (natsFrom lo n).length = n := by
  induction n generalizing lo with
  | zero => rfl
  | succ n ih => simp [natsFrom, ih]

theorem mem_natsFrom {i lo n : Nat} : i ∈ natsFrom lo n ↔ lo ≤ i ∧ i < lo + n := by
  induction n generalizing lo with
  | zero => simp [natsFrom]
  | succ n ih => simp [natsFrom, ih]; omega

end Sys2Proof.Machine
end

