-- ==== Sys2Proof/Laws/State.lean ====
section
/-! SUPPORT. Laws of the updates of State: what each leaves alone, field by field, and what it writes. -/

namespace Sys2Proof.Machine

/-! Every named update is one of six: a core, a cluster, a chiplet, the trust die, the agenda, the counter. -/

@[simp] theorem modCore_eq (s : State) (k : Nat) (f : Core → Core) : s.modCore k f = s.setCore k (f (s.core k)) := rfl
@[simp] theorem setCtx_eq (s : State) (k n : Nat) (x : Ctx) : s.setCtx k n x = s.setCore k ((s.core k).setCtx n x) := rfl
@[simp] theorem modCtx_eq (s : State) (k n : Nat) (f : Ctx → Ctx) : s.modCtx k n f = s.setCore k ((s.core k).setCtx n (f (s.ctx k n))) := rfl
@[simp] theorem modCur_eq (s : State) (f : Ctx → Ctx) : s.modCur f = s.setCore s.curCore (s.here.setCtx s.curCtx (f s.cur)) := rfl
@[simp] theorem modHere_eq (s : State) (f : Core → Core) : s.modHere f = s.setCore s.curCore (f s.here) := rfl
@[simp] theorem modCluster_eq (s : State) (k : Nat) (f : Cluster → Cluster) : s.modCluster k f = s.setCluster k (f (s.cluster k)) := rfl
@[simp] theorem modChip_eq (s : State) (k : Nat) (f : Chip → Chip) : s.modChip k f = s.setChip k (f (s.chip k)) := rfl
@[simp] theorem modDie_eq (s : State) (k : Nat) (f : Die → Die) : s.modDie k f = s.modTrust (fun t => { t with dies := tset k (f (tget Die.reset k t.dies)) t.dies }) := rfl
@[simp] theorem complete_eq (s : State) : s.complete = s.setCore s.curCore (s.here.setCtx s.curCtx { s.cur with pc := s.cur.pc + 4 }) := rfl
@[simp] theorem done_eq (s : State) (rd : Reg) (v : Word) : s.done rd v = s.setCore s.curCore (s.here.setCtx s.curCtx { s.cur.wx rd v with pc := s.cur.pc + 4 }) := rfl
@[simp] theorem block_eq (s : State) (w : Wait) : s.block w = s.setCore s.curCore (s.here.setCtx s.curCtx { s.cur with wait := w }) := rfl
@[simp] theorem wx_eq (s : State) (r : Reg) (v : Word) : s.wx r v = s.setCore s.curCore (s.here.setCtx s.curCtx (s.cur.wx r v)) := rfl
theorem ctx_eq (s : State) (k n : Nat) : s.ctx k n = (s.core k).ctx n := rfl
theorem cur_eq (s : State) : s.cur = (s.core s.curCore).ctx s.curCtx := rfl
theorem here_eq (s : State) : s.here = s.core s.curCore := rfl

/-! setCore. -/

@[simp] theorem setCore_curCore (s : State) (k : Nat) (c : Core) : (s.setCore k c).curCore = s.curCore := rfl
@[simp] theorem setCore_curCtx (s : State) (k : Nat) (c : Core) : (s.setCore k c).curCtx = s.curCtx := rfl
@[simp] theorem setCore_mode (s : State) (k : Nat) (c : Core) : (s.setCore k c).mode = s.mode := rfl
@[simp] theorem setCore_turns (s : State) (k : Nat) (c : Core) : (s.setCore k c).turns = s.turns := rfl
@[simp] theorem setCore_pending (s : State) (k : Nat) (c : Core) : (s.setCore k c).pending = s.pending := rfl
@[simp] theorem setCore_parity (s : State) (k : Nat) (c : Core) : (s.setCore k c).parity = s.parity := rfl
@[simp] theorem setCore_clock (s : State) (k : Nat) (c : Core) : (s.setCore k c).clock = s.clock := rfl
@[simp] theorem setCore_clusters (s : State) (k : Nat) (c : Core) : (s.setCore k c).clusters = s.clusters := rfl
@[simp] theorem setCore_chips (s : State) (k : Nat) (c : Core) : (s.setCore k c).chips = s.chips := rfl
@[simp] theorem setCore_queues (s : State) (k : Nat) (c : Core) : (s.setCore k c).queues = s.queues := rfl
@[simp] theorem setCore_kernels (s : State) (k : Nat) (c : Core) : (s.setCore k c).kernels = s.kernels := rfl
@[simp] theorem setCore_ended (s : State) (k : Nat) (c : Core) : (s.setCore k c).ended = s.ended := rfl
@[simp] theorem setCore_sweeps (s : State) (k : Nat) (c : Core) : (s.setCore k c).sweeps = s.sweeps := rfl
@[simp] theorem setCore_colls (s : State) (k : Nat) (c : Core) : (s.setCore k c).colls = s.colls := rfl
@[simp] theorem setCore_reqs (s : State) (k : Nat) (c : Core) : (s.setCore k c).reqs = s.reqs := rfl
@[simp] theorem setCore_streams (s : State) (k : Nat) (c : Core) : (s.setCore k c).streams = s.streams := rfl
@[simp] theorem setCore_ingress (s : State) (k : Nat) (c : Core) : (s.setCore k c).ingress = s.ingress := rfl
@[simp] theorem setCore_faultWords (s : State) (k : Nat) (c : Core) : (s.setCore k c).faultWords = s.faultWords := rfl
@[simp] theorem setCore_routers (s : State) (k : Nat) (c : Core) : (s.setCore k c).routers = s.routers := rfl
@[simp] theorem setCore_fes (s : State) (k : Nat) (c : Core) : (s.setCore k c).fes = s.fes := rfl
@[simp] theorem setCore_mem (s : State) (k : Nat) (c : Core) : (s.setCore k c).mem = s.mem := rfl
@[simp] theorem setCore_full (s : State) (k : Nat) (c : Core) : (s.setCore k c).full = s.full := rfl
@[simp] theorem setCore_feLines (s : State) (k : Nat) (c : Core) : (s.setCore k c).feLines = s.feLines := rfl
@[simp] theorem setCore_badParity (s : State) (k : Nat) (c : Core) : (s.setCore k c).badParity = s.badParity := rfl
@[simp] theorem setCore_badLines (s : State) (k : Nat) (c : Core) : (s.setCore k c).badLines = s.badLines := rfl
@[simp] theorem setCore_poison (s : State) (k : Nat) (c : Core) : (s.setCore k c).poison = s.poison := rfl
@[simp] theorem setCore_lineKeys (s : State) (k : Nat) (c : Core) : (s.setCore k c).lineKeys = s.lineKeys := rfl
@[simp] theorem setCore_keyEpochs (s : State) (k : Nat) (c : Core) : (s.setCore k c).keyEpochs = s.keyEpochs := rfl
@[simp] theorem setCore_pinNests (s : State) (k : Nat) (c : Core) : (s.setCore k c).pinNests = s.pinNests := rfl
@[simp] theorem setCore_trust (s : State) (k : Nat) (c : Core) : (s.setCore k c).trust = s.trust := rfl

/-! setCluster. -/

@[simp] theorem setCluster_curCore (s : State) (k : Nat) (c : Cluster) : (s.setCluster k c).curCore = s.curCore := rfl
@[simp] theorem setCluster_curCtx (s : State) (k : Nat) (c : Cluster) : (s.setCluster k c).curCtx = s.curCtx := rfl
@[simp] theorem setCluster_mode (s : State) (k : Nat) (c : Cluster) : (s.setCluster k c).mode = s.mode := rfl
@[simp] theorem setCluster_turns (s : State) (k : Nat) (c : Cluster) : (s.setCluster k c).turns = s.turns := rfl
@[simp] theorem setCluster_pending (s : State) (k : Nat) (c : Cluster) : (s.setCluster k c).pending = s.pending := rfl
@[simp] theorem setCluster_parity (s : State) (k : Nat) (c : Cluster) : (s.setCluster k c).parity = s.parity := rfl
@[simp] theorem setCluster_clock (s : State) (k : Nat) (c : Cluster) : (s.setCluster k c).clock = s.clock := rfl
@[simp] theorem setCluster_cores (s : State) (k : Nat) (c : Cluster) : (s.setCluster k c).cores = s.cores := rfl
@[simp] theorem setCluster_chips (s : State) (k : Nat) (c : Cluster) : (s.setCluster k c).chips = s.chips := rfl
@[simp] theorem setCluster_queues (s : State) (k : Nat) (c : Cluster) : (s.setCluster k c).queues = s.queues := rfl
@[simp] theorem setCluster_kernels (s : State) (k : Nat) (c : Cluster) : (s.setCluster k c).kernels = s.kernels := rfl
@[simp] theorem setCluster_ended (s : State) (k : Nat) (c : Cluster) : (s.setCluster k c).ended = s.ended := rfl
@[simp] theorem setCluster_sweeps (s : State) (k : Nat) (c : Cluster) : (s.setCluster k c).sweeps = s.sweeps := rfl
@[simp] theorem setCluster_colls (s : State) (k : Nat) (c : Cluster) : (s.setCluster k c).colls = s.colls := rfl
@[simp] theorem setCluster_reqs (s : State) (k : Nat) (c : Cluster) : (s.setCluster k c).reqs = s.reqs := rfl
@[simp] theorem setCluster_streams (s : State) (k : Nat) (c : Cluster) : (s.setCluster k c).streams = s.streams := rfl
@[simp] theorem setCluster_ingress (s : State) (k : Nat) (c : Cluster) : (s.setCluster k c).ingress = s.ingress := rfl
@[simp] theorem setCluster_faultWords (s : State) (k : Nat) (c : Cluster) : (s.setCluster k c).faultWords = s.faultWords := rfl
@[simp] theorem setCluster_routers (s : State) (k : Nat) (c : Cluster) : (s.setCluster k c).routers = s.routers := rfl
@[simp] theorem setCluster_fes (s : State) (k : Nat) (c : Cluster) : (s.setCluster k c).fes = s.fes := rfl
@[simp] theorem setCluster_mem (s : State) (k : Nat) (c : Cluster) : (s.setCluster k c).mem = s.mem := rfl
@[simp] theorem setCluster_full (s : State) (k : Nat) (c : Cluster) : (s.setCluster k c).full = s.full := rfl
@[simp] theorem setCluster_feLines (s : State) (k : Nat) (c : Cluster) : (s.setCluster k c).feLines = s.feLines := rfl
@[simp] theorem setCluster_badParity (s : State) (k : Nat) (c : Cluster) : (s.setCluster k c).badParity = s.badParity := rfl
@[simp] theorem setCluster_badLines (s : State) (k : Nat) (c : Cluster) : (s.setCluster k c).badLines = s.badLines := rfl
@[simp] theorem setCluster_poison (s : State) (k : Nat) (c : Cluster) : (s.setCluster k c).poison = s.poison := rfl
@[simp] theorem setCluster_lineKeys (s : State) (k : Nat) (c : Cluster) : (s.setCluster k c).lineKeys = s.lineKeys := rfl
@[simp] theorem setCluster_keyEpochs (s : State) (k : Nat) (c : Cluster) : (s.setCluster k c).keyEpochs = s.keyEpochs := rfl
@[simp] theorem setCluster_pinNests (s : State) (k : Nat) (c : Cluster) : (s.setCluster k c).pinNests = s.pinNests := rfl
@[simp] theorem setCluster_trust (s : State) (k : Nat) (c : Cluster) : (s.setCluster k c).trust = s.trust := rfl

/-! setChip. -/

@[simp] theorem setChip_curCore (s : State) (k : Nat) (c : Chip) : (s.setChip k c).curCore = s.curCore := rfl
@[simp] theorem setChip_curCtx (s : State) (k : Nat) (c : Chip) : (s.setChip k c).curCtx = s.curCtx := rfl
@[simp] theorem setChip_mode (s : State) (k : Nat) (c : Chip) : (s.setChip k c).mode = s.mode := rfl
@[simp] theorem setChip_turns (s : State) (k : Nat) (c : Chip) : (s.setChip k c).turns = s.turns := rfl
@[simp] theorem setChip_pending (s : State) (k : Nat) (c : Chip) : (s.setChip k c).pending = s.pending := rfl
@[simp] theorem setChip_parity (s : State) (k : Nat) (c : Chip) : (s.setChip k c).parity = s.parity := rfl
@[simp] theorem setChip_clock (s : State) (k : Nat) (c : Chip) : (s.setChip k c).clock = s.clock := rfl
@[simp] theorem setChip_cores (s : State) (k : Nat) (c : Chip) : (s.setChip k c).cores = s.cores := rfl
@[simp] theorem setChip_clusters (s : State) (k : Nat) (c : Chip) : (s.setChip k c).clusters = s.clusters := rfl
@[simp] theorem setChip_queues (s : State) (k : Nat) (c : Chip) : (s.setChip k c).queues = s.queues := rfl
@[simp] theorem setChip_kernels (s : State) (k : Nat) (c : Chip) : (s.setChip k c).kernels = s.kernels := rfl
@[simp] theorem setChip_ended (s : State) (k : Nat) (c : Chip) : (s.setChip k c).ended = s.ended := rfl
@[simp] theorem setChip_sweeps (s : State) (k : Nat) (c : Chip) : (s.setChip k c).sweeps = s.sweeps := rfl
@[simp] theorem setChip_colls (s : State) (k : Nat) (c : Chip) : (s.setChip k c).colls = s.colls := rfl
@[simp] theorem setChip_reqs (s : State) (k : Nat) (c : Chip) : (s.setChip k c).reqs = s.reqs := rfl
@[simp] theorem setChip_streams (s : State) (k : Nat) (c : Chip) : (s.setChip k c).streams = s.streams := rfl
@[simp] theorem setChip_ingress (s : State) (k : Nat) (c : Chip) : (s.setChip k c).ingress = s.ingress := rfl
@[simp] theorem setChip_faultWords (s : State) (k : Nat) (c : Chip) : (s.setChip k c).faultWords = s.faultWords := rfl
@[simp] theorem setChip_routers (s : State) (k : Nat) (c : Chip) : (s.setChip k c).routers = s.routers := rfl
@[simp] theorem setChip_fes (s : State) (k : Nat) (c : Chip) : (s.setChip k c).fes = s.fes := rfl
@[simp] theorem setChip_mem (s : State) (k : Nat) (c : Chip) : (s.setChip k c).mem = s.mem := rfl
@[simp] theorem setChip_full (s : State) (k : Nat) (c : Chip) : (s.setChip k c).full = s.full := rfl
@[simp] theorem setChip_feLines (s : State) (k : Nat) (c : Chip) : (s.setChip k c).feLines = s.feLines := rfl
@[simp] theorem setChip_badParity (s : State) (k : Nat) (c : Chip) : (s.setChip k c).badParity = s.badParity := rfl
@[simp] theorem setChip_badLines (s : State) (k : Nat) (c : Chip) : (s.setChip k c).badLines = s.badLines := rfl
@[simp] theorem setChip_poison (s : State) (k : Nat) (c : Chip) : (s.setChip k c).poison = s.poison := rfl
@[simp] theorem setChip_lineKeys (s : State) (k : Nat) (c : Chip) : (s.setChip k c).lineKeys = s.lineKeys := rfl
@[simp] theorem setChip_keyEpochs (s : State) (k : Nat) (c : Chip) : (s.setChip k c).keyEpochs = s.keyEpochs := rfl
@[simp] theorem setChip_pinNests (s : State) (k : Nat) (c : Chip) : (s.setChip k c).pinNests = s.pinNests := rfl
@[simp] theorem setChip_trust (s : State) (k : Nat) (c : Chip) : (s.setChip k c).trust = s.trust := rfl

/-! modTrust. -/

@[simp] theorem modTrust_curCore (s : State) (f : Trust → Trust) : (s.modTrust f).curCore = s.curCore := rfl
@[simp] theorem modTrust_curCtx (s : State) (f : Trust → Trust) : (s.modTrust f).curCtx = s.curCtx := rfl
@[simp] theorem modTrust_mode (s : State) (f : Trust → Trust) : (s.modTrust f).mode = s.mode := rfl
@[simp] theorem modTrust_turns (s : State) (f : Trust → Trust) : (s.modTrust f).turns = s.turns := rfl
@[simp] theorem modTrust_pending (s : State) (f : Trust → Trust) : (s.modTrust f).pending = s.pending := rfl
@[simp] theorem modTrust_parity (s : State) (f : Trust → Trust) : (s.modTrust f).parity = s.parity := rfl
@[simp] theorem modTrust_clock (s : State) (f : Trust → Trust) : (s.modTrust f).clock = s.clock := rfl
@[simp] theorem modTrust_cores (s : State) (f : Trust → Trust) : (s.modTrust f).cores = s.cores := rfl
@[simp] theorem modTrust_clusters (s : State) (f : Trust → Trust) : (s.modTrust f).clusters = s.clusters := rfl
@[simp] theorem modTrust_chips (s : State) (f : Trust → Trust) : (s.modTrust f).chips = s.chips := rfl
@[simp] theorem modTrust_queues (s : State) (f : Trust → Trust) : (s.modTrust f).queues = s.queues := rfl
@[simp] theorem modTrust_kernels (s : State) (f : Trust → Trust) : (s.modTrust f).kernels = s.kernels := rfl
@[simp] theorem modTrust_ended (s : State) (f : Trust → Trust) : (s.modTrust f).ended = s.ended := rfl
@[simp] theorem modTrust_sweeps (s : State) (f : Trust → Trust) : (s.modTrust f).sweeps = s.sweeps := rfl
@[simp] theorem modTrust_colls (s : State) (f : Trust → Trust) : (s.modTrust f).colls = s.colls := rfl
@[simp] theorem modTrust_reqs (s : State) (f : Trust → Trust) : (s.modTrust f).reqs = s.reqs := rfl
@[simp] theorem modTrust_streams (s : State) (f : Trust → Trust) : (s.modTrust f).streams = s.streams := rfl
@[simp] theorem modTrust_ingress (s : State) (f : Trust → Trust) : (s.modTrust f).ingress = s.ingress := rfl
@[simp] theorem modTrust_faultWords (s : State) (f : Trust → Trust) : (s.modTrust f).faultWords = s.faultWords := rfl
@[simp] theorem modTrust_routers (s : State) (f : Trust → Trust) : (s.modTrust f).routers = s.routers := rfl
@[simp] theorem modTrust_fes (s : State) (f : Trust → Trust) : (s.modTrust f).fes = s.fes := rfl
@[simp] theorem modTrust_mem (s : State) (f : Trust → Trust) : (s.modTrust f).mem = s.mem := rfl
@[simp] theorem modTrust_full (s : State) (f : Trust → Trust) : (s.modTrust f).full = s.full := rfl
@[simp] theorem modTrust_feLines (s : State) (f : Trust → Trust) : (s.modTrust f).feLines = s.feLines := rfl
@[simp] theorem modTrust_badParity (s : State) (f : Trust → Trust) : (s.modTrust f).badParity = s.badParity := rfl
@[simp] theorem modTrust_badLines (s : State) (f : Trust → Trust) : (s.modTrust f).badLines = s.badLines := rfl
@[simp] theorem modTrust_poison (s : State) (f : Trust → Trust) : (s.modTrust f).poison = s.poison := rfl
@[simp] theorem modTrust_lineKeys (s : State) (f : Trust → Trust) : (s.modTrust f).lineKeys = s.lineKeys := rfl
@[simp] theorem modTrust_keyEpochs (s : State) (f : Trust → Trust) : (s.modTrust f).keyEpochs = s.keyEpochs := rfl
@[simp] theorem modTrust_pinNests (s : State) (f : Trust → Trust) : (s.modTrust f).pinNests = s.pinNests := rfl

/-! plan. -/

@[simp] theorem plan_curCore (s : State) (i : Instr) : (s.plan i).curCore = s.curCore := rfl
@[simp] theorem plan_curCtx (s : State) (i : Instr) : (s.plan i).curCtx = s.curCtx := rfl
@[simp] theorem plan_mode (s : State) (i : Instr) : (s.plan i).mode = s.mode := rfl
@[simp] theorem plan_turns (s : State) (i : Instr) : (s.plan i).turns = s.turns := rfl
@[simp] theorem plan_parity (s : State) (i : Instr) : (s.plan i).parity = s.parity := rfl
@[simp] theorem plan_clock (s : State) (i : Instr) : (s.plan i).clock = s.clock := rfl
@[simp] theorem plan_cores (s : State) (i : Instr) : (s.plan i).cores = s.cores := rfl
@[simp] theorem plan_clusters (s : State) (i : Instr) : (s.plan i).clusters = s.clusters := rfl
@[simp] theorem plan_chips (s : State) (i : Instr) : (s.plan i).chips = s.chips := rfl
@[simp] theorem plan_queues (s : State) (i : Instr) : (s.plan i).queues = s.queues := rfl
@[simp] theorem plan_kernels (s : State) (i : Instr) : (s.plan i).kernels = s.kernels := rfl
@[simp] theorem plan_ended (s : State) (i : Instr) : (s.plan i).ended = s.ended := rfl
@[simp] theorem plan_sweeps (s : State) (i : Instr) : (s.plan i).sweeps = s.sweeps := rfl
@[simp] theorem plan_colls (s : State) (i : Instr) : (s.plan i).colls = s.colls := rfl
@[simp] theorem plan_reqs (s : State) (i : Instr) : (s.plan i).reqs = s.reqs := rfl
@[simp] theorem plan_streams (s : State) (i : Instr) : (s.plan i).streams = s.streams := rfl
@[simp] theorem plan_ingress (s : State) (i : Instr) : (s.plan i).ingress = s.ingress := rfl
@[simp] theorem plan_faultWords (s : State) (i : Instr) : (s.plan i).faultWords = s.faultWords := rfl
@[simp] theorem plan_routers (s : State) (i : Instr) : (s.plan i).routers = s.routers := rfl
@[simp] theorem plan_fes (s : State) (i : Instr) : (s.plan i).fes = s.fes := rfl
@[simp] theorem plan_mem (s : State) (i : Instr) : (s.plan i).mem = s.mem := rfl
@[simp] theorem plan_full (s : State) (i : Instr) : (s.plan i).full = s.full := rfl
@[simp] theorem plan_feLines (s : State) (i : Instr) : (s.plan i).feLines = s.feLines := rfl
@[simp] theorem plan_badParity (s : State) (i : Instr) : (s.plan i).badParity = s.badParity := rfl
@[simp] theorem plan_badLines (s : State) (i : Instr) : (s.plan i).badLines = s.badLines := rfl
@[simp] theorem plan_poison (s : State) (i : Instr) : (s.plan i).poison = s.poison := rfl
@[simp] theorem plan_lineKeys (s : State) (i : Instr) : (s.plan i).lineKeys = s.lineKeys := rfl
@[simp] theorem plan_keyEpochs (s : State) (i : Instr) : (s.plan i).keyEpochs = s.keyEpochs := rfl
@[simp] theorem plan_pinNests (s : State) (i : Instr) : (s.plan i).pinNests = s.pinNests := rfl
@[simp] theorem plan_trust (s : State) (i : Instr) : (s.plan i).trust = s.trust := rfl

/-! plans. -/

@[simp] theorem plans_curCore (s : State) (is : List Instr) : (s.plans is).curCore = s.curCore := rfl
@[simp] theorem plans_curCtx (s : State) (is : List Instr) : (s.plans is).curCtx = s.curCtx := rfl
@[simp] theorem plans_mode (s : State) (is : List Instr) : (s.plans is).mode = s.mode := rfl
@[simp] theorem plans_turns (s : State) (is : List Instr) : (s.plans is).turns = s.turns := rfl
@[simp] theorem plans_parity (s : State) (is : List Instr) : (s.plans is).parity = s.parity := rfl
@[simp] theorem plans_clock (s : State) (is : List Instr) : (s.plans is).clock = s.clock := rfl
@[simp] theorem plans_cores (s : State) (is : List Instr) : (s.plans is).cores = s.cores := rfl
@[simp] theorem plans_clusters (s : State) (is : List Instr) : (s.plans is).clusters = s.clusters := rfl
@[simp] theorem plans_chips (s : State) (is : List Instr) : (s.plans is).chips = s.chips := rfl
@[simp] theorem plans_queues (s : State) (is : List Instr) : (s.plans is).queues = s.queues := rfl
@[simp] theorem plans_kernels (s : State) (is : List Instr) : (s.plans is).kernels = s.kernels := rfl
@[simp] theorem plans_ended (s : State) (is : List Instr) : (s.plans is).ended = s.ended := rfl
@[simp] theorem plans_sweeps (s : State) (is : List Instr) : (s.plans is).sweeps = s.sweeps := rfl
@[simp] theorem plans_colls (s : State) (is : List Instr) : (s.plans is).colls = s.colls := rfl
@[simp] theorem plans_reqs (s : State) (is : List Instr) : (s.plans is).reqs = s.reqs := rfl
@[simp] theorem plans_streams (s : State) (is : List Instr) : (s.plans is).streams = s.streams := rfl
@[simp] theorem plans_ingress (s : State) (is : List Instr) : (s.plans is).ingress = s.ingress := rfl
@[simp] theorem plans_faultWords (s : State) (is : List Instr) : (s.plans is).faultWords = s.faultWords := rfl
@[simp] theorem plans_routers (s : State) (is : List Instr) : (s.plans is).routers = s.routers := rfl
@[simp] theorem plans_fes (s : State) (is : List Instr) : (s.plans is).fes = s.fes := rfl
@[simp] theorem plans_mem (s : State) (is : List Instr) : (s.plans is).mem = s.mem := rfl
@[simp] theorem plans_full (s : State) (is : List Instr) : (s.plans is).full = s.full := rfl
@[simp] theorem plans_feLines (s : State) (is : List Instr) : (s.plans is).feLines = s.feLines := rfl
@[simp] theorem plans_badParity (s : State) (is : List Instr) : (s.plans is).badParity = s.badParity := rfl
@[simp] theorem plans_badLines (s : State) (is : List Instr) : (s.plans is).badLines = s.badLines := rfl
@[simp] theorem plans_poison (s : State) (is : List Instr) : (s.plans is).poison = s.poison := rfl
@[simp] theorem plans_lineKeys (s : State) (is : List Instr) : (s.plans is).lineKeys = s.lineKeys := rfl
@[simp] theorem plans_keyEpochs (s : State) (is : List Instr) : (s.plans is).keyEpochs = s.keyEpochs := rfl
@[simp] theorem plans_pinNests (s : State) (is : List Instr) : (s.plans is).pinNests = s.pinNests := rfl
@[simp] theorem plans_trust (s : State) (is : List Instr) : (s.plans is).trust = s.trust := rfl

/-! tick. -/

@[simp] theorem tick_curCore (s : State)  : s.tick.curCore = s.curCore := rfl
@[simp] theorem tick_curCtx (s : State)  : s.tick.curCtx = s.curCtx := rfl
@[simp] theorem tick_mode (s : State)  : s.tick.mode = s.mode := rfl
@[simp] theorem tick_turns (s : State)  : s.tick.turns = s.turns := rfl
@[simp] theorem tick_pending (s : State)  : s.tick.pending = s.pending := rfl
@[simp] theorem tick_parity (s : State)  : s.tick.parity = s.parity := rfl
@[simp] theorem tick_cores (s : State)  : s.tick.cores = s.cores := rfl
@[simp] theorem tick_clusters (s : State)  : s.tick.clusters = s.clusters := rfl
@[simp] theorem tick_chips (s : State)  : s.tick.chips = s.chips := rfl
@[simp] theorem tick_queues (s : State)  : s.tick.queues = s.queues := rfl
@[simp] theorem tick_kernels (s : State)  : s.tick.kernels = s.kernels := rfl
@[simp] theorem tick_ended (s : State)  : s.tick.ended = s.ended := rfl
@[simp] theorem tick_sweeps (s : State)  : s.tick.sweeps = s.sweeps := rfl
@[simp] theorem tick_colls (s : State)  : s.tick.colls = s.colls := rfl
@[simp] theorem tick_reqs (s : State)  : s.tick.reqs = s.reqs := rfl
@[simp] theorem tick_streams (s : State)  : s.tick.streams = s.streams := rfl
@[simp] theorem tick_ingress (s : State)  : s.tick.ingress = s.ingress := rfl
@[simp] theorem tick_faultWords (s : State)  : s.tick.faultWords = s.faultWords := rfl
@[simp] theorem tick_routers (s : State)  : s.tick.routers = s.routers := rfl
@[simp] theorem tick_fes (s : State)  : s.tick.fes = s.fes := rfl
@[simp] theorem tick_mem (s : State)  : s.tick.mem = s.mem := rfl
@[simp] theorem tick_full (s : State)  : s.tick.full = s.full := rfl
@[simp] theorem tick_feLines (s : State)  : s.tick.feLines = s.feLines := rfl
@[simp] theorem tick_badParity (s : State)  : s.tick.badParity = s.badParity := rfl
@[simp] theorem tick_badLines (s : State)  : s.tick.badLines = s.badLines := rfl
@[simp] theorem tick_poison (s : State)  : s.tick.poison = s.poison := rfl
@[simp] theorem tick_lineKeys (s : State)  : s.tick.lineKeys = s.lineKeys := rfl
@[simp] theorem tick_keyEpochs (s : State)  : s.tick.keyEpochs = s.keyEpochs := rfl
@[simp] theorem tick_pinNests (s : State)  : s.tick.pinNests = s.pinNests := rfl
@[simp] theorem tick_trust (s : State)  : s.tick.trust = s.trust := rfl

@[simp] theorem modTrust_trust (s : State) (f : Trust → Trust) : (s.modTrust f).trust = f s.trust := rfl
@[simp] theorem plan_pending (s : State) (i : Instr) : (s.plan i).pending = s.pending ++ [i] := rfl
@[simp] theorem plans_pending (s : State) (is : List Instr) : (s.plans is).pending = s.pending ++ is := rfl
@[simp] theorem tick_clock (s : State) : s.tick.clock = s.clock + 1 := rfl

/-! What reads back. -/

theorem core_setCore (s : State) (k j : Nat) (c : Core) : (s.setCore k c).core j = if j = k then c else s.core j := by
  simp [State.core, State.setCore, tget_tset]

@[simp] theorem core_setCore_same (s : State) (k : Nat) (c : Core) : (s.setCore k c).core k = c := by simp [core_setCore]

@[simp] theorem setCore_setCore (s : State) (k : Nat) (c d : Core) : (s.setCore k c).setCore k d = s.setCore k d := by
  simp [State.setCore, tset_tset]

theorem cluster_setCluster (s : State) (k j : Nat) (c : Cluster) :
    (s.setCluster k c).cluster j = if j = k then c else s.cluster j := by
  simp [State.cluster, State.setCluster, tget_tset]

@[simp] theorem cluster_setCluster_same (s : State) (k : Nat) (c : Cluster) : (s.setCluster k c).cluster k = c := by
  simp [cluster_setCluster]

theorem chip_setChip (s : State) (k j : Nat) (c : Chip) : (s.setChip k c).chip j = if j = k then c else s.chip j := by
  simp [State.chip, State.setChip, tget_tset]

@[simp] theorem chip_setChip_same (s : State) (k : Nat) (c : Chip) : (s.setChip k c).chip k = c := by simp [chip_setChip]

theorem ctx_setCtx (c : Core) (n m : Nat) (x : Ctx) : (c.setCtx n x).ctx m = if m = n then x else c.ctx m := by
  simp only [Core.ctx, Core.setCtx, tget_tset]

@[simp] theorem ctx_setCtx_same (c : Core) (n : Nat) (x : Ctx) : (c.setCtx n x).ctx n = x := by simp [ctx_setCtx]

@[simp] theorem setCtx_setCtx (c : Core) (n : Nat) (x y : Ctx) : (c.setCtx n x).setCtx n y = c.setCtx n y := by
  simp [Core.setCtx, tset_tset]

@[simp] theorem core_setCluster (s : State) (k j : Nat) (c : Cluster) : (s.setCluster k c).core j = s.core j := rfl
@[simp] theorem core_setChip (s : State) (k j : Nat) (c : Chip) : (s.setChip k c).core j = s.core j := rfl
@[simp] theorem core_modTrust (s : State) (f : Trust → Trust) (j : Nat) : (s.modTrust f).core j = s.core j := rfl
@[simp] theorem core_plan (s : State) (i : Instr) (j : Nat) : (s.plan i).core j = s.core j := rfl
@[simp] theorem core_tick (s : State) (j : Nat) : s.tick.core j = s.core j := rfl
@[simp] theorem cluster_setCore (s : State) (k j : Nat) (c : Core) : (s.setCore k c).cluster j = s.cluster j := rfl
@[simp] theorem cluster_plan (s : State) (i : Instr) (j : Nat) : (s.plan i).cluster j = s.cluster j := rfl
@[simp] theorem chip_setCore (s : State) (k j : Nat) (c : Core) : (s.setCore k c).chip j = s.chip j := rfl
@[simp] theorem chip_setCluster (s : State) (k j : Nat) (c : Cluster) : (s.setCluster k c).chip j = s.chip j := rfl
@[simp] theorem chip_plan (s : State) (i : Instr) (j : Nat) : (s.plan i).chip j = s.chip j := rfl
@[simp] theorem die_setCore (s : State) (k j : Nat) (c : Core) : (s.setCore k c).die j = s.die j := rfl
@[simp] theorem die_setChip (s : State) (k j : Nat) (c : Chip) : (s.setChip k c).die j = s.die j := rfl
@[simp] theorem die_plan (s : State) (i : Instr) (j : Nat) : (s.plan i).die j = s.die j := rfl

theorem ctx_setCore (s : State) (k j n : Nat) (c : Core) :
    (s.setCore k c).ctx j n = if j = k then c.ctx n else s.ctx j n := by
  simp only [State.ctx, core_setCore]
  split <;> rfl

@[simp] theorem ctx_setCore_same (s : State) (k n : Nat) (c : Core) : (s.setCore k c).ctx k n = c.ctx n := by
  simp [ctx_setCore]

/-- The executing context after a change of its core. -/
@[simp] theorem cur_setCore (s : State) (c : Core) : (s.setCore s.curCore c).cur = c.ctx s.curCtx := by
  simp [State.cur]

@[simp] theorem here_setCore (s : State) (c : Core) : (s.setCore s.curCore c).here = c := by simp [State.here]

theorem die_modDie (s : State) (k j : Nat) (f : Die → Die) :
    (s.modDie k f).die j = if j = k then f (s.die k) else s.die j := by
  simp only [State.die, State.modDie, State.modTrust, tget_tset]

/-! Registers. -/

theorem rx_wx (c : Ctx) (r q : Reg) (v : Word) : (c.wx r v).rx q = if q = 0 then 0 else if q = r then v else c.rx q := by
  unfold Ctx.wx Ctx.rx
  by_cases hq : q = 0#5
  · simp [hq]
  · by_cases hr : r = 0#5
    · simp [hr, hq]
    · by_cases h : q = r
      · simp [hr, h]
      · have : q.toNat ≠ r.toNat := fun e => h (BitVec.eq_of_toNat_eq e)
        simp [hq, hr, h, tget_tset, this]

@[simp] theorem wx_pc (c : Ctx) (r : Reg) (v w : Word) : ({ c.wx r v with pc := w } : Ctx) = ({ c with pc := w } : Ctx).wx r v := by
  unfold Ctx.wx
  split <;> rfl

theorem wx_with (c : Ctx) (r : Reg) (v : Word) : c.wx r v = { c with x := (c.wx r v).x, early := (c.wx r v).early } := by
  unfold Ctx.wx
  split <;> rfl

@[simp] theorem rx_zero (c : Ctx) : c.rx 0 = 0 := by simp [Ctx.rx]

/-! A context of a core. -/

@[simp] theorem setCtx_chans (c : Core) (n : Nat) (x : Ctx) : (c.setCtx n x).chans = c.chans := rfl
@[simp] theorem setCtx_handlers (c : Core) (n : Nat) (x : Ctx) : (c.setCtx n x).handlers = c.handlers := rfl
@[simp] theorem setCtx_lastFired (c : Core) (n : Nat) (x : Ctx) : (c.setCtx n x).lastFired = c.lastFired := rfl
@[simp] theorem setCtx_window (c : Core) (n : Nat) (x : Ctx) : (c.setCtx n x).window = c.window := rfl
@[simp] theorem setCtx_hwWait (c : Core) (n : Nat) (x : Ctx) : (c.setCtx n x).hwWait = c.hwWait := rfl
@[simp] theorem setCtx_nackFrom (c : Core) (n : Nat) (x : Ctx) : (c.setCtx n x).nackFrom = c.nackFrom := rfl
@[simp] theorem setCtx_nextUid (c : Core) (n : Nat) (x : Ctx) : (c.setCtx n x).nextUid = c.nextUid := rfl
@[simp] theorem setCtx_credit (c : Core) (n : Nat) (x : Ctx) : (c.setCtx n x).credit = c.credit := rfl
@[simp] theorem setCtx_creditNext (c : Core) (n : Nat) (x : Ctx) : (c.setCtx n x).creditNext = c.creditNext := rfl
@[simp] theorem setCtx_qbackoff (c : Core) (n : Nat) (x : Ctx) : (c.setCtx n x).qbackoff = c.qbackoff := rfl
@[simp] theorem setCtx_qretry (c : Core) (n : Nat) (x : Ctx) : (c.setCtx n x).qretry = c.qretry := rfl
@[simp] theorem setCtx_feretry (c : Core) (n : Nat) (x : Ctx) : (c.setCtx n x).feretry = c.feretry := rfl
@[simp] theorem setCtx_wfetimeout (c : Core) (n : Nat) (x : Ctx) : (c.setCtx n x).wfetimeout = c.wfetimeout := rfl
@[simp] theorem setCtx_hbcount (c : Core) (n : Nat) (x : Ctx) : (c.setCtx n x).hbcount = c.hbcount := rfl
@[simp] theorem setCtx_tseq (c : Core) (n : Nat) (x : Ctx) : (c.setCtx n x).tseq = c.tseq := rfl
@[simp] theorem setCtx_notices (c : Core) (n : Nat) (x : Ctx) : (c.setCtx n x).notices = c.notices := rfl
@[simp] theorem setCtx_tlb (c : Core) (n : Nat) (x : Ctx) : (c.setCtx n x).tlb = c.tlb := rfl
@[simp] theorem setCtx_picks (c : Core) (n : Nat) (x : Ctx) : (c.setCtx n x).picks = c.picks := rfl
@[simp] theorem setCtx_wins (c : Core) (n : Nat) (x : Ctx) : (c.setCtx n x).wins = c.wins := rfl
@[simp] theorem setCtx_mat (c : Core) (n : Nat) (x : Ctx) : (c.setCtx n x).mat = c.mat := rfl
@[simp] theorem setCtx_copyQ (c : Core) (n : Nat) (x : Ctx) : (c.setCtx n x).copyQ = c.copyQ := rfl
@[simp] theorem setCtx_copySeq (c : Core) (n : Nat) (x : Ctx) : (c.setCtx n x).copySeq = c.copySeq := rfl
@[simp] theorem setCtx_collQ (c : Core) (n : Nat) (x : Ctx) : (c.setCtx n x).collQ = c.collQ := rfl
@[simp] theorem setCtx_collSeq (c : Core) (n : Nat) (x : Ctx) : (c.setCtx n x).collSeq = c.collSeq := rfl
@[simp] theorem setCtx_sweepQ (c : Core) (n : Nat) (x : Ctx) : (c.setCtx n x).sweepQ = c.sweepQ := rfl
@[simp] theorem setCtx_sweepSeq (c : Core) (n : Nat) (x : Ctx) : (c.setCtx n x).sweepSeq = c.sweepSeq := rfl
@[simp] theorem setCtx_subs (c : Core) (n : Nat) (x : Ctx) : (c.setCtx n x).subs = c.subs := rfl
@[simp] theorem setCtx_slots (c : Core) (n : Nat) (x : Ctx) : (c.setCtx n x).slots = c.slots := rfl
@[simp] theorem setCtx_stopped (c : Core) (n : Nat) (x : Ctx) : (c.setCtx n x).stopped = c.stopped := rfl
@[simp] theorem setCtx_stopCause (c : Core) (n : Nat) (x : Ctx) : (c.setCtx n x).stopCause = c.stopCause := rfl
@[simp] theorem setCtx_yielded (c : Core) (n : Nat) (x : Ctx) : (c.setCtx n x).yielded = c.yielded := rfl
@[simp] theorem setCtx_l1d (c : Core) (n : Nat) (x : Ctx) : (c.setCtx n x).l1d = c.l1d := rfl
@[simp] theorem setCtx_l1i (c : Core) (n : Nat) (x : Ctx) : (c.setCtx n x).l1i = c.l1i := rfl
@[simp] theorem setCtx_gives (c : Core) (n : Nat) (x : Ctx) : (c.setCtx n x).gives = c.gives := rfl
@[simp] theorem setCtx_watch (c : Core) (n : Nat) (x : Ctx) : (c.setCtx n x).watch = c.watch := rfl
@[simp] theorem setCtx_lastBeat (c : Core) (n : Nat) (x : Ctx) : (c.setCtx n x).lastBeat = c.lastBeat := rfl

end Sys2Proof.Machine
end

