-- ==== Sys2Proof/Laws/Ops.lean ====
section
/-! SUPPORT. What the shared operations do, said once: completing, jumping, waiting, and taking a trap. -/

namespace Sys2Proof.Machine

/-- A change of the executing context alone. -/
theorem onlyCur_setCore (s : State) (x : Ctx) : s.onlyCur (s.setCore s.curCore (s.here.setCtx s.curCtx x)) := by
  refine ⟨?_, fun _ => rfl⟩
  simp [State.here]

theorem puts_done (s : State) (rd : Reg) (v : Word) : s.Puts (s.done rd v) rd v := by
  refine ⟨?_, ?_, ?_⟩
  · intro r
    simp [State.rx]
    exact rx_wx _ _ _ _
  · simp
    exact wx_with _ _ _
  · simpa using onlyCur_setCore s _

theorem passes_complete (s : State) : s.Passes s.complete := by
  refine ⟨by simp, ?_⟩
  simpa using onlyCur_setCore s _

theorem waits_block (s : State) (w : Wait) : s.Waits (s.block w) w := by
  refine ⟨by simp, ?_⟩
  simpa using onlyCur_setCore s _

/-! A request that waits is withdrawn (R251, R263): the waiting lists change, and the context waits no longer. -/

theorem mem_withdraw (s : State) (k n : Nat) : (s.withdraw k n).mem = s.mem := by
  unfold State.withdraw
  simp only [modCtx_eq, setCore_mem]
  split <;> simp

theorem curCore_withdraw (s : State) (k n : Nat) : (s.withdraw k n).curCore = s.curCore := by
  unfold State.withdraw
  simp only [modCtx_eq, setCore_curCore]
  split <;> simp

theorem curCtx_withdraw (s : State) (k n : Nat) : (s.withdraw k n).curCtx = s.curCtx := by
  unfold State.withdraw
  simp only [modCtx_eq, setCore_curCtx]
  split <;> simp

theorem ctx_withdraw (s : State) (k n j m : Nat) :
    (s.withdraw k n).ctx j m = if j = k ∧ m = n then { s.ctx k n with wait := .none, cmdRead := none } else s.ctx j m := by
  have key : ∀ u : State, (∀ j m, u.ctx j m = s.ctx j m) → (u.modCtx k n (fun c => { c with wait := .none, cmdRead := none })).ctx j m =
      if j = k ∧ m = n then { s.ctx k n with wait := .none, cmdRead := none } else s.ctx j m := by
    intro u h
    rw [modCtx_eq, ctx_setCore]
    by_cases hj : j = k
    · subst hj
      simp only [if_true, ctx_setCtx, true_and]
      split
      · rw [h]
      · exact h j m
    · simp [hj, h]
  unfold State.withdraw
  apply key
  intro j m
  split
  · simp only [modCore_eq, ctx_setCore]
    split
    · rename_i h
      subst h
      rfl
    · rfl
  · rfl
  · rfl
  · rfl
  · rfl
  · rfl
  · simp only [modCore_eq, ctx_setCore]
    split
    · rename_i h
      subst h
      rfl
    · rfl
  · rfl

theorem tseq_withdraw (s : State) (k n j : Nat) : ((s.withdraw k n).core j).tseq = (s.core j).tseq := by
  have key : ∀ u : State, (u.core j).tseq = (s.core j).tseq →
      ((u.modCtx k n (fun c => { c with wait := .none, cmdRead := none })).core j).tseq = (s.core j).tseq := by
    intro u h
    rw [modCtx_eq, core_setCore]
    split
    · rename_i hj
      subst hj
      simpa using h
    · exact h
  unfold State.withdraw
  apply key
  split <;> first
    | rfl
    | (simp only [modCore_eq, core_setCore]
       split
       · rename_i h
         subst h
         rfl
       · rfl)

/-! Notices. -/

theorem mem_notice (s : State) (k n d : Nat) (w : Word) : (s.notice k n d w).mem = s.mem := rfl

theorem ctx_notice (s : State) (k n d : Nat) (w : Word) (j m : Nat) : (s.notice k n d w).ctx j m = s.ctx j m := by
  simp only [State.notice, modCore_eq, State.ctx, core_plan, core_setCore]
  split
  · rename_i h
    subst h
    rfl
  · rfl

theorem tseq_notice (s : State) (k n d : Nat) (w : Word) (j : Nat) : ((s.notice k n d w).core j).tseq = (s.core j).tseq := by
  simp only [State.notice, modCore_eq, core_plan, core_setCore]
  split
  · rename_i h
    subst h
    rfl
  · rfl

theorem pokeDispatcher_cases (s : State) (c : Nat) :
    s.pokeDispatcher c = s ∨ s.pokeDispatcher c = s.plan (.groupRelease c) := by
  unfold State.pokeDispatcher
  split
  · exact .inl rfl
  · exact .inr rfl

/-! Taking a trap (R251). -/

/-- The context that traps, after the trap: what R251 records, with the cause of R260 for a context firing on q31. -/
theorem ctx_takeTrapAs (s : State) (d : Bool) (k n cause : Nat) (addr info resume : Word) (j m : Nat) :
    let c := s.ctx k n
    let double : Bool := c.st = .firing && c.chan = 31
    let code := if double then cDOUBLE_FAULT else cause
    (s.takeTrapAs d k n cause addr info resume).ctx j m =
      if j = k ∧ m = n then
        { c with wait := .none, cmdRead := none, ecause := BitVec.ofNat 64 code, eaddr := addr,
                 einfo := if double then BitVec.ofNat 64 cause else info, epc := resume &&& ~~~3,
                 tseq := ((s.core k).tseq + 1) % 256, prior := c.st, st := .trapped, stmask := 0, lrRes := none, hold := [],
                 early := [], onPath := isW code && !d, cause := code,
                 policyDue := c.policyDue || (c.st = .strand && isCompute k && !(isW code && !d)) }
      else s.ctx j m := by
  intro c double code
  unfold State.takeTrapAs
  simp only []
  have hc : (s.withdraw k n).ctx k n = { c with wait := .none, cmdRead := none } := by rw [ctx_withdraw]; simp [c]
  have hk : ((s.withdraw k n).core k).tseq = (s.core k).tseq := tseq_withdraw s k n k
  have poke : ∀ (b : Bool) (u : State), ((if b = true then u.pokeDispatcher (chipOf k) else u).ctx j m) = u.ctx j m := by
    intro b u
    cases b
    · rfl
    · rcases pokeDispatcher_cases u (chipOf k) with h | h <;> simp [h, State.ctx]
  rw [poke, ctx_notice, modCore_eq, ctx_setCore, hk, hc]
  by_cases hj : j = k
  · subst hj
    simp only [if_true, true_and]
    show (((s.withdraw j n).core j).setCtx n _).ctx m = _
    rw [ctx_setCtx]
    split
    · rfl
    · rename_i hm
      show (s.withdraw j n).ctx j m = _
      rw [ctx_withdraw]
      simp [hm]
  · simp only [hj, if_false, false_and]
    rw [ctx_withdraw]
    simp [hj]

theorem mem_takeTrapAs (s : State) (d : Bool) (k n cause : Nat) (addr info resume : Word) :
    (s.takeTrapAs d k n cause addr info resume).mem = s.mem := by
  unfold State.takeTrapAs
  simp only []
  have poke : ∀ (b : Bool) (u : State), ((if b = true then u.pokeDispatcher (chipOf k) else u).mem) = u.mem := by
    intro b u
    cases b
    · rfl
    · rcases pokeDispatcher_cases u (chipOf k) with h | h <;> simp [h]
  rw [poke, mem_notice]
  simp [mem_withdraw]

theorem cur_takeTrapAs (s : State) (d : Bool) (k n cause : Nat) (addr info resume : Word) :
    (s.takeTrapAs d k n cause addr info resume).curCore = s.curCore ∧
      (s.takeTrapAs d k n cause addr info resume).curCtx = s.curCtx := by
  unfold State.takeTrapAs
  simp only []
  have poke : ∀ (b : Bool) (u : State), ((if b = true then u.pokeDispatcher (chipOf k) else u).curCore) = u.curCore ∧
      ((if b = true then u.pokeDispatcher (chipOf k) else u).curCtx) = u.curCtx := by
    intro b u
    cases b
    · exact ⟨rfl, rfl⟩
    · rcases pokeDispatcher_cases u (chipOf k) with h | h <;> simp [h]
  refine ⟨(poke _ _).1.trans ?_, (poke _ _).2.trans ?_⟩
  · simp [State.notice, curCore_withdraw]
  · simp [State.notice, curCtx_withdraw]

theorem tseq_takeTrapAs (s : State) (d : Bool) (k n cause : Nat) (addr info resume : Word) :
    ((s.takeTrapAs d k n cause addr info resume).core k).tseq = ((s.core k).tseq + 1) % 256 := by
  unfold State.takeTrapAs
  simp only []
  have poke : ∀ (b : Bool) (u : State), (((if b = true then u.pokeDispatcher (chipOf k) else u).core k).tseq) = (u.core k).tseq := by
    intro b u
    cases b
    · rfl
    · rcases pokeDispatcher_cases u (chipOf k) with h | h <;> simp [h]
  rw [poke, tseq_notice]
  simp [tseq_withdraw]

/-- The executing context traps (R251), with DOUBLE_FAULT on the fault channel (R260). -/
theorem takesTrap_takeTrap (s : State) (cause : Nat) (addr info resume : Word) :
    s.TakesTrap (s.takeTrap s.curCore s.curCtx cause addr info resume) cause addr info resume := by
  have hcur := cur_takeTrapAs s false s.curCore s.curCtx cause addr info resume
  have hx := ctx_takeTrapAs s false s.curCore s.curCtx cause addr info resume
  have hd : (decide ((s.ctx s.curCore s.curCtx).st = .firing) && decide ((s.ctx s.curCore s.curCtx).chan = 31)) =
      decide (s.cur.st = .firing ∧ s.cur.chan = 31) := by
    rw [State.cur]
    by_cases h1 : (s.ctx s.curCore s.curCtx).st = .firing <;> by_cases h2 : (s.ctx s.curCore s.curCtx).chan = 31 <;> simp [h1, h2]
  have e : (s.takeTrap s.curCore s.curCtx cause addr info resume).cur =
      { s.cur with wait := .none, cmdRead := none,
                   ecause := BitVec.ofNat 64 (if s.cur.st = .firing ∧ s.cur.chan = 31 then cDOUBLE_FAULT else cause),
                   eaddr := addr,
                   einfo := if s.cur.st = .firing ∧ s.cur.chan = 31 then BitVec.ofNat 64 cause else info, epc := resume &&& ~~~3,
                   tseq := ((s.core s.curCore).tseq + 1) % 256, prior := s.cur.st, st := .trapped, stmask := 0, lrRes := none,
                   hold := [], early := [],
                   onPath := isW (if s.cur.st = .firing ∧ s.cur.chan = 31 then cDOUBLE_FAULT else cause) && !false,
                   cause := if s.cur.st = .firing ∧ s.cur.chan = 31 then cDOUBLE_FAULT else cause,
                   policyDue := s.cur.policyDue || (s.cur.st = .strand && isCompute s.curCore &&
                     !(isW (if s.cur.st = .firing ∧ s.cur.chan = 31 then cDOUBLE_FAULT else cause) && !false)) } := by
    unfold State.takeTrap
    rw [State.cur, hcur.1, hcur.2, hx]
    simp only [and_self, if_true, hd, decide_eq_true_eq]
    rfl
  have key : ∀ (c' : Nat) (i' : Word), (s.takeTrap s.curCore s.curCtx cause addr info resume).cur.ecause = BitVec.ofNat 64 c' →
      (s.takeTrap s.curCore s.curCtx cause addr info resume).cur.einfo = i' →
      s.Traps (s.takeTrap s.curCore s.curCtx cause addr info resume) c' addr i' resume := by
    intro c' i' hc hi
    refine ⟨by rw [e], by rw [e], hc, by rw [e], hi, by rw [e], ⟨by rw [e]; rfl, ?_⟩, ?_, ?_, ?_⟩
    · unfold State.takeTrap
      rw [State.here, hcur.1]
      exact tseq_takeTrapAs s false s.curCore s.curCtx cause addr info resume
    · intro r
      rw [State.rx, e]
      rfl
    · intro k n hk
      have := hx k n
      unfold State.takeTrap
      rw [this, if_neg hk]
    · intro a
      unfold State.takeTrap
      rw [mem_takeTrapAs]
  unfold State.TakesTrap State.DoublyTraps
  split
  · rename_i h
    exact key _ _ (by rw [e]; exact congrArg (BitVec.ofNat 64) (if_pos h)) (by rw [e]; exact if_pos h)
  · rename_i h
    exact key _ _ (by rw [e]; exact congrArg (BitVec.ofNat 64) (if_neg h)) (by rw [e]; exact if_neg h)

theorem takesTrap_trapInfo (s : State) (cause : Nat) (addr info : Word) :
    s.TakesTrap (s.trapInfo cause addr info) cause addr info s.cur.pc := takesTrap_takeTrap s cause addr info s.cur.pc

theorem takesTrap_trap (s : State) (cause : Nat) (addr : Word) :
    s.TakesTrap (s.trap cause addr) cause addr 0 s.cur.pc := takesTrap_takeTrap s cause addr 0 s.cur.pc

/-! Modes. -/

theorem supervised_super (s : State) (act : State → State) (h : s.cur.super = true) : s.supervised act = act s := by
  simp [State.supervised, h]

theorem supervised_user (s : State) (act : State → State) (h : s.cur.super = false) : s.supervised act = s.trap cPRIVILEGE 0 := by
  simp [State.supervised, h]

theorem notInHandler_strand (s : State) (act : State → State) (h : s.cur.st ≠ .firing) : s.notInHandler act = act s := by
  simp [State.notInHandler, h]

theorem notInHandler_firing (s : State) (act : State → State) (h : s.cur.st = .firing) :
    s.notInHandler act = s.trap cHANDLER_BLOCKED 0 := by
  simp [State.notInHandler, h]

end Sys2Proof.Machine
end

