-- ==== Sys2Proof/Laws/Memory.lean ====
section
/-! SUPPORT. What a write that is performed at its homes does: the bytes, the contexts that see it, and all it leaves alone. -/

namespace Sys2Proof.Machine

/-- Two states with the same contents of memory. -/
def SameMem (s t : State) : Prop := t.mem = s.mem ∧ t.lineKeys = s.lineKeys ∧ t.keyEpochs = s.keyEpochs

theorem SameMem.refl (s : State) : SameMem s s := ⟨rfl, rfl, rfl⟩

theorem SameMem.trans {s t u : State} (h : SameMem s t) (g : SameMem t u) : SameMem s u :=
  ⟨g.1.trans h.1, g.2.1.trans h.2.1, g.2.2.trans h.2.2⟩

/-- What a byte reads as depends on its line's key, the key in force and the byte held. -/
theorem byteAt_congr {s t : State} {l : Loc} (h1 : t.keyOf (lineOf l.key) = s.keyOf (lineOf l.key))
    (h2 : t.keyNow l.keyid = s.keyNow l.keyid) (h3 : Memory.byte l.key t.mem = Memory.byte l.key s.mem) :
    t.byteAt l = s.byteAt l := by
  unfold State.byteAt
  rw [h1, h2, h3]

theorem SameMem.byteAt {s t : State} (h : SameMem s t) (l : Loc) : t.byteAt l = s.byteAt l := by
  obtain ⟨h1, h2, h3⟩ := h
  unfold State.byteAt State.keyOf State.keyNow
  rw [h1, h2, h3]

theorem sameMem_setCore (s : State) (k : Nat) (c : Core) : SameMem s (s.setCore k c) := ⟨rfl, rfl, rfl⟩

theorem sameMem_foldl {α : Type} (f : State → α → State) (h : ∀ s a, SameMem s (f s a)) (l : List α) (s : State) :
    SameMem s (l.foldl f s) := by
  induction l generalizing s with
  | nil => exact .refl s
  | cons a r ih => exact (h s a).trans (ih _)

theorem sameMem_touchLine (s : State) (k n clu line : Nat) : SameMem s (s.touchLine k n clu line) := by
  unfold State.touchLine
  simp only []
  split
  · exact ⟨rfl, rfl, rfl⟩
  · refine SameMem.trans ?_ (sameMem_foldl _ ?_ _ _)
    · exact ⟨rfl, rfl, rfl⟩
    · intro u x
      exact ⟨rfl, rfl, rfl⟩

theorem sameMem_dropL1 (s : State) (k line : Nat) : SameMem s (s.dropL1 k line) := by
  unfold State.dropL1
  split
  · exact ⟨rfl, rfl, rfl⟩
  · exact .refl s

theorem sameMem_serveEvents (s : State) (k n : Nat) : SameMem s (s.serveEvents k n) := by
  unfold State.serveEvents
  simp only []
  split
  · split
    · exact ⟨rfl, rfl, rfl⟩
    · exact .refl s
  · exact .refl s

theorem sameMem_serveAllEvents (s : State) : SameMem s s.serveAllEvents :=
  sameMem_foldl _ (fun _ _ => sameMem_foldl _ (fun _ _ => sameMem_serveEvents _ _ _) _ _) _ _

/-! One byte. -/

theorem mem_rekey_same (s : State) (l : Loc) (h : l.encrypted = false ∨ s.keyOf (lineOf l.key) = s.keyNow l.keyid) :
    s.rekey l = s := by
  unfold State.rekey
  rcases h with h | h <;> simp [h]

/-- What putByte does to the contents of memory. -/
theorem sameMem_putByte (s : State) (l : Loc) (v : Byte) :
    SameMem { s.rekey l with mem := Memory.setByte l.key v (s.rekey l).mem } (s.putByte l v) := by
  unfold State.putByte
  simp only []
  split
  · split <;> exact ⟨rfl, rfl, rfl⟩
  · split <;> exact ⟨rfl, rfl, rfl⟩
  · split <;> exact ⟨rfl, rfl, rfl⟩

theorem keyOf_rekey_same (s : State) (l : Loc) (h : l.encrypted = true) :
    (s.rekey l).keyOf (lineOf l.key) = (s.rekey l).keyNow l.keyid := by
  unfold State.rekey
  simp only [h, Bool.not_true, Bool.false_or, decide_eq_true_eq]
  split
  · assumption
  · simp [State.keyOf, State.keyNow]

theorem byteAt_putByte_same (s : State) (l : Loc) (v : Byte) : (s.putByte l v).byteAt l = v := by
  rw [(sameMem_putByte s l v).byteAt]
  cases h : l.encrypted with
  | false => simp [State.byteAt, h, byte_setByte_same]
  | true =>
    have := keyOf_rekey_same s l h
    simp only [State.keyOf, State.keyNow] at this
    simp [State.byteAt, h, State.keyOf, State.keyNow, this, byte_setByte_same]

theorem byte_setBytes_line {a line : Nat} (h : lineOf a ≠ line) (vs : List Byte) (hv : vs.length ≤ 128) (m : List Host.Cell) :
    Memory.byte a (Memory.setBytes (128 * line) vs m) = Memory.byte a m := by
  apply byte_setBytes_out
  simp only [lineOf] at h
  omega

theorem byteAt_rekey_far (s : State) (l m : Loc) (h : lineOf l.key ≠ lineOf m.key) : (s.rekey l).byteAt m = s.byteAt m := by
  unfold State.rekey
  simp only []
  split
  · rfl
  · apply byteAt_congr
    · simp only [State.keyOf]
      rw [tget_tset_of_ne _ (Ne.symm h)]
    · rfl
    · exact byte_setBytes_line (Ne.symm h) _ (by simp [length_natsFrom]) _

/-- A line taken under a new key: what is not written reads, under that key, as it did. -/
theorem byteAt_rekey_near (s : State) (l m : Loc) (h : lineOf l.key = lineOf m.key) (hk : l.keyid = m.keyid)
    (he : l.encrypted = m.encrypted) : (s.rekey l).byteAt m = s.byteAt m := by
  by_cases hc : l.encrypted = false ∨ s.keyOf (lineOf l.key) = s.keyNow l.keyid
  · rw [mem_rekey_same s l hc]
  · have h1 : l.encrypted = true := by
      cases hl : l.encrypted with
      | false => exact absurd (.inl hl) hc
      | true => rfl
    have h2 : ¬s.keyOf (lineOf l.key) = s.keyNow l.keyid := fun e => hc (.inr e)
    have h3 : m.encrypted = true := he ▸ h1
    have hrange : 128 * lineOf l.key ≤ m.key ∧ m.key < 128 * lineOf l.key + 128 := by
      rw [h, lineOf]; omega
    have key := keyOf_rekey_same s l h1
    unfold State.rekey at key ⊢
    simp only [h1, h2, Bool.not_true, Bool.false_or, decide_false, Bool.false_eq_true, if_false] at key ⊢
    have h2' : ¬s.keyOf (lineOf m.key) = s.keyNow m.keyid := by rw [← h, ← hk]; exact h2
    have hlhs : ∀ u : State, u.keyOf (lineOf m.key) = u.keyNow m.keyid → u.byteAt m = Memory.byte m.key u.mem := by
      intro u hu
      simp [State.byteAt, hu]
    rw [hlhs _ (by rw [← h, ← hk]; exact key)]
    have hrhs : s.byteAt m = Config.otherKeyByte m.key (s.keyOf (lineOf m.key)) (s.keyNow m.keyid) := by
      simp [State.byteAt, h3, h2']
    rw [hrhs]
    obtain ⟨i, hi⟩ : ∃ i, m.key = 128 * lineOf l.key + i := ⟨m.key - 128 * lineOf l.key, by omega⟩
    simp only []
    have hlen : i < ((natsFrom (128 * lineOf l.key) 128).map
        (fun a => Config.otherKeyByte a (s.keyOf (lineOf l.key)) (s.keyNow l.keyid))).length := by
      simp [length_natsFrom]; omega
    have hbyte := byte_setBytes_in (lo := 128 * lineOf l.key) hlen s.mem
    rw [← hi] at hbyte
    rw [hbyte]
    simp only [List.getElem_map]
    have hget : ∀ (lo n i : Nat) (hh : i < (natsFrom lo n).length), (natsFrom lo n)[i] = lo + i := by
      intro lo n
      induction n generalizing lo with
      | zero => intro i hh; simp [natsFrom] at hh
      | succ n ih =>
        intro i hh
        cases i with
        | zero => simp [natsFrom]
        | succ j =>
          simp only [natsFrom, List.getElem_cons_succ]
          rw [ih]
          omega
    rw [hget, ← hi, h, hk]

theorem byteAt_setMem_ne (s : State) (l : Loc) (a : Nat) (v : Byte) (h : l.key ≠ a) :
    ({ s with mem := Memory.setByte a v s.mem } : State).byteAt l = s.byteAt l := by
  exact byteAt_congr rfl rfl (byte_setByte_of_ne h _ _)

theorem byteAt_putByte_far (s : State) (l m : Loc) (v : Byte) (h : lineOf l.key ≠ lineOf m.key) :
    (s.putByte l v).byteAt m = s.byteAt m := by
  rw [(sameMem_putByte s l v).byteAt, byteAt_setMem_ne, byteAt_rekey_far s l m h]
  intro e
  exact h (by rw [e])

theorem byteAt_putByte_near (s : State) (l m : Loc) (v : Byte) (h : l.key ≠ m.key)
    (hk : lineOf l.key = lineOf m.key → l.keyid = m.keyid ∧ l.encrypted = m.encrypted) :
    (s.putByte l v).byteAt m = s.byteAt m := by
  rw [(sameMem_putByte s l v).byteAt, byteAt_setMem_ne _ _ _ _ (Ne.symm h)]
  by_cases hl : lineOf l.key = lineOf m.key
  · exact byteAt_rekey_near s l m hl (hk hl).1 (hk hl).2
  · exact byteAt_rekey_far s l m hl

/-! Bytes. -/

def putBytes (s : State) (bs : List (Loc × Byte)) : State := bs.foldl (fun s b => s.putByte b.1 b.2) s

theorem byteAt_putBytes_far (s : State) (bs : List (Loc × Byte)) (m : Loc) (h : ∀ b ∈ bs, lineOf b.1.key ≠ lineOf m.key) :
    (putBytes s bs).byteAt m = s.byteAt m := by
  induction bs generalizing s with
  | nil => rfl
  | cons b r ih =>
    show (putBytes (s.putByte b.1 b.2) r).byteAt m = _
    rw [ih _ (fun c hc => h c (List.mem_cons_of_mem _ hc)), byteAt_putByte_far s _ _ _ (h b (List.mem_cons_self ..))]

theorem byteAt_putBytes_near (s : State) (bs : List (Loc × Byte)) (m : Loc) (h : ∀ b ∈ bs, b.1.key ≠ m.key)
    (hk : ∀ b ∈ bs, lineOf b.1.key = lineOf m.key → b.1.keyid = m.keyid ∧ b.1.encrypted = m.encrypted) :
    (putBytes s bs).byteAt m = s.byteAt m := by
  induction bs generalizing s with
  | nil => rfl
  | cons b r ih =>
    show (putBytes (s.putByte b.1 b.2) r).byteAt m = _
    rw [ih _ (fun c hc => h c (List.mem_cons_of_mem _ hc)) (fun c hc => hk c (List.mem_cons_of_mem _ hc)),
      byteAt_putByte_near s _ _ _ (h b (List.mem_cons_self ..)) (hk b (List.mem_cons_self ..))]

theorem byteAt_putBytes (s : State) (bs : List (Loc × Byte)) (h : Loc.Apart (bs.map (·.1))) (b : Loc × Byte) (hb : b ∈ bs) :
    (putBytes s bs).byteAt b.1 = b.2 := by
  induction bs generalizing s with
  | nil => cases hb
  | cons c r ih =>
    obtain ⟨hn, hk⟩ := h
    simp only [List.map_cons, List.nodup_cons] at hn
    have hr : Loc.Apart (r.map (·.1)) :=
      ⟨hn.2, fun l hl m hm => hk l (List.mem_cons_of_mem _ hl) m (List.mem_cons_of_mem _ hm)⟩
    show (putBytes (s.putByte c.1 c.2) r).byteAt b.1 = _
    rcases List.mem_cons.1 hb with e | hb
    · subst e
      rw [byteAt_putBytes_near _ r b.1 ?_ ?_, byteAt_putByte_same]
      · intro d hd e
        apply hn.1
        rw [← e]
        exact List.mem_map.2 ⟨d.1, List.mem_map.2 ⟨d, hd, rfl⟩, rfl⟩
      · intro d hd hl
        exact hk d.1 (List.mem_cons_of_mem _ (List.mem_map.2 ⟨d, hd, rfl⟩)) b.1 (List.mem_cons_self ..) hl
    · exact ih _ hr hb

theorem mem_putByte_current (s : State) (l : Loc) (v : Byte)
    (h : l.encrypted = false ∨ s.keyOf (lineOf l.key) = s.keyNow l.keyid) :
    SameMem { s with mem := Memory.setByte l.key v s.mem } (s.putByte l v) := by
  have := sameMem_putByte s l v
  rwa [mem_rekey_same s l h] at this

theorem mem_putBytes_current (s : State) (bs : List (Loc × Byte))
    (h : ∀ b ∈ bs, b.1.encrypted = false ∨ s.keyOf (lineOf b.1.key) = s.keyNow b.1.keyid) (a : Nat)
    (ha : a ∉ bs.map (·.1.key)) : Memory.byte a (putBytes s bs).mem = Memory.byte a s.mem := by
  induction bs generalizing s with
  | nil => rfl
  | cons b r ih =>
    simp only [List.map_cons, List.mem_cons, not_or] at ha
    have hb := mem_putByte_current s b.1 b.2 (h b (List.mem_cons_self ..))
    show Memory.byte a (putBytes (s.putByte b.1 b.2) r).mem = _
    rw [ih _ ?_ ha.2, hb.1, byte_setByte_of_ne ha.1]
    intro c hc
    rcases h c (List.mem_cons_of_mem _ hc) with e | e
    · exact .inl e
    · right
      simp only [State.keyOf, State.keyNow, hb.2.1, hb.2.2] at e ⊢
      exact e

/-! Contexts. -/

theorem Ctx.SeesWrite.refl (a : Ctx) : a.SeesWrite a := ⟨.inl rfl, .inl rfl⟩

theorem Ctx.SeesWrite.trans {a b c : Ctx} (h : a.SeesWrite b) (g : b.SeesWrite c) : a.SeesWrite c := by
  obtain ⟨h1, h⟩ := h
  obtain ⟨g1, g⟩ := g
  refine ⟨?_, ?_⟩
  · rcases g1 with e | e
    · rw [e]; exact h1
    · exact .inr e
  · rcases g with g | ⟨rd, t0, l, hw, g⟩
    · rcases h with h | ⟨rd, t0, l, hw, h⟩
      · left
        rw [g, h]
      · right
        refine ⟨rd, t0, l, hw, ?_⟩
        rw [g, h]
    · rcases h with h | ⟨rd', t0', l', hw', h⟩
      · right
        have ha : a.wait = .wfe rd t0 l := by rw [h] at hw; exact hw
        refine ⟨rd, t0, l, ha, ?_⟩
        rw [g, h]
        simp only [Ctx.wx]
        split <;> rfl
      · rw [h] at hw
        cases hw

/-- Every context sees the writes between two states. -/
def AllSee (s t : State) : Prop := ∀ k n, (s.ctx k n).SeesWrite (t.ctx k n)

theorem AllSee.refl (s : State) : AllSee s s := fun _ _ => .refl _
theorem AllSee.trans {s t u : State} (h : AllSee s t) (g : AllSee t u) : AllSee s u := fun k n => (h k n).trans (g k n)

theorem allSee_foldl {α : Type} (f : State → α → State) (h : ∀ s a, AllSee s (f s a)) (l : List α) (s : State) :
    AllSee s (l.foldl f s) := by
  induction l generalizing s with
  | nil => exact .refl s
  | cons a r ih => exact (h s a).trans (ih _)

theorem allSee_of_cores {s t : State} (h : t.cores = s.cores) : AllSee s t := by
  intro k n
  have : t.ctx k n = s.ctx k n := by simp [State.ctx, State.core, h]
  rw [this]
  exact .refl _

theorem allSee_setCtx (s : State) (k n : Nat) (x : Ctx) (h : (s.ctx k n).SeesWrite x) : AllSee s (s.setCtx k n x) := by
  intro j m
  rw [setCtx_eq, ctx_setCore]
  split
  · rename_i hj
    subst hj
    rw [ctx_setCtx]
    split
    · rename_i hm
      subst hm
      exact h
    · exact .refl _
  · exact .refl _

theorem cores_putByte (s : State) (l : Loc) (v : Byte) : (s.putByte l v).cores = s.cores := by
  have hr : (s.rekey l).cores = s.cores := by
    unfold State.rekey
    simp only []
    split <;> rfl
  unfold State.putByte
  simp only []
  split
  · split <;> exact hr
  · split <;> exact hr
  · split <;> exact hr

theorem cores_putBytes (s : State) (bs : List (Loc × Byte)) : (putBytes s bs).cores = s.cores := by
  induction bs generalizing s with
  | nil => rfl
  | cons b r ih =>
    show (putBytes (s.putByte b.1 b.2) r).cores = _
    rw [ih, cores_putByte]

theorem tget_map {α β : Type} (d : α) (e : β) (f : Nat → α → β) (hd : ∀ i, f i d = e) (i : Nat) (t : Tbl α) :
    tget e i (t.map (fun x => (x.1, f x.1 x.2))) = f i (tget d i t) := by
  induction t with
  | nil => simp [tget, hd]
  | cons x r ih =>
    obtain ⟨j, w⟩ := x
    simp only [List.map_cons, tget]
    split
    · rename_i hj; subst hj; rfl
    · exact ih

theorem allSee_touchLine (s : State) (k n clu line : Nat) : AllSee s (s.touchLine k n clu line) := by
  have first : AllSee s { s with cores := s.cores.map (fun (e : Nat × Core) => (e.1, if e.2.ctxs.any (fun x => x.2.lrRes = some line)
      then { e.2 with ctxs := e.2.ctxs.map (fun (x : Nat × Ctx) =>
        (x.1, if x.2.lrRes = some line && !(e.1 = k && x.1 = n) then { x.2 with lrRes := none } else x.2)) }
      else e.2)) } := by
    intro j m
    have hcore : (State.core { s with cores := s.cores.map (fun (e : Nat × Core) => (e.1, if e.2.ctxs.any (fun x => x.2.lrRes = some line)
      then { e.2 with ctxs := e.2.ctxs.map (fun (x : Nat × Ctx) =>
        (x.1, if x.2.lrRes = some line && !(e.1 = k && x.1 = n) then { x.2 with lrRes := none } else x.2)) }
      else e.2)) } j) = if (s.core j).ctxs.any (fun x => x.2.lrRes = some line)
      then { s.core j with ctxs := (s.core j).ctxs.map (fun (x : Nat × Ctx) =>
        (x.1, if x.2.lrRes = some line && !(j = k && x.1 = n) then { x.2 with lrRes := none } else x.2)) }
      else s.core j :=
      tget_map Core.reset Core.reset (fun i (c : Core) => if c.ctxs.any (fun x => x.2.lrRes = some line)
      then { c with ctxs := c.ctxs.map (fun (x : Nat × Ctx) =>
        (x.1, if x.2.lrRes = some line && !(i = k && x.1 = n) then { x.2 with lrRes := none } else x.2)) }
      else c) (fun _ => rfl) j s.cores
    simp only [State.ctx]
    rw [hcore]
    split
    · have hctx : Core.ctx { s.core j with ctxs := (s.core j).ctxs.map (fun (x : Nat × Ctx) =>
          (x.1, if x.2.lrRes = some line && !(j = k && x.1 = n) then { x.2 with lrRes := none } else x.2)) } m =
          if ((s.core j).ctx m).lrRes = some line && !(j = k && m = n) then { (s.core j).ctx m with lrRes := none }
          else (s.core j).ctx m :=
        tget_map (Ctx.reset m) (Ctx.reset m) (fun i (c : Ctx) => if c.lrRes = some line && !(j = k && i = n) then { c with lrRes := none }
          else c) (fun i => by
            have : (Ctx.reset m).lrRes = none := by unfold Ctx.reset; split <;> rfl
            simp [this]) m (s.core j).ctxs
      rw [hctx]
      split
      · exact ⟨.inr rfl, .inl rfl⟩
      · exact .refl _
    · exact .refl _
  unfold State.touchLine
  simp only []
  split
  · exact first
  · refine first.trans (AllSee.trans ?_ (allSee_foldl _ ?_ _ _))
    · exact allSee_of_cores rfl
    · intro u x
      exact allSee_setCtx u _ _ _ ⟨.inl rfl, .inl rfl⟩

theorem allSee_dropL1 (s : State) (k line : Nat) : AllSee s (s.dropL1 k line) := by
  unfold State.dropL1
  split
  · intro j m
    rw [modCore_eq, ctx_setCore]
    split
    · rename_i hj; subst hj; exact .refl _
    · exact .refl _
  · exact .refl s

theorem allSee_serveEvents (s : State) (k n : Nat) : AllSee s (s.serveEvents k n) := by
  unfold State.serveEvents
  simp only []
  split
  · rename_i rd t0 l hw
    split
    · refine allSee_setCtx s _ _ _ ⟨.inl ?_, .inr ⟨rd, t0, l, hw, by simp⟩⟩
      simp only [Ctx.wx]
      split <;> rfl
    · exact .refl s
  · exact .refl s

theorem allSee_serveAllEvents (s : State) : AllSee s s.serveAllEvents :=
  allSee_foldl _ (fun _ _ => allSee_foldl _ (fun _ _ => allSee_serveEvents _ _ _) _ _) _ _

/-! Loads performed early and a write: only what the contexts remember of those loads changes (R234). -/

theorem ctx_noteWrite (s : State) (k : Nat) (lines : List Nat) (j m : Nat) :
    (s.noteWrite k lines).ctx j m = { s.ctx j m with early := ((s.noteWrite k lines).ctx j m).early } := by
  unfold State.noteWrite
  split
  · have hcore : (State.core { s with cores := s.cores.map (fun (e : Nat × Core) => (e.1, { e.2 with ctxs := e.2.ctxs.map (fun (x : Nat × Ctx) =>
        (x.1, { x.2 with early := x.2.early.map (fun y => { y with since := y.since ++ lines.map (fun l => (l, k)) }) })) })) } j) =
        { s.core j with ctxs := (s.core j).ctxs.map (fun (x : Nat × Ctx) =>
          (x.1, { x.2 with early := x.2.early.map (fun y => { y with since := y.since ++ lines.map (fun l => (l, k)) }) })) } :=
      tget_map Core.reset Core.reset (fun _ (c : Core) => { c with ctxs := c.ctxs.map (fun (x : Nat × Ctx) =>
        (x.1, { x.2 with early := x.2.early.map (fun y => { y with since := y.since ++ lines.map (fun l => (l, k)) }) })) })
        (fun _ => rfl) j s.cores
    simp only [State.ctx]
    rw [hcore]
    have hctx : Core.ctx { s.core j with ctxs := (s.core j).ctxs.map (fun (x : Nat × Ctx) =>
          (x.1, { x.2 with early := x.2.early.map (fun y => { y with since := y.since ++ lines.map (fun l => (l, k)) }) })) } m =
        { (s.core j).ctx m with
          early := ((s.core j).ctx m).early.map (fun y => { y with since := y.since ++ lines.map (fun l => (l, k)) }) } :=
      tget_map (Ctx.reset m) (Ctx.reset m) (fun _ (c : Ctx) =>
        { c with early := c.early.map (fun y => { y with since := y.since ++ lines.map (fun l => (l, k)) }) })
        (fun _ => by unfold Ctx.reset; split <;> rfl) m (s.core j).ctxs
    rw [hctx]
  · rfl

theorem ctx_dropEarly (s : State) (k n : Nat) (keys : List Nat) (j m : Nat) :
    (s.dropEarly k n keys).ctx j m = { s.ctx j m with early := ((s.dropEarly k n keys).ctx j m).early } := by
  unfold State.dropEarly
  split
  · rfl
  · rw [modCtx_eq, ctx_setCore]
    split
    · rename_i h
      subst h
      rw [ctx_setCtx]
      split
      · rename_i h
        subst h
        rfl
      · rfl
    · rfl

theorem allSee_of_early {s t : State} (h : ∀ j m, t.ctx j m = { s.ctx j m with early := (t.ctx j m).early }) : AllSee s t := by
  intro j m
  have e := h j m
  refine ⟨.inl ?_, .inl ?_⟩
  · rw [e]
  · rw [e]

theorem allSee_noteWrite (s : State) (k : Nat) (lines : List Nat) : AllSee s (s.noteWrite k lines) :=
  allSee_of_early (ctx_noteWrite s k lines)

theorem allSee_dropEarly (s : State) (k n : Nat) (keys : List Nat) : AllSee s (s.dropEarly k n keys) :=
  allSee_of_early (ctx_dropEarly s k n keys)

theorem sameMem_noteWrite (s : State) (k : Nat) (lines : List Nat) : SameMem s (s.noteWrite k lines) := by
  unfold State.noteWrite
  split <;> exact ⟨rfl, rfl, rfl⟩

theorem sameMem_dropEarly (s : State) (k n : Nat) (keys : List Nat) : SameMem s (s.dropEarly k n keys) := by
  unfold State.dropEarly
  split <;> exact ⟨rfl, rfl, rfl⟩

/-! Reservations. -/

/-- The reservations of every context but (k, n) may only be lost; that of (k, n) stays. -/
def Loses (k n : Nat) (s t : State) : Prop :=
  (t.ctx k n).lrRes = (s.ctx k n).lrRes ∧ ∀ j m, (t.ctx j m).lrRes = (s.ctx j m).lrRes ∨ (t.ctx j m).lrRes = none

theorem Loses.refl (k n : Nat) (s : State) : Loses k n s s := ⟨rfl, fun _ _ => .inl rfl⟩

theorem Loses.trans {k n : Nat} {s t u : State} (h : Loses k n s t) (g : Loses k n t u) : Loses k n s u := by
  refine ⟨g.1.trans h.1, fun j m => ?_⟩
  rcases g.2 j m with e | e
  · rw [e]; exact h.2 j m
  · exact .inr e

theorem loses_foldl {α : Type} {k n : Nat} (f : State → α → State) (h : ∀ s a, Loses k n s (f s a)) (l : List α) (s : State) :
    Loses k n s (l.foldl f s) := by
  induction l generalizing s with
  | nil => exact .refl k n s
  | cons a r ih => exact (h s a).trans (ih _)

theorem loses_of_same {k n : Nat} {s t : State} (h : ∀ j m, (t.ctx j m).lrRes = (s.ctx j m).lrRes) : Loses k n s t :=
  ⟨h k n, fun j m => .inl (h j m)⟩

theorem loses_setCtx {k n : Nat} (s : State) (j m : Nat) (x : Ctx) (h : x.lrRes = (s.ctx j m).lrRes) :
    Loses k n s (s.setCtx j m x) := by
  apply loses_of_same
  intro i l
  rw [setCtx_eq, ctx_setCore]
  split
  · rename_i hj
    subst hj
    rw [ctx_setCtx]
    split
    · rename_i hm
      subst hm
      exact h
    · rfl
  · rfl

/-- A write of a line takes every other context's reservation on it. -/
theorem loses_touchLine (s : State) (k n clu line : Nat) :
    Loses k n s (s.touchLine k n clu line) ∧
      ∀ j m, ¬(j = k ∧ m = n) → ((s.touchLine k n clu line).ctx j m).lrRes ≠ some line := by
  have first : ∀ j m, (State.ctx { s with cores := s.cores.map (fun (e : Nat × Core) => (e.1,
      if e.2.ctxs.any (fun x => x.2.lrRes = some line)
      then { e.2 with ctxs := e.2.ctxs.map (fun (x : Nat × Ctx) =>
        (x.1, if x.2.lrRes = some line && !(e.1 = k && x.1 = n) then { x.2 with lrRes := none } else x.2)) }
      else e.2)) } j m).lrRes = if (s.ctx j m).lrRes = some line ∧ ¬(j = k ∧ m = n) then none else (s.ctx j m).lrRes := by
    intro j m
    have hcore : (State.core { s with cores := s.cores.map (fun (e : Nat × Core) => (e.1, if e.2.ctxs.any (fun x => x.2.lrRes = some line)
      then { e.2 with ctxs := e.2.ctxs.map (fun (x : Nat × Ctx) =>
        (x.1, if x.2.lrRes = some line && !(e.1 = k && x.1 = n) then { x.2 with lrRes := none } else x.2)) }
      else e.2)) } j) = if (s.core j).ctxs.any (fun x => x.2.lrRes = some line)
      then { s.core j with ctxs := (s.core j).ctxs.map (fun (x : Nat × Ctx) =>
        (x.1, if x.2.lrRes = some line && !(j = k && x.1 = n) then { x.2 with lrRes := none } else x.2)) }
      else s.core j :=
      tget_map Core.reset Core.reset (fun i (c : Core) => if c.ctxs.any (fun x => x.2.lrRes = some line)
      then { c with ctxs := c.ctxs.map (fun (x : Nat × Ctx) =>
        (x.1, if x.2.lrRes = some line && !(i = k && x.1 = n) then { x.2 with lrRes := none } else x.2)) }
      else c) (fun _ => rfl) j s.cores
    have hnone : (Ctx.reset m).lrRes = none := by unfold Ctx.reset; split <;> rfl
    simp only [State.ctx]
    rw [hcore]
    split
    · have hctx : Core.ctx { s.core j with ctxs := (s.core j).ctxs.map (fun (x : Nat × Ctx) =>
          (x.1, if x.2.lrRes = some line && !(j = k && x.1 = n) then { x.2 with lrRes := none } else x.2)) } m =
          if ((s.core j).ctx m).lrRes = some line && !(j = k && m = n) then { (s.core j).ctx m with lrRes := none }
          else (s.core j).ctx m :=
        tget_map (Ctx.reset m) (Ctx.reset m) (fun i (c : Ctx) => if c.lrRes = some line && !(j = k && i = n) then { c with lrRes := none }
          else c) (fun i => by simp [hnone]) m (s.core j).ctxs
      rw [hctx]
      by_cases h : ((s.core j).ctx m).lrRes = some line <;> by_cases g : j = k ∧ m = n
      · obtain ⟨rfl, rfl⟩ := g
        simp [h]
      · have g' : ¬(decide (j = k) && decide (m = n)) = true := by simpa using g
        simp [h, g, g']
      · simp [h]
      · simp [h]
    · rename_i hany
      have hne : ∀ (t : Tbl Ctx), ¬(t.any (fun x => x.2.lrRes = some line)) = true → (tget (Ctx.reset m) m t).lrRes ≠ some line := by
        intro t
        induction t with
        | nil => intro _; simp [tget, hnone]
        | cons x r ih =>
          obtain ⟨i, y⟩ := x
          intro hn
          simp only [List.any_cons, Bool.or_eq_true, not_or] at hn
          simp only [tget]
          split
          · simpa using hn.1
          · exact ih hn.2
      have := hne _ hany
      exact (if_neg (fun hc => this hc.1)).symm
  have l1 : Loses k n s { s with cores := s.cores.map (fun (e : Nat × Core) => (e.1,
      if e.2.ctxs.any (fun x => x.2.lrRes = some line)
      then { e.2 with ctxs := e.2.ctxs.map (fun (x : Nat × Ctx) =>
        (x.1, if x.2.lrRes = some line && !(e.1 = k && x.1 = n) then { x.2 with lrRes := none } else x.2)) }
      else e.2)) } := by
    refine ⟨?_, fun j m => ?_⟩
    · rw [first]; simp
    · rw [first]
      split
      · exact .inr rfl
      · exact .inl rfl
  have l2 : ∀ j m, ¬(j = k ∧ m = n) → (State.ctx { s with cores := s.cores.map (fun (e : Nat × Core) => (e.1,
      if e.2.ctxs.any (fun x => x.2.lrRes = some line)
      then { e.2 with ctxs := e.2.ctxs.map (fun (x : Nat × Ctx) =>
        (x.1, if x.2.lrRes = some line && !(e.1 = k && x.1 = n) then { x.2 with lrRes := none } else x.2)) }
      else e.2)) } j m).lrRes ≠ some line := by
    intro j m hjm
    rw [first]
    split
    · simp
    · rename_i h
      intro e
      exact h ⟨e, hjm⟩
  unfold State.touchLine
  simp only []
  split
  · exact ⟨l1, l2⟩
  · have l3 : ∀ (regs : List (Nat × Nat × Nat)) (u : State),
        Loses k n u (regs.foldl (fun s m => s.modCtx m.2.1 m.2.2 (fun c => { c with event := true })) u) ∧
        ∀ j m, ((regs.foldl (fun s m => s.modCtx m.2.1 m.2.2 (fun c => { c with event := true })) u).ctx j m).lrRes = (u.ctx j m).lrRes := by
      intro regs
      induction regs with
      | nil => intro u; exact ⟨.refl _ _ _, fun _ _ => rfl⟩
      | cons x r ih =>
        intro u
        have hx : ∀ j m, ((u.modCtx x.2.1 x.2.2 (fun c => { c with event := true })).ctx j m).lrRes = (u.ctx j m).lrRes := by
          intro j m
          rw [modCtx_eq, ctx_setCore]
          split
          · rename_i hj
            subst hj
            rw [ctx_setCtx]
            split
            · rename_i hm; subst hm; rfl
            · rfl
          · rfl
        rw [List.foldl_cons]
        exact ⟨(loses_of_same hx).trans (ih _).1, fun j m => ((ih _).2 j m).trans (hx j m)⟩
    refine ⟨l1.trans (Loses.trans (loses_of_same fun _ _ => rfl) (l3 _ _).1), ?_⟩
    intro j m hjm
    rw [(l3 _ _).2 j m]
    exact l2 j m hjm

theorem loses_dropL1 (k n : Nat) (s : State) (c line : Nat) : Loses k n s (s.dropL1 c line) := by
  unfold State.dropL1
  split
  · apply loses_of_same
    intro j m
    rw [modCore_eq, ctx_setCore]
    split
    · rename_i hj; subst hj; rfl
    · rfl
  · exact .refl k n s

theorem loses_noteWrite (k n : Nat) (s : State) (c : Nat) (lines : List Nat) : Loses k n s (s.noteWrite c lines) :=
  loses_of_same fun j m => by rw [ctx_noteWrite]

theorem loses_dropEarly (k n : Nat) (s : State) (c i : Nat) (keys : List Nat) : Loses k n s (s.dropEarly c i keys) :=
  loses_of_same fun j m => by rw [ctx_dropEarly]

theorem loses_serveEvents (k n : Nat) (s : State) (c m : Nat) : Loses k n s (s.serveEvents c m) := by
  unfold State.serveEvents
  simp only []
  split
  · split
    · apply loses_setCtx
      simp only [Ctx.wx]
      split <;> rfl
    · exact .refl k n s
  · exact .refl k n s

theorem mem_insertNat (x y : Nat) (l : List Nat) : x ∈ insertNat y l ↔ x = y ∨ x ∈ l := by
  induction l with
  | nil => simp [insertNat]
  | cons z r ih =>
    simp only [insertNat]
    split
    · rename_i h; subst h; simp
    · split
      · simp
      · simp only [List.mem_cons, ih]
        constructor
        · rintro (h | h | h) <;> simp [h]
        · rintro (h | h | h) <;> simp [h]

theorem mem_sortNats (x : Nat) (l : List Nat) : x ∈ sortNats l ↔ x ∈ l := by
  induction l with
  | nil => simp [sortNats]
  | cons y r ih =>
    have : sortNats (y :: r) = insertNat y (sortNats r) := rfl
    rw [this, mem_insertNat, ih, List.mem_cons]

/-- The line leaves the L1 of a core that has stored to it. -/
def dropOwn (k n line : Nat) (s : State) : State := if n ≠ 8 then s.dropL1 k line else s

theorem perform_eq (s : State) (k n : Nat) (bs : List (Loc × Byte)) :
    s.perform k n bs =
      let lines := sortNats (bs.map (fun b => lineOf b.1.key))
      let clu (line : Nat) : Nat := ((bs.find? (fun b => lineOf b.1.key = line)).map (fun b => b.1.clu)).getD 0
      (((lines.foldl (fun s line => dropOwn k n line (s.touchLine k n (clu line) line)) (putBytes s bs)).noteWrite k lines).dropEarly k n
        (bs.map (fun b => b.1.key))).serveAllEvents := rfl

theorem sameMem_dropOwn (k n line : Nat) (s : State) : SameMem s (dropOwn k n line s) := by
  unfold dropOwn
  split
  · exact sameMem_dropL1 _ _ _
  · exact .refl s

theorem allSee_dropOwn (k n line : Nat) (s : State) : AllSee s (dropOwn k n line s) := by
  unfold dropOwn
  split
  · exact allSee_dropL1 _ _ _
  · exact .refl s

theorem loses_perform (s : State) (k n : Nat) (bs : List (Loc × Byte)) :
    Loses k n s (s.perform k n bs) ∧
      ∀ j m, ¬(j = k ∧ m = n) → ∀ b ∈ bs, ((s.perform k n bs).ctx j m).lrRes ≠ some (lineOf b.1.key) := by
  have e : ∀ j m, (putBytes s bs).ctx j m = s.ctx j m := fun j m => by simp [State.ctx, State.core, cores_putBytes]
  have fold : ∀ (f : Nat → Nat) (ls : List Nat) (u : State),
      Loses k n u (ls.foldl (fun s line => dropOwn k n line (s.touchLine k n (f line) line)) u) ∧
      ∀ line ∈ ls, ∀ j m, ¬(j = k ∧ m = n) →
        ((ls.foldl (fun s line => dropOwn k n line (s.touchLine k n (f line) line)) u).ctx j m).lrRes ≠ some line := by
    intro f ls
    induction ls with
    | nil => intro u; exact ⟨.refl _ _ _, fun _ h => by cases h⟩
    | cons x r ih =>
      intro u
      rw [List.foldl_cons]
      have h1 := loses_touchLine u k n (f x) x
      have h2 : Loses k n (u.touchLine k n (f x) x) (dropOwn k n x (u.touchLine k n (f x) x)) := by
        unfold dropOwn
        split
        · exact loses_dropL1 k n _ k x
        · exact .refl k n _
      obtain ⟨h3, h4⟩ := ih (dropOwn k n x (u.touchLine k n (f x) x))
      refine ⟨(h1.1.trans h2).trans h3, ?_⟩
      intro line hl j m hjm
      rcases List.mem_cons.1 hl with rfl | hl
      · intro hc
        rcases h3.2 j m with g | g
        · rcases h2.2 j m with g' | g'
          · rw [g, g'] at hc; exact h1.2 j m hjm hc
          · rw [g, g'] at hc; cases hc
        · rw [g] at hc; cases hc
      · exact h4 line hl j m hjm
  have l4 : ∀ u : State, Loses k n u u.serveAllEvents := fun u =>
    loses_foldl _ (fun _ _ => loses_foldl _ (fun _ _ => loses_serveEvents k n _ _ _) _ _) _ _
  have main := fold (fun line => ((bs.find? (fun b => lineOf b.1.key = line)).map (fun b => b.1.clu)).getD 0)
    (sortNats (bs.map (fun b => lineOf b.1.key))) (putBytes s bs)
  have tail := fun u lines keys => ((loses_noteWrite k n u k lines).trans (loses_dropEarly k n _ k n keys)).trans (l4 _)
  refine ⟨(loses_of_same (fun j m => by rw [e])).trans (main.1.trans (tail _ _ _)), ?_⟩
  intro j m hjm b hb hc
  have hl : lineOf b.1.key ∈ sortNats (bs.map (fun b => lineOf b.1.key)) :=
    (mem_sortNats _ _).2 (List.mem_map.2 ⟨b, hb, rfl⟩)
  have h5 := main.2 _ hl j m hjm
  rcases (tail _ _ _).2 j m with g | g
  · exact h5 (g.symm.trans hc)
  · have : (some (lineOf b.1.key)) = none := hc.symm.trans g
    cases this

/-- What a write performed at its homes does. -/
theorem writes_perform (s : State) (k n : Nat) (bs : List (Loc × Byte)) : s.Writes (s.perform k n bs) k n bs := by
  have hm : SameMem (putBytes s bs) (s.perform k n bs) := by
    rw [perform_eq]
    refine (SameMem.trans (sameMem_foldl _ ?_ _ _) (sameMem_noteWrite _ _ _)).trans
      ((sameMem_dropEarly _ _ _ _).trans (sameMem_serveAllEvents _))
    intro u line
    exact (sameMem_touchLine _ _ _ _ _).trans (sameMem_dropOwn _ _ _ _)
  have hc : AllSee (putBytes s bs) (s.perform k n bs) := by
    rw [perform_eq]
    refine (AllSee.trans (allSee_foldl _ ?_ _ _) (allSee_noteWrite _ _ _)).trans
      ((allSee_dropEarly _ _ _ _).trans (allSee_serveAllEvents _))
    intro u line
    exact (allSee_touchLine _ _ _ _ _).trans (allSee_dropOwn _ _ _ _)
  refine ⟨?_, ?_, ?_, ?_, (loses_perform s k n bs).2, (loses_perform s k n bs).1.1⟩
  · intro h b hb
    rw [hm.byteAt]
    exact byteAt_putBytes s bs h b hb
  · intro l h
    rw [hm.byteAt]
    exact byteAt_putBytes_far s bs l h
  · intro h a ha
    rw [hm.1]
    exact mem_putBytes_current s bs h a ha
  · intro j m
    have := hc j m
    have e : (putBytes s bs).ctx j m = s.ctx j m := by simp [State.ctx, State.core, cores_putBytes]
    rwa [e] at this

/-! What a write leaves alone. -/

/-- Two states that differ at most in memory, cores and clusters, and in requests without a change of what is ahead of a core. -/
def SameWay (s t : State) : Prop :=
  (∃ m lk bp po co cl rs, t = { s with mem := m, lineKeys := lk, badParity := bp, poison := po, cores := co, clusters := cl, reqs := rs }) ∧
    ∀ k die, t.ahead k die = s.ahead k die

theorem SameWay.refl (s : State) : SameWay s s := ⟨⟨_, _, _, _, _, _, _, rfl⟩, fun _ _ => rfl⟩

theorem SameWay.trans {s t u : State} (h : SameWay s t) (g : SameWay t u) : SameWay s u := by
  refine ⟨?_, fun k die => (g.2 k die).trans (h.2 k die)⟩
  obtain ⟨⟨_, _, _, _, _, _, _, rfl⟩, _⟩ := h
  obtain ⟨⟨m, lk, bp, po, co, cl, rs, rfl⟩, _⟩ := g
  exact ⟨m, lk, bp, po, co, cl, rs, rfl⟩

/-- Only memory, cores and clusters change. -/
theorem sameWay_of {s t : State} (h : ∃ m lk bp po co cl, t =
    { s with mem := m, lineKeys := lk, badParity := bp, poison := po, cores := co, clusters := cl }) : SameWay s t := by
  obtain ⟨m, lk, bp, po, co, cl, rfl⟩ := h
  exact ⟨⟨m, lk, bp, po, co, cl, _, rfl⟩, fun _ _ => rfl⟩

theorem sameWay_foldl {α : Type} (f : State → α → State) (h : ∀ s a, SameWay s (f s a)) (l : List α) (s : State) :
    SameWay s (l.foldl f s) := by
  induction l generalizing s with
  | nil => exact .refl s
  | cons a r ih => exact (h s a).trans (ih _)

theorem sameWay_setCore (s : State) (k : Nat) (c : Core) : SameWay s (s.setCore k c) := sameWay_of ⟨_, _, _, _, _, _, rfl⟩
theorem sameWay_setCluster (s : State) (k : Nat) (c : Cluster) : SameWay s (s.setCluster k c) := sameWay_of ⟨_, _, _, _, _, _, rfl⟩

theorem sameWay_putByte (s : State) (l : Loc) (v : Byte) : SameWay s (s.putByte l v) := by
  have hr : SameWay s (s.rekey l) := by
    unfold State.rekey
    simp only []
    split
    · exact .refl s
    · exact sameWay_of ⟨_, _, _, _, _, _, rfl⟩
  refine hr.trans ?_
  generalize hu : s.rekey l = u
  unfold State.putByte
  simp only [hu]
  split
  · split <;> exact sameWay_of ⟨_, _, _, _, _, _, rfl⟩
  · split <;> exact sameWay_of ⟨_, _, _, _, _, _, rfl⟩
  · split <;> exact sameWay_of ⟨_, _, _, _, _, _, rfl⟩

theorem sameWay_touchLine (s : State) (k n clu line : Nat) : SameWay s (s.touchLine k n clu line) := by
  unfold State.touchLine
  simp only []
  split
  · exact sameWay_of ⟨_, _, _, _, _, _, rfl⟩
  · refine SameWay.trans ?_ (sameWay_foldl _ ?_ _ _)
    · exact sameWay_of ⟨_, _, _, _, _, _, rfl⟩
    · intro u x
      exact sameWay_setCore _ _ _

theorem sameWay_dropL1 (s : State) (k line : Nat) : SameWay s (s.dropL1 k line) := by
  unfold State.dropL1
  split
  · exact sameWay_setCore _ _ _
  · exact .refl s

theorem sameWay_serveEvents (s : State) (k n : Nat) : SameWay s (s.serveEvents k n) := by
  unfold State.serveEvents
  simp only []
  split
  · split
    · exact sameWay_setCore _ _ _
    · exact .refl s
  · exact .refl s

theorem sameWay_perform (s : State) (k n : Nat) (bs : List (Loc × Byte)) : SameWay s (s.perform k n bs) := by
  have hp : SameWay s (putBytes s bs) := 
    sameWay_foldl (fun (u : State) (b : Loc × Byte) => u.putByte b.1 b.2) (fun u b => sameWay_putByte u b.1 b.2) bs s
  have hs : ∀ u : State, SameWay u u.serveAllEvents := fun u =>
    sameWay_foldl _ (fun _ _ => sameWay_foldl _ (fun _ _ => sameWay_serveEvents _ _ _) _ _) _ _
  have hn : ∀ (u : State) lines, SameWay u (u.noteWrite k lines) := fun u lines => by
    unfold State.noteWrite
    split
    · exact sameWay_of ⟨_, _, _, _, _, _, rfl⟩
    · exact .refl u
  have hd : ∀ (u : State) keys, SameWay u (u.dropEarly k n keys) := fun u keys => by
    unfold State.dropEarly
    split
    · exact .refl u
    · exact sameWay_setCore _ _ _
  refine hp.trans ?_
  rw [perform_eq]
  refine (SameWay.trans (sameWay_foldl _ ?_ _ _) (hn _ _)).trans ((hd _ _).trans (hs _))
  intro u line
  have ho : ∀ v : State, SameWay v (dropOwn k n line v) := fun v => by
    unfold dropOwn
    split
    · exact sameWay_dropL1 _ _ _
    · exact .refl _
  exact (sameWay_touchLine _ _ _ _ _).trans (ho _)

theorem SameWay.atOnce {s t : State} (h : SameWay s t) (k : Nat) (l : Loc) : t.atOnce k l = s.atOnce k l := by
  unfold State.atOnce
  split
  · rfl
  · rw [h.2]
    obtain ⟨⟨_, _, _, _, _, _, _, rfl⟩, _⟩ := h
    rfl

theorem SameWay.cur {s t : State} (h : SameWay s t) : t.curCore = s.curCore ∧ t.curCtx = s.curCtx := by
  obtain ⟨⟨_, _, _, _, _, _, _, rfl⟩, _⟩ := h
  exact ⟨rfl, rfl⟩

/-! Stores of a range that may have several homes. -/

theorem sameMem_putByte_congr {s t : State} (h : SameMem s t) (l : Loc) (v : Byte) : SameMem (s.putByte l v) (t.putByte l v) := by
  have hr : SameMem (s.rekey l) (t.rekey l) := by
    obtain ⟨h1, h2, h3⟩ := h
    unfold State.rekey State.keyOf State.keyNow
    rw [h1, h2, h3]
    simp only []
    split
    · exact ⟨h1, h2, h3⟩
    · exact ⟨rfl, rfl, by simp only [h3]⟩
  have hs := sameMem_putByte s l v
  have ht := sameMem_putByte t l v
  refine ⟨?_, ?_, ?_⟩
  · rw [ht.1, hs.1]
    simp only [hr.1]
  · rw [ht.2.1, hs.2.1]
    exact hr.2.1
  · rw [ht.2.2, hs.2.2]
    exact hr.2.2

theorem sameMem_putBytes_congr {s t : State} (h : SameMem s t) (bs : List (Loc × Byte)) : SameMem (putBytes s bs) (putBytes t bs) := by
  induction bs generalizing s t with
  | nil => exact h
  | cons b r ih => exact ih (sameMem_putByte_congr h b.1 b.2)

theorem putBytes_append (s : State) (a b : List (Loc × Byte)) : putBytes s (a ++ b) = putBytes (putBytes s a) b := by
  simp [putBytes, List.foldl_append]

theorem sameMem_perform (s : State) (k n : Nat) (bs : List (Loc × Byte)) : SameMem (putBytes s bs) (s.perform k n bs) := by
  rw [perform_eq]
  refine (SameMem.trans (sameMem_foldl _ ?_ _ _) (sameMem_noteWrite _ _ _)).trans
    ((sameMem_dropEarly _ _ _ _).trans (sameMem_serveAllEvents _))
  intro u line
  exact (sameMem_touchLine _ _ _ _ _).trans (sameMem_dropOwn _ _ _ _)

/-- Accesses of a context end its early loads of the bytes and the repeats of its stores (R228, R234). -/
def ownBefore (k n : Nat) (g : List (Loc × Byte)) (s : State) : State := if n < 8 then s.ownAccess k n (g.map (fun b => b.1.key)) else s

theorem noRepeat_cases (s : State) (k n : Nat) (keys : Option (List Nat)) :
    ∃ rs, s.noRepeat k n keys = { s with reqs := rs } ∧ ∀ c die, (s.noRepeat k n keys).ahead c die = s.ahead c die := by
  have key : ∀ hit : Req → Bool, ∃ rs,
      (if s.reqs.any hit then { s with reqs := s.reqs.map (fun (r : Req) => if hit r then { r with again := false } else r) } else s) =
        { s with reqs := rs } ∧
      ∀ c die, (if s.reqs.any hit then { s with reqs := s.reqs.map (fun (r : Req) => if hit r then { r with again := false } else r) }
        else s).ahead c die = s.ahead c die := by
    intro hit
    split
    · refine ⟨_, rfl, fun c die => ?_⟩
      simp only [State.ahead, List.any_map]
      congr 1
      funext r
      simp only [Function.comp]
      split <;> rfl
    · exact ⟨s.reqs, rfl, fun _ _ => rfl⟩
  exact key _

theorem sameMem_ownBefore (k n : Nat) (g : List (Loc × Byte)) (s : State) : SameMem s (ownBefore k n g s) := by
  unfold ownBefore
  split
  · obtain ⟨rs, h, _⟩ := noRepeat_cases (s.dropEarly k n (g.map (fun b => b.1.key))) k n (some (g.map (fun b => b.1.key)))
    rw [State.ownAccess, h]
    exact sameMem_dropEarly _ _ _ _
  · exact .refl s

theorem allSee_ownBefore (k n : Nat) (g : List (Loc × Byte)) (s : State) : AllSee s (ownBefore k n g s) := by
  unfold ownBefore
  split
  · obtain ⟨rs, h, _⟩ := noRepeat_cases (s.dropEarly k n (g.map (fun b => b.1.key))) k n (some (g.map (fun b => b.1.key)))
    rw [State.ownAccess, h]
    exact allSee_dropEarly s k n _
  · exact .refl s

theorem loses_ownBefore (k n : Nat) (g : List (Loc × Byte)) (s : State) : Loses k n s (ownBefore k n g s) := by
  unfold ownBefore
  split
  · obtain ⟨rs, h, _⟩ := noRepeat_cases (s.dropEarly k n (g.map (fun b => b.1.key))) k n (some (g.map (fun b => b.1.key)))
    rw [State.ownAccess, h]
    exact loses_dropEarly k n s k n _
  · exact .refl _ _ s

theorem sameWay_ownBefore (k n : Nat) (g : List (Loc × Byte)) (s : State) : SameWay s (ownBefore k n g s) := by
  unfold ownBefore
  split
  · obtain ⟨rs, h, ha⟩ := noRepeat_cases (s.dropEarly k n (g.map (fun b => b.1.key))) k n (some (g.map (fun b => b.1.key)))
    have hd : SameWay s (s.dropEarly k n (g.map (fun b => b.1.key))) := by
      unfold State.dropEarly
      split
      · exact .refl s
      · exact sameWay_setCore _ _ _
    refine hd.trans ?_
    rw [State.ownAccess]
    exact ⟨by rw [h]; exact ⟨_, _, _, _, _, _, _, rfl⟩, ha⟩
  · exact .refl s

/-- One group of bytes of a store, performed at its home. -/
def storeGroup (k n : Nat) (s : State) (g : List (Loc × Byte)) : State := (ownBefore k n g s).perform k n g

theorem sameWay_storeGroup (k n : Nat) (s : State) (g : List (Loc × Byte)) : SameWay s (storeGroup k n s g) :=
  (sameWay_ownBefore k n g s).trans (sameWay_perform _ _ _ _)

/-- Writes performed one after another are one write of all their bytes. -/
theorem writes_storeGroups (s : State) (k n : Nat) (gs : List (List (Loc × Byte))) :
    s.Writes (gs.foldl (storeGroup k n) s) k n gs.flatten := by
  have hm : ∀ (gs : List (List (Loc × Byte))) (s : State),
      SameMem (putBytes s gs.flatten) (gs.foldl (storeGroup k n) s) := by
    intro gs
    induction gs with
    | nil => intro s; exact .refl s
    | cons g r ih =>
      intro s
      rw [List.flatten_cons, putBytes_append, List.foldl_cons]
      exact (sameMem_putBytes_congr ((sameMem_putBytes_congr (sameMem_ownBefore k n g s) g).trans (sameMem_perform _ k n g)) _).trans (ih _)
  have hc : AllSee s (gs.foldl (storeGroup k n) s) :=
    allSee_foldl _ (fun u g => (allSee_ownBefore k n g u).trans (writes_perform _ k n g).ctxs) _ _
  have hl : ∀ (gs : List (List (Loc × Byte))) (s : State), Loses k n s (gs.foldl (storeGroup k n) s) ∧
      ∀ j m, ¬(j = k ∧ m = n) → ∀ b ∈ gs.flatten,
        ((gs.foldl (storeGroup k n) s).ctx j m).lrRes ≠ some (lineOf b.1.key) := by
    intro gs
    induction gs with
    | nil => intro s; exact ⟨.refl _ _ _, fun _ _ _ _ h => by cases h⟩
    | cons g r ih =>
      intro s
      rw [List.foldl_cons]
      have h1 := loses_perform (ownBefore k n g s) k n g
      obtain ⟨h3, h4⟩ := ih (storeGroup k n s g)
      refine ⟨((loses_ownBefore k n g s).trans h1.1).trans h3, ?_⟩
      intro j m hjm b hb hc
      rcases List.mem_append.1 (List.flatten_cons ▸ hb : b ∈ g ++ r.flatten) with hb | hb
      · rcases h3.2 j m with e | e
        · exact h1.2 j m hjm b hb (e.symm.trans hc)
        · have : (some (lineOf b.1.key)) = none := hc.symm.trans e
          cases this
      · exact h4 j m hjm b hb hc
  refine ⟨?_, ?_, ?_, hc, (hl gs s).2, (hl gs s).1.1⟩
  · intro h b hb
    rw [(hm gs s).byteAt]
    exact byteAt_putBytes s _ h b hb
  · intro l h
    rw [(hm gs s).byteAt]
    exact byteAt_putBytes_far s _ l h
  · intro h a ha
    rw [(hm gs s).1]
    exact mem_putBytes_current s _ h a ha

theorem flatten_groupHomes (bs : List (Loc × Byte)) : (groupHomes bs).flatten = bs := by
  induction bs with
  | nil => rfl
  | cons b r ih =>
    simp only [groupHomes]
    split
    · rename_i h
      rw [h] at ih
      simpa using ih
    · rename_i g gs h
      rw [h] at ih
      split
      · split
        · simpa using ih
        · simpa using ih
      · simpa using ih

/-- The groups a store is performed in. -/
def storeGroups (s : State) (bs : List (Loc × Byte)) : List (List (Loc × Byte)) := if s.mode.split then bs.map (fun b => [b]) else groupHomes bs

theorem flatten_storeGroups (s : State) (bs : List (Loc × Byte)) : (storeGroups s bs).flatten = bs := by
  unfold storeGroups
  split
  · induction bs with
    | nil => rfl
    | cons b r ih => rw [List.map_cons, List.flatten_cons, ih]; rfl
  · exact flatten_groupHomes bs

/-- A store whose every place is at hand is one write of its bytes. -/
theorem writes_storeLocs (s : State) (k n : Nat) (va : Word) (bs : List (Loc × Byte))
    (h : ∀ b ∈ bs, s.atOnce k b.1 = true) :
    s.Writes (s.storeLocs k n va bs) k n bs ∧ SameWay s (s.storeLocs k n va bs) := by
  have key : ∀ (gs : List (List (Loc × Byte))) (u : State), SameWay s u → (∀ g ∈ gs, ∀ b ∈ g, s.atOnce k b.1 = true) →
      gs.foldl (fun s g =>
        match g with
        | [] => s
        | b :: _ =>
          let s := if n < 8 then s.ownAccess k n (g.map (fun b => b.1.key)) else s
          if s.atOnce k b.1 then s.perform k n g
          else
            let s := if n < 8 then g.foldl (fun s b => s.dropL1 k (lineOf b.1.key)) s else s
            let s := s.sendReq { Req.fresh s.clock k n b.1.keyid (dieOf k) b.1.die va (.store (g.map (fun b => (b.1.key, b.2))) false)
              with again := decide (n < 8), cmd := none }
            if n < 8 then s.modCtx k n (fun c => { c with unacked := c.unacked + 1 }) else s) u =
      (gs.filter (fun g => !g.isEmpty)).foldl (storeGroup k n) u := by
    intro gs
    induction gs with
    | nil => intro u _ _; rfl
    | cons g r ih =>
      intro u hu hg
      rw [List.foldl_cons]
      cases g with
      | nil => exact ih u hu (fun g hg' => hg g (List.mem_cons_of_mem _ hg'))
      | cons b bs' =>
        have hw := sameWay_ownBefore k n (b :: bs') u
        have hb : (ownBefore k n (b :: bs') u).atOnce k b.1 = true := by
          rw [(hu.trans hw).atOnce]
          exact hg _ (List.mem_cons_self ..) _ (List.mem_cons_self ..)
        unfold ownBefore at hb
        simp only [hb, if_true]
        rw [List.filter_cons_of_pos (by rfl), List.foldl_cons]
        exact ih _ (hu.trans (sameWay_storeGroup k n u (b :: bs'))) (fun g hg' => hg g (List.mem_cons_of_mem _ hg'))
  have hflat : ∀ gs : List (List (Loc × Byte)), (gs.filter (fun g => !g.isEmpty)).flatten = gs.flatten := by
    intro gs
    induction gs with
    | nil => rfl
    | cons g r ih =>
      cases g with
      | nil => simpa using ih
      | cons b bs' => simp [ih]
  have hall : ∀ g ∈ storeGroups s bs, ∀ b ∈ g, s.atOnce k b.1 = true := by
    intro g hg b hb
    apply h
    rw [← flatten_storeGroups s bs]
    exact List.mem_flatten.2 ⟨g, hg, hb⟩
  have e : s.storeLocs k n va bs = ((storeGroups s bs).filter (fun g => !g.isEmpty)).foldl (storeGroup k n) s :=
    key _ s (.refl s) hall
  rw [e]
  refine ⟨?_, sameWay_foldl _ (fun _ _ => sameWay_storeGroup _ _ _ _) _ _⟩
  have := writes_storeGroups s k n ((storeGroups s bs).filter (fun g => !g.isEmpty))
  rwa [hflat, flatten_storeGroups] at this

end Sys2Proof.Machine
end

