-- ==== Sys2Proof/Laws/Access.lean ====
section
/-! SUPPORT. What an access does once nothing stands in its way: loads, stores, and what is due before them. -/

namespace Sys2Proof.Machine

theorem length_xlateRange {s : State} {w : Who} {acc : Acc} {va : Word} {len : Nat} {ls : List Loc}
    (h : s.xlateRange w acc va len = .ok ls) : ls.length = len := by
  unfold State.xlateRange at h
  simp only [] at h
  split at h
  · cases h
  · rename_i hf
    cases h
    have : ∀ rs : List (Except Flt Loc), firstFlt rs = none → (rs.filterMap (fun r => match r with
        | .ok l => some l | .error _ => none)).length = rs.length := by
      intro rs hn
      have hall : ∀ r ∈ rs, ∃ l, r = .ok l := by
        intro r hr
        cases r with
        | ok l => exact ⟨l, rfl⟩
        | error f =>
          exfalso
          unfold firstFlt at hn
          simp only [] at hn
          split at hn
          · cases hn
          · have : f ∈ rs.filterMap (fun r => match r with | .error f => some f | .ok _ => none) :=
              List.mem_filterMap.2 ⟨_, hr, rfl⟩
            have h2 : rs.filterMap (fun r => match r with | .error f => some f | .ok _ => none) = ([] : List Flt) :=
              List.head?_eq_none_iff.1 hn
            rw [h2] at this
            cases this
      induction rs with
      | nil => rfl
      | cons r rs ih =>
        obtain ⟨l, rfl⟩ := hall r (List.mem_cons_self ..)
        simp only [List.filterMap_cons, List.length_cons]
        rw [ih]
        · clear ih hn
          have hn : ∀ rs : List (Except Flt Loc), (∀ r ∈ rs, ∃ l, r = .ok l) → firstFlt rs = none := by
            intro rs h
            have : rs.filterMap (fun r => match r with | .error f => some f | .ok _ => none) = ([] : List Flt) := by
              rw [List.filterMap_eq_nil_iff]
              intro r hr
              obtain ⟨l, rfl⟩ := h r hr
              rfl
            unfold firstFlt
            simp only []
            have e : (rs.filterMap (fun r => match r with | .error f => some f | .ok _ => none)).find? Flt.pageClass = none := by
              rw [this]; rfl
            have e2 : (rs.filterMap (fun r => match r with | .error f => some f | .ok _ => none)).head? = none := by
              rw [this]; rfl
            split
            · rename_i f hf
              have := e.symm.trans hf
              cases this
            · exact e2
          exact hn rs (fun r hr => hall r (List.mem_cons_of_mem _ hr))
        · exact fun r hr => hall r (List.mem_cons_of_mem _ hr)
    refine (this _ hf).trans ?_
    rw [List.length_map, length_natsFrom]

theorem watched_none (s : State) (h : s.here.watch = []) (bs as act) : s.watched bs as act = act s := by
  simp [State.watched, h]

theorem orPending_settled (s : State) (h : s.cur.xportErr = none) (act) : s.orPending [.store] act = act s := by
  simp [State.orPending, State.firstPend, State.pend, h]

theorem dueIf_settled (s : State) (b : Bool) (h : b = true → s.settled) (act) : s.dueIf b act = act s := by
  cases b
  · rfl
  · simp [State.dueIf, orPending_settled s (h rfl).2.2]

theorem owes_settled (s : State) (h : s.settled) : s.owes = false := by
  have h2 : (s.ctx s.curCore s.curCtx).seen = [] := h.2.1
  simp [State.owes, State.owesSeen, h.1, h2]

theorem afterAcks_settled (s : State) (b : Bool) (h : b = true → s.settled) (act) : s.afterAcks b act = act s := by
  cases b
  · rfl
  · simp [State.afterAcks, owes_settled s (h rfl)]

theorem mmioOf_none (s : State) (acc va ls) (h : mmioFlt acc va ls = none) : s.mmioOf acc va ls = .ok none := by
  simp [State.mmioOf, h]

/-- What an access does beside its own reads and writes: what the executing context remembers of early loads and of stores in flight,
the L1, and whether stores of it may repeat. -/
structure Keeps (s t : State) : Prop where
  cur : t.ctx s.curCore s.curCtx = { s.cur with
    early := (t.ctx s.curCore s.curCtx).early, out := (t.ctx s.curCore s.curCtx).out, seen := (t.ctx s.curCore s.curCtx).seen }
  others : s.keepsOthers t
  mem : SameMem s t
  way : SameWay s t

theorem Keeps.refl (s : State) : Keeps s s := ⟨rfl, fun _ _ _ => rfl, .refl s, .refl s⟩

theorem Keeps.trans {s t u : State} (h : Keeps s t) (g : Keeps t u) : Keeps s u := by
  obtain ⟨e1, e2⟩ := h.way.cur
  refine ⟨?_, fun k n hk => ?_, h.mem.trans g.mem, h.way.trans g.way⟩
  · have := g.cur
    rw [e1, e2] at this
    rw [this]
    simp only [State.cur, e1, e2]
    rw [h.cur]
    rfl
  · rw [g.others k n (by rw [e1, e2]; exact hk), h.others k n hk]

theorem Keeps.byteAt {s t : State} (h : Keeps s t) (l : Loc) : t.byteAt l = s.byteAt l := h.mem.byteAt l

theorem Keeps.atOnce {s t : State} (h : Keeps s t) (k : Nat) (l : Loc) : t.atOnce k l = s.atOnce k l := h.way.atOnce k l

theorem keeps_of_ctxs {s t : State} (h : ∀ k n, t.ctx k n = s.ctx k n) (hm : SameMem s t) (hw : SameWay s t) : Keeps s t :=
  ⟨by rw [h]; rfl, fun k n _ => h k n, hm, hw⟩

theorem keeps_setCore (s : State) (k : Nat) (c : Core) (h : c.ctxs = (s.core k).ctxs) : Keeps s (s.setCore k c) := by
  refine keeps_of_ctxs (fun j m => ?_) ⟨rfl, rfl, rfl⟩ (sameWay_setCore _ _ _)
  rw [ctx_setCore]
  split
  · rename_i hj; subst hj; simp [Core.ctx, h, State.ctx]
  · rfl

theorem keeps_modCur (s : State) (f : Ctx → Ctx)
    (h : ∀ c : Ctx, f c = { c with early := (f c).early, out := (f c).out, seen := (f c).seen }) :
    Keeps s (s.modCtx s.curCore s.curCtx f) := by
  rw [modCtx_eq]
  refine ⟨?_, fun k n hk => ?_, ⟨rfl, rfl, rfl⟩, sameWay_setCore _ _ _⟩
  · rw [ctx_setCore, if_pos rfl, ctx_setCtx, if_pos rfl]
    exact h _
  · rw [ctx_setCore]
    split
    · rename_i hj
      subst hj
      rw [ctx_setCtx, if_neg (fun e => hk ⟨rfl, e⟩)]
      rfl
    · rfl

theorem keeps_noRepeat (s : State) (k n : Nat) (keys : Option (List Nat)) : Keeps s (s.noRepeat k n keys) := by
  obtain ⟨rs, h, ha⟩ := noRepeat_cases s k n keys
  refine keeps_of_ctxs (fun j m => by rw [h]; rfl) (by rw [h]; exact ⟨rfl, rfl, rfl⟩) ⟨by rw [h]; exact ⟨_, _, _, _, _, _, _, rfl⟩, ha⟩

theorem keeps_dropEarly (s : State) (keys : List Nat) : Keeps s (s.dropEarly s.curCore s.curCtx keys) := by
  unfold State.dropEarly
  split
  · exact .refl s
  · exact keeps_modCur s _ (fun _ => rfl)

theorem keeps_ownAccess (s : State) (keys : List Nat) : Keeps s (s.ownAccess s.curCore s.curCtx keys) := by
  rw [State.ownAccess]
  exact (keeps_dropEarly s keys).trans (keeps_noRepeat _ _ _ _)

theorem keeps_letOut (s : State) : Keeps s (s.letOut s.curCore s.curCtx) := by
  unfold State.letOut
  simp only []
  refine (keeps_noRepeat s s.curCore s.curCtx none).trans ?_
  generalize hu : s.noRepeat s.curCore s.curCtx none = u
  have hc : u.curCore = s.curCore ∧ u.curCtx = s.curCtx := hu ▸ (keeps_noRepeat s s.curCore s.curCtx none).way.cur
  split
  · exact .refl u
  · rw [← hc.1, ← hc.2]
    exact keeps_modCur u _ (fun _ => rfl)

theorem keeps_fillFor (s : State) (kind ls) : Keeps s (s.fillFor kind ls) := by
  unfold State.fillFor
  split
  · have : ∀ (ls : List Loc) (u : State), Keeps u (ls.foldl (fun s l =>
        if l.cacheable && (s.l1Byte s.curCore s.curCtx l).isNone then s.fillL1D s.curCore s.curCtx l else s) u) := by
      intro ls
      induction ls with
      | nil => exact fun u => .refl u
      | cons l r ih =>
        intro u
        rw [List.foldl_cons]
        refine Keeps.trans ?_ (ih _)
        split
        · exact keeps_setCore _ _ _ rfl
        · exact .refl u
    exact this ls s
  · exact .refl s

theorem keeps_acquireFrom (s : State) (sc : Scope) (lines : Option (List Nat)) : Keeps s (s.acquireFrom s.curCore s.curCtx sc lines) := by
  have hif : ∀ (b : Bool) (u : State) (f : State → State), (∀ v : State, Keeps v (f v)) → Keeps u (if b = true then f u else u) := by
    intro b u f hf
    cases b
    · exact .refl u
    · exact hf u
  have hif' : ∀ (b : Bool) (k n : Nat) (u : State) (f : Ctx → Ctx), u.curCore = k ∧ u.curCtx = n →
      (∀ c : Ctx, f c = { c with early := (f c).early, out := (f c).out, seen := (f c).seen }) →
      Keeps u (if b = true then u else u.modCtx k n f) := by
    rintro b k n u f ⟨rfl, rfl⟩ hf
    cases b
    · exact keeps_modCur u f hf
    · exact .refl u
  unfold State.acquireFrom
  simp only []
  generalize h1 : (if (scopeWide sc && !(s.core s.curCore).l1d.isEmpty) = true then _ else s) = u
  have k1 : Keeps s u := by
    rw [← h1]
    split
    · exact keeps_setCore _ _ _ rfl
    · exact .refl s
  refine k1.trans ?_
  obtain ⟨e1, e2⟩ := k1.way.cur
  generalize h2 : (if (List.map _ _ : List Nat).isEmpty = true then u else _) = v
  have k2 : Keeps u v := by
    rw [← h2]
    exact hif' _ _ _ u _ ⟨e1, e2⟩ (fun _ => rfl)
  refine k2.trans ?_
  obtain ⟨g1, g2⟩ := k2.way.cur
  exact hif' _ _ _ v _ ⟨g1.trans e1, g2.trans e2⟩ (fun _ => rfl)

theorem keeps_acquireOpt (s : State) (sc ls) : Keeps s (s.acquireOpt sc ls) := by
  unfold State.acquireOpt State.acquireOf
  split
  · exact keeps_acquireFrom s _ _
  · exact .refl s

/-- A context whose place of registers and pc moves on. -/
theorem gives_done {s u : State} (h : Keeps s u) (rd : Reg) (v : Word) : s.Gives (u.done rd v) rd v ∧ (u.done rd v).cur.lrRes = s.cur.lrRes := by
  obtain ⟨e1, e2⟩ := h.way.cur
  have hcur : u.cur = { s.cur with early := u.cur.early, out := u.cur.out, seen := u.cur.seen } := by
    have := h.cur
    simpa only [State.cur, e1, e2] using this
  have hp := puts_done u rd v
  have e : (u.done rd v).cur = { u.cur with x := (u.done rd v).cur.x, pc := u.cur.pc + 4, early := (u.done rd v).cur.early } := hp.rest
  have hx : u.rx = s.rx := by
    funext r
    simp only [State.rx]
    rw [hcur]
    rfl
  refine ⟨⟨?_, ?_, ?_, ?_⟩, ?_⟩
  · intro r
    rw [hp.regs r, hx]
  · rw [e]
    simp only []
    rw [hcur]
  · intro k n hk
    rw [hp.only.1, setCtx_eq, ctx_setCore, e1, e2]
    split
    · rename_i hj
      subst hj
      rw [ctx_setCtx]
      split
      · rename_i hn; subst hn; exact absurd ⟨rfl, rfl⟩ hk
      · exact h.others _ _ hk
    · exact h.others k n hk
  · intro a
    have := hp.only.2 a
    rw [this, h.mem.1]
  · rw [e]
    simp only []
    rw [hcur]

/-- A load that the context has performed early gives the bytes it read then. -/
theorem performLoad_early (s : State) (kind : LoadForm) (rd va) (ls : List Loc) (bs : List Byte) (h : s.earlyLoad kind ls = some bs) :
    s.Gives (s.performLoad kind rd va ls) rd (extended kind.signed bs) ∧ (s.performLoad kind rd va ls).cur.lrRes = s.cur.lrRes := by
  unfold State.performLoad
  simp only []
  rw [h]
  exact gives_done (keeps_dropEarly s _) rd _

theorem performLoad_now (s : State) (kind : LoadForm) (hlr : kind.lr = false) (he : s.earlyLoad kind ls = none) (rd va)
   (h : ∀ l ∈ ls, if kind.strong then s.atOnce s.curCore l = true else s.atHand l) :
   s.Gives (s.performLoad kind rd va ls) rd
     (extended kind.signed (ls.map (if kind.cached then s.weakByte s.curCore s.curCtx else s.seenByte s.curCore s.curCtx)))
   ∧ (s.performLoad kind rd va ls).cur.lrRes = s.cur.lrRes := by
  have hnow : ls.all (fun l => if kind.strong then s.atOnce s.curCore l else l.kind = .own || (!s.mode.slow && s.wayOpen s.curCore l)) = true := by
    rw [List.all_eq_true]
    intro l hl
    have := h l hl
    split
    · simpa [*] using this
    · simpa [*, State.atHand] using this
  unfold State.performLoad
  simp only []
  rw [he]
  simp only []
  rw [if_pos (by rw [hnow]; simp)]
  have hown : ∀ b : Bool, Keeps s (if b = true then s else s.ownAccess s.curCore s.curCtx (ls.map (·.key))) := by
    intro b
    cases b
    · exact keeps_ownAccess s _
    · exact .refl s
  have hs := fun b => ((hown b).trans (keeps_fillFor _ kind ls)).trans (keeps_acquireOpt _ kind.acq ls)
  split
  · simp only [State.reserve, hlr]
    exact gives_done (hs _) rd _
  · exact gives_done (hs _) rd _

theorem load_now (s : State) (kind : LoadForm) (acc : Acc) (rel : Bool) (rd : Reg) (va : Word) (len : Nat) (ls : List Loc)
   (hr : s.Reaches acc va len ls) (hacc : acc ≠ .store) (hal : kind.strong = true → va.toNat % len = 0) (hrel : rel = true → s.settled) :
   s.load kind acc rel rd va len = s.performLoad kind rd va ls := by
  unfold State.load
  simp only []
  rw [dueIf_settled s rel hrel, watched_none s hr.unwatched]
  have hclean : s.firstDataError va ls = none := by
    rcases hr.clean with h | h
    · exact absurd h hacc
    · exact h
  have e : (s.andThen (s.xlateRange s.whoCur acc va len) (fun ls =>
      s.andThen (s.mmioOf acc va ls) (fun reg =>
        match reg with
        | some (die, off) =>
          if kind.lr then s.trap cLOAD_ACCESS va
          else if s.regOpen ls then
            (s.acquireOpt kind.acq ls).done rd (extended kind.signed (mmioPart ((s.mmioRead die (off / 8 * 8)).getD 0) off len))
          else s
        | none =>
          match s.firstDataError va ls with
          | some f => s.fault f
          | none => s.afterAcks rel (fun s => s.performLoad kind rd va ls)))) = s.performLoad kind rd va ls := by
    rw [hr.places]
    simp only [State.andThen]
    rw [mmioOf_none s acc va ls hr.noReg]
    simp only []
    rw [hclean]
    simp only []
    exact afterAcks_settled s rel hrel _
  cases hst : kind.strong with
  | false => simp only [Bool.false_eq_true, if_false]; exact e
  | true =>
    simp only [if_true, State.alignedTo]
    rw [if_neg (by simpa using hal hst)]
    exact e

/-- An instruction that writes bytes between two such changes and completes. -/
theorem stores_of_writes {s u v w : State} {bs : List (Loc × Byte)} (hk : Keeps s u) (h : u.Writes v s.curCore s.curCtx bs)
    (hc : v.curCore = s.curCore ∧ v.curCtx = s.curCtx) (hw : s.cur.wait = .none) (hu : Keeps v w) (rd : Reg) (val : Word) :
    s.Stores (w.done rd val) bs rd val := by
  obtain ⟨g1, g2⟩ := gives_done hu rd val
  obtain ⟨e1, e2⟩ := hk.way.cur
  have hcu : u.cur = { s.cur with early := u.cur.early, out := u.cur.out, seen := u.cur.seen } := by
    have := hk.cur
    simpa only [State.cur, e1, e2] using this
  have hsee : u.cur.SeesWrite v.cur := by
    have := h.ctxs s.curCore s.curCtx
    simpa [State.cur, hc.1, hc.2, e1, e2] using this
  have hlight : v.cur = { u.cur with lrRes := v.cur.lrRes, event := v.cur.event, early := v.cur.early } := by
    rcases hsee.2 with e | ⟨_, _, _, e, _⟩
    · exact e
    · rw [hcu, hw] at e; cases e
  have hx : ∀ r, v.rx r = s.rx r := by
    intro r
    simp only [State.rx]
    rw [hlight, hcu]
    rfl
  have hb : ∀ l, (w.done rd val).byteAt l = v.byteAt l := by
    intro l
    rw [← hu.byteAt]
    rfl
  have hkey : ∀ n, u.keyOf n = s.keyOf n := fun n => by simp only [State.keyOf, hk.mem.2.1]
  have hnow : ∀ n, u.keyNow n = s.keyNow n := fun n => by simp only [State.keyNow, hk.mem.2.2]
  refine ⟨?_, ?_, ?_, ?_, ?_, ?_, ?_⟩
  · intro ha b hb'
    rw [hb]; exact h.bytes ha b hb'
  · intro l hl
    rw [hb, h.far l hl, hk.byteAt]
  · intro ha a hna
    have := h.near (fun b hb => by rw [hkey, hnow]; exact ha b hb) a hna
    rw [g1.mem a, this, hk.mem.1]
  · intro k n hkn
    rw [g1.others k n (by rw [hc.1, hc.2]; exact hkn), ← hk.others k n hkn]
    exact h.ctxs k n
  · intro k n hkn
    rw [g1.others k n (by rw [hc.1, hc.2]; exact hkn)]
    exact h.broken k n hkn
  · intro r
    rw [g1.regs r]
    simp [hx]
  · have := g1.rest
    rw [this, hlight, hcu]

theorem done_zero (u : State) : u.done 0 0 = u.complete := by simp [Ctx.wx]

theorem store_now (s : State) (strong rel : Bool) (va : Word) (bs : List Byte) (ls : List Loc)
    (hr : s.Reaches .store va bs.length ls) (hat : ∀ l ∈ ls, s.atOnce s.curCore l = true) (hw : s.cur.wait = .none)
    (hal : strong = true → va.toNat % bs.length = 0) (hrel : rel = true → s.settled) :
    s.Stores (s.store strong rel va bs) (ls.zip bs) 0 0 := by
  let fin (s : State) : State :=
    if !strong then (s.storeLocs s.curCore s.curCtx va (ls.zip bs)).complete
    else
      let s := s.letOut s.curCore s.curCtx
      if ls.all (s.atOnce s.curCore) then (s.perform s.curCore s.curCtx (ls.zip bs)).complete
      else s.askHome va ls (.store ((ls.map (·.key)).zip bs) true) none
  have e : s.store strong rel va bs = fin s := by
    unfold State.store
    simp only []
    rw [dueIf_settled s rel hrel, watched_none s hr.unwatched]
    have e : (s.andThen (s.xlateRange s.whoCur .store va bs.length) (fun ls =>
      s.andThen (s.mmioOf .store va ls) (fun reg =>
        s.afterAcks rel (fun s =>
          match reg with
          | some (die, off) =>
            if s.regOpen ls then
              (s.mmioStore (.context s.curCore s.curCtx) die off (bs.length = 8) (BitVec.ofNat 64 (leNat bs))).complete
            else s
          | none =>
            if !strong then (s.storeLocs s.curCore s.curCtx va (ls.zip bs)).complete
            else
              let s := s.letOut s.curCore s.curCtx
              if ls.all (s.atOnce s.curCore) then (s.perform s.curCore s.curCtx (ls.zip bs)).complete
              else s.askHome va ls (.store ((ls.map (·.key)).zip bs) true) none)))) = fin s := by
      rw [hr.places]
      simp only [State.andThen]
      rw [mmioOf_none s .store va ls hr.noReg]
      simp only []
      exact afterAcks_settled s rel hrel _
    cases strong with
    | false => simp only [Bool.false_eq_true, if_false]; exact e
    | true =>
      simp only [if_true, State.alignedTo]
      rw [if_neg (by simpa using hal rfl)]
      exact e
  rw [e]
  cases strong with
  | false =>
    obtain ⟨hw', hsw⟩ := writes_storeLocs s s.curCore s.curCtx va (ls.zip bs) (fun b hb => hat b.1 (List.of_mem_zip hb).1)
    have := stores_of_writes (.refl s) hw' hsw.cur hw (.refl _) 0 0
    rw [done_zero] at this
    exact this
  | true =>
    have hk := keeps_letOut s
    have hcur := hk.way.cur
    have hall : ls.all ((s.letOut s.curCore s.curCtx).atOnce (s.letOut s.curCore s.curCtx).curCore) = true := by
      rw [List.all_eq_true]
      intro l hl
      rw [hk.atOnce, hcur.1]
      exact hat l hl
    have hp := sameWay_perform (s.letOut s.curCore s.curCtx) s.curCore s.curCtx (ls.zip bs)
    have hc := hp.cur
    have := stores_of_writes hk (writes_perform (s.letOut s.curCore s.curCtx) s.curCore s.curCtx (ls.zip bs))
      ⟨hc.1.trans hcur.1, hc.2.trans hcur.2⟩ hw (.refl _) 0 0
    rw [done_zero] at this
    show s.Stores (if ls.all _ = true then _ else _) _ _ _
    rw [if_pos hall, hcur.1, hcur.2]
    exact this

theorem atomic_now (s : State) (rel : Bool) (va : Word) (len : Nat) (ls : List Loc) (act)
    (hr : s.Reaches .rmw va len ls) (hal : va.toNat % len = 0) (hrel : rel = true → s.settled) :
    s.atomic rel va len act = act ls (s.ownAccess s.curCore s.curCtx (ls.map (·.key))) := by
  have hclean : s.firstDataError va ls = none := by
    rcases hr.clean with h | h
    · cases h
    · exact h
  unfold State.atomic
  rw [dueIf_settled s rel hrel, watched_none s hr.unwatched]
  simp only [State.alignedTo]
  rw [if_neg (by simpa using hal), hr.places]
  simp only [State.andThen]
  rw [hr.noReg]
  simp only []
  rw [hclean]
  exact afterAcks_settled s rel hrel _

theorem writes_nil (s : State) (k n : Nat) : s.Writes s k n [] :=
  ⟨fun _ _ h => (by cases h), fun _ _ => rfl, fun _ _ _ => rfl, fun _ _ => .refl _, fun _ _ _ _ h => (by cases h), rfl⟩

theorem amo_now (s : State) (op : AmoOp) (dbl : Bool) (acq : Option Scope) (rel rd) (va b e : Word) (ls : List Loc)
    (hr : s.Reaches .rmw va (if dbl then 8 else 4) ls) (hal : va.toNat % (if dbl then 8 else 4) = 0) (hrel : rel = true → s.settled)
    (hat : ∀ l ∈ ls, s.atOnce s.curCore l = true) (hw : s.cur.wait = .none) :
    let r := amoStep op dbl (ls.map s.byteAt) b e
    s.Stores (s.amo op dbl acq rel rd va b e) (if r.2.2 then ls.zip r.1 else []) rd r.2.1 := by
  intro r
  unfold State.amo
  rw [atomic_now s rel va _ ls _ hr hal hrel]
  simp only []
  generalize hu : (if acq.isSome = true then
    (s.ownAccess s.curCore s.curCtx (ls.map (·.key))).letOut (s.ownAccess s.curCore s.curCtx (ls.map (·.key))).curCore
      (s.ownAccess s.curCore s.curCtx (ls.map (·.key))).curCtx else s.ownAccess s.curCore s.curCtx (ls.map (·.key))) = u
  have hk : Keeps s u := by
    rw [← hu]
    split
    · exact (keeps_ownAccess s _).trans (keeps_letOut _)
    · exact keeps_ownAccess s _
  obtain ⟨e1, e2⟩ := hk.way.cur
  rw [if_pos (List.all_eq_true.2 (fun l hl => by rw [hk.atOnce, e1]; exact hat l hl))]
  have hb : ls.map u.byteAt = ls.map s.byteAt := List.map_congr_left (fun l _ => hk.byteAt l)
  unfold State.amoAt
  simp only [hb, e1, e2]
  split
  · have hc := (sameWay_perform u s.curCore s.curCtx (ls.zip r.1)).cur
    exact stores_of_writes hk (writes_perform u _ _ _) ⟨hc.1.trans e1, hc.2.trans e2⟩ hw (keeps_acquireOpt _ _ _) rd _
  · exact stores_of_writes hk (writes_nil u _ _) ⟨e1, e2⟩ hw (keeps_acquireOpt _ _ _) rd _

/-! Ranges of the local window (R216). -/

theorem bits_high (va : Word) (hi lo : Nat) (h : va.toNat < 2 ^ lo) : bits va hi lo = 0 := by
  unfold bits
  simp [Nat.div_eq_of_lt h]

/-- A byte of the local window is its own place, at any address below 64 KiB. -/
theorem xlate_window (s : State) (w : Who) {acc : Acc} (h : acc ≠ .fetch) {va : Word} (hv : va.toNat < 65536) :
    s.xlate w acc va = .ok { kind := .own, key := lmemKey w.core va.toNat, die := dieOf w.core, clu := cluKey w.core, keyid := 0 } := by
  have c : canonical va = true := by simp [canonical, bits_high va 63 56 (by omega)]
  have i : inWindow va = true := by simp [inWindow, bits_high va 63 16 (by omega)]
  unfold State.xlate
  simp only [c, i, Bool.not_true, Bool.false_eq_true, if_false, if_true]

theorem natsFrom_add (lo off n : Nat) : (natsFrom lo n).map (fun i => off + i) = natsFrom (off + lo) n := by
  induction n generalizing lo with
  | zero => rfl
  | succ n ih => simp [natsFrom, ih, Nat.add_assoc]

theorem firstFlt_ok (ls : List Loc) : firstFlt (ls.map Except.ok) = none := by
  induction ls with
  | nil => rfl
  | cons a l ih => exact ih

/-- A range of the local window is its own places, in order. -/
theorem xlateRange_window (s : State) (w : Who) {acc : Acc} (h : acc ≠ .fetch) {va : Word} {len : Nat} (hv : va.toNat + len ≤ 65536) :
    s.xlateRange w acc va len = .ok ((natsFrom va.toNat len).map (fun o =>
      { kind := .own, key := lmemKey w.core o, die := dieOf w.core, clu := cluKey w.core, keyid := 0 })) := by
  have e : (natsFrom 0 len).map (fun i => s.xlate w acc (va + BitVec.ofNat 64 i)) = ((natsFrom va.toNat len).map (fun o =>
      ({ kind := .own, key := lmemKey w.core o, die := dieOf w.core, clu := cluKey w.core, keyid := 0 } : Loc))).map Except.ok := by
    rw [show natsFrom va.toNat len = natsFrom (va.toNat + 0) len from rfl, ← natsFrom_add 0 va.toNat len, List.map_map, List.map_map]
    apply List.map_congr_left
    intro i hi
    obtain ⟨-, hi⟩ := mem_natsFrom.1 hi
    have n : (va + BitVec.ofNat 64 i).toNat = va.toNat + i := by
      simp [BitVec.toNat_add]; omega
    rw [xlate_window s w h (by omega), n]
    rfl
  unfold State.xlateRange
  simp only [e, firstFlt_ok]
  simp [List.filterMap_map, Function.comp_def]

theorem mmioFlt_window (acc : Acc) (va : Word) (os : List Nat) (k d c : Nat) :
    mmioFlt acc va (os.map (fun o => { kind := .own, key := lmemKey k o, die := d, clu := c, keyid := 0 })) = none := by
  unfold mmioFlt
  rw [List.findIdx?_eq_none_iff.2 (by simp)]

/-- So it is for a store, and for a read that meets no parity error. -/
theorem places_window (s : State) (w : Who) {acc : Acc} (h : acc ≠ .fetch) {va : Word} {len : Nat} (hv : va.toNat + len ≤ 65536)
    (p : s.badParity = []) : s.places w acc va len = .ok ((natsFrom va.toNat len).map (fun o =>
      { kind := .own, key := lmemKey w.core o, die := dieOf w.core, clu := cluKey w.core, keyid := 0 })) := by
  have d : ∀ (os : List Nat) (v : Word), s.firstDataError v (os.map (fun o =>
      { kind := .own, key := lmemKey w.core o, die := dieOf w.core, clu := cluKey w.core, keyid := 0 })) = none := by
    intro os
    induction os with
    | nil => intro v; rfl
    | cons o os ih => intro v; simp [State.firstDataError, State.dataError, p, ih]
  unfold State.places State.spots
  rw [xlateRange_window s w h hv]
  simp only [mmioFlt_window, d]
  cases acc <;> rfl

end Sys2Proof.Machine
end

