-- ==== Sys2Proof/Tests/Slice0.lean ====
section
/-! SUPPORT. Tests. Ill-formed terms that the well-formedness check refuses; words written out from the encoding tables of
chapter 03 and the worked words of the manual, which decode to the instructions they stand for; single steps whose results come
from the manual's rules; and, for the statements that have hypotheses, concrete states and operands that meet them. -/

set_option linter.unusedVariables false
set_option Elab.async false
namespace Sys2Proof.Tests
open Sys2Proof.Machine

/-! Small states: chiplet 0 is ACTIVE at NOMINAL and context 0 of core 0 a supervisor strand at 0x10000. -/

/-- The executing context of the small state. -/
def ctx0 : Ctx := { Ctx.empty with st := .strand, prior := .strand, super := true, pc := 0x10000 }

/-- Its core. -/
def core0 : Core := { Core.reset with ctxs := [(0, ctx0)] }

def small : State := { State.reset with
  cores := [(0, core0)], trust := { Trust.reset with dies := [(0, { Die.reset with state := .active, op := 1 })] } }

/-- The small state with another executing context, or another core. -/
def withCtx (f : Ctx → Ctx) : State := { small with cores := [(0, { core0 with ctxs := [(0, f ctx0)] })] }
def withCore (f : Core → Core) : State := { small with cores := [(0, f core0)] }

/-- The small state with values in registers. -/
def at_ (l : Tbl Word) : State := withCtx (fun c => { c with x := l })

/-- A page of the local memory controller's DRAM at 0x10000, with every right. -/
def page : TlbEntry :=
  { keyid := 0, frame := 512 * 2 ^ 34, sset := 0, vpn := 1, size := 0, vis := 7, r := true, w := true, x := true, u := true,
    t := false, p := true, members := [] }

/-- The executing core with that page, or another entry, and values in registers. -/
def mapped (e : TlbEntry) (l : Tbl Word) : State :=
  withCore (fun c => { c with ctxs := [(0, { ctx0 with x := l })], tlb := [(0, e)] })

/-- The places of bytes of core 0's own local memory. -/
def own (off len : Nat) : List Loc :=
  (natsFrom off len).map (fun o => { kind := .own, key := lmemKey 0 o, die := 0, clu := 0, keyid := 0 })

/-- The executing context in a firing, or at user level. -/
def firing : State := withCtx (fun c => { c with st := .firing })
def user : State := withCtx (fun c => { c with super := false })

/-- What an instruction leaves. -/
def after (i : Instr) (s : State) : State :=
  match exec i s with
  | .next t => t
  | _ => s

/-- Bytes of that page, and the state in which accesses to it travel. -/
def dram (off len : Nat) : List Loc :=
  (natsFrom off len).map (fun o => { kind := .dram, key := 512 * 2 ^ 46 + o, die := 0, clu := 0, keyid := 0 })
def remote : State := { mapped page [(1, 0x10000)] with mode := { slow := true, fill := false, split := false } }

/-! Well-formedness: one ill-formed term for each check (R73, R75, R80, R108). -/

/-- R75: a binary instruction may not read vout (31), write vin (30), or hold a port. -/
theorem test_wf_binary : Instr.wf (.vadd { msel := .none, h2 := false, h1 := false, vs2 := 2, vs1 := 31, vd := 4 }) = false ∧
    Instr.wf (.vand { msel := .none, h2 := false, h1 := false, vs2 := 31, vs1 := 1, vd := 4 }) = false ∧
    Instr.wf (.vsll { msel := .none, h2 := false, h1 := false, vs2 := 2, vs1 := 1, vd := 30 }) = false ∧
    Instr.wf (.vmul { msel := .none, h2 := false, h1 := true, vs2 := 2, vs1 := 30, vd := 4 }) = false ∧
    Instr.wf (.vmul { msel := .none, h2 := true, h1 := false, vs2 := 30, vs1 := 1, vd := 4 }) = false ∧
    Instr.wf (.vmul { msel := .none, h2 := true, h1 := true, vs2 := 29, vs1 := 1, vd := 31 }) = true := by decide

/-- R75: where vd is also read it names neither port. -/
theorem test_wf_accumulate : Instr.wf (.vfma { msel := .none, h2 := false, h1 := false, vs2 := 2, vs1 := 1, vd := 31 }) = false ∧
    Instr.wf (.vbfi { msel := .none, h2 := false, h1 := false, vs2 := 2, vs1 := 1, vd := 30 }) = false ∧
    Instr.wf (.vfsl { msel := .none, h2 := false, h1 := false, vs2 := 31, vs1 := 1, vd := 3 }) = false := by decide

/-- R75: select needs a mask. -/
theorem test_wf_select : Instr.wf (.vsel { msel := .none, h2 := false, h1 := false, vs2 := 2, vs1 := 1, vd := 3 }) = false ∧
    Instr.wf (.vsel { msel := .m1, h2 := false, h1 := false, vs2 := 2, vs1 := 1, vd := 3 }) = true := by decide

/-- R75: the unary, slide, compare and iota classes. -/
theorem test_wf_unary : Instr.wf (.vabs { msel := .none, h1 := true, vs1 := 30, vd := 3 }) = false ∧
    Instr.wf (.vredmaxG .g2 { msel := .none, h1 := false, vs1 := 31, vd := 3 }) = false ∧
    Instr.wf (.vslide { msel := .none, imm := 1, h1 := false, vs1 := 1, vd := 30 }) = false ∧
    Instr.wf (.vcmpeq { msel := .none, h2 := false, h1 := false, vs2 := 31, vs1 := 1, md := 3 }) = false ∧
    Instr.wf (.viota .none 30) = false := by decide

/-- R75, R81: a type code above 12 is reserved. -/
theorem test_wf_type : Instr.wf (.vcvt 13 { msel := .none, h1 := false, vs1 := 6, vd := 5 }) = false ∧
    Instr.wf (.vcvt 12 { msel := .none, h1 := false, vs1 := 6, vd := 5 }) = true := by decide

/-- R79: loads write, and stores and moves read, as a field that is only written or only read may; vmvsx names a register. -/
theorem test_wf_memory : Instr.wf (.vld 30 1 0) = false ∧ Instr.wf (.vst 31 1 0) = false ∧ Instr.wf (.vldu 30 1) = false ∧
    Instr.wf (.vstu 31 1 0) = false ∧ Instr.wf (.vldx 30 1 1) = false ∧ Instr.wf (.vldx 3 31 1) = false ∧
    Instr.wf (.vstx 31 1 1) = false ∧ Instr.wf (.vstx 1 31 1) = false ∧ Instr.wf (.vacc 30 0 1) = false ∧
    Instr.wf (.vmvxs 1 31 2) = false ∧ Instr.wf (.vmvsx 30 1 2) = false := by decide

/-- R80: the register form of vsett names a register; R108: PAUSE and FENCE.TSO are not also a FENCE. -/
theorem test_wf_names : Instr.wf (.vsettReg 5 0) = false ∧ Instr.wf (.fence 0 1 0 0 0) = false ∧ Instr.wf (.fence 8 3 3 1 2) = false ∧
    Instr.wf (.fence 0 1 1 0 0) = true := by decide

/-- Rows that share a word: the second reading of a word is not the one that decodes. -/
theorem test_wf_shared : Instr.sharesWord (.tlbinvAll 1 2) = true ∧ Instr.sharesWord (.tlbinvGranule 1 2) = false := by decide

/-! Words, bit by bit. -/

/-- R106, R107: the base forms I, S, B, U, J and R. -/
theorem test_word_base :
    decode 0b111111111000_00010_011_01010_0000011 = (.rvLoad .ld 10 2 0xFF8) ∧
    decode 0b0000000_01011_00010_010_01100_0100011 = (.rvStore .sw 11 2 12) ∧
    decode 0b0_000000_00010_00001_000_0100_0_1100011 = (.rvBranchJump (.branch .eq 1 2 4)) ∧
    decode 0b1_000000_00010_00001_111_0100_1_1100011 = (.rvBranchJump (.branch .geu 1 2 0xC04)) ∧
    decode 0b0_0000000100_0_00000001_00001_1101111 = (.rvBranchJump (.jal 1 0x00804)) ∧
    decode 0b000000000100_00001_000_00000_1100111 = (.rvBranchJump (.jalr 0 1 4)) ∧
    decode 0x123452B7 = (.rvIntegerOp (.lui 5 0x12345)) ∧
    decode 0b0100000_00011_00010_000_00001_0110011 = (.rvIntegerOp (.reg .sub 1 2 3)) ∧
    decode 0b0000001_00011_00010_000_00001_0110011 = (.rvIntegerOp (.reg .mul 1 2 3)) := by decide

/-- R106: Zba, Zbb, Zbs and Zicond. -/
theorem test_word_extensions :
    decode 0b0010000_00011_00010_010_00001_0110011 = (.rvIntegerOp (.reg .sh1add 1 2 3)) ∧
    decode 0b0110000_00000_00010_001_00001_0010011 = (.rvIntegerOp (.un .clz 1 2)) ∧
    decode 0b011010111000_00010_101_00001_0010011 = (.rvIntegerOp (.un .rev8 1 2)) ∧
    decode 0b0010100_00011_00010_001_00001_0110011 = (.rvIntegerOp (.reg .bset 1 2 3)) ∧
    decode 0b0000111_00011_00010_101_00001_0110011 = (.rvIntegerOp (.reg .czeroEqz 1 2 3)) := by decide

/-- R106, R108, R110, R111, R123: fences, atomics, system and CSR words. -/
theorem test_word_system :
    decode 0b0000_0011_0011_00000_000_00000_0001111 = (.fence 0 3 3 0 0) ∧ decode 0x8330000F = (.fenceTso 0 0) ∧
    decode 0x0100000F = .pause ∧ decode 0x0000100F = (.fenceI 0 0 0) ∧ decode 0x00000073 = .ecall ∧
    decode 0x00100073 = .ebreak ∧ decode 0x10500073 = .wfi ∧
    decode 0b00010_1_0_00000_00010_011_00001_0101111 = (.lr true true false 1 2) ∧
    decode 0b00011_0_1_00011_00010_010_00001_0101111 = (.sc false false true 1 2 3) ∧
    decode 0b11000_1_1_00011_00010_011_00001_0101111 = (.rvAmo .minu true true true 1 2 3) ∧
    decode 0b100000000001_00010_001_00001_1110011 = (.csrrw 1 (.reg 2) 0x801) ∧
    decode 0b010111000001_00011_111_00001_1110011 = (.csrrc 1 (.imm 3) 0x5C1) := by decide

/-- The manual's own words: wide atomic and load, monitor, fence, bit fields, vector moves and a group reduction. -/
theorem test_word_manual :
    decode 0x9024B52B = (.lqAq .chp .d 10 9 2) ∧ decode 0xC2B6252B = (.amoqAdd .chp true 10 12 11) ∧
    decode 0xF200302B = (.fenceq .mod) ∧ decode 0xC005D02B = (.monarm 11) ∧
    decode 0x00C5A50B = (.bfx 10 11 12) ∧ decode 0x02C5A50B = (.bfxu 10 11 12) ∧
    decode 0x8044B25B = (.vredmaxG .g32 { msel := .none, h1 := false, vs1 := 9, vd := 4 }) ∧
    decode 0x0A01A5FB = (.vmvxs 11 3 0) := by decide

/-- The manual's own words for contexts and translation. -/
theorem test_word_privileged :
    decode 0x00B5407B = (.csave 10 11) ∧ decode 0x02B5407B = (.crest 10 11) ∧
    decode 0x0405407B = (.cresume 10) ∧ decode 0x0605407B = (.ckill 10) ∧
    decode 0x0800407B = .yield ∧ decode 0x0A05407B = (.sleep 10) ∧ decode 0x0C00407B = .tret ∧
    decode 0x1000407B = .retire ∧ decode 0x1200407B = .gyield ∧
    decode 0x40B5407B = (.tlbwWrite 10 11) ∧ decode 0x42B5407B = (.tlbinvGranule 10 11) ∧
    decode 0x44C5C57B = (.tlbprobe 10 11 12) ∧ decode 0x46C5C57B = (.lpin 10 11 12) ∧
    decode 0x48C5C57B = (.lunpin 10 11 12) ∧ decode 0x4AC5C57B = (.carve 10 11 12) ∧
    decode 0x4C05C57B = (.uncarve 10 11) ∧ decode 0x4EC5C57B = (.shootOnly 10 11 12) := by decide

/-- Bytes lie low first, and what is placed for the next fetch is what the step runs (R65). -/
theorem test_table_word : decodeTableWord 32 0x00B5407B = some (.csave 10 11) ∧ decodeTableWord 64 0 = none ∧
    decodeBytes [0x7B, 0x40, 0xB5, 0x00] = some (.csave 10 11) := by decide

/-! Scalar instructions: single steps and witnesses. -/

/-- R106: addition wraps; x0 stays zero; the quotient by zero. -/
theorem test_add_wraps : (after (.rvIntegerOp (.reg .add 3 1 2)) (at_ [(1, 0xFFFFFFFFFFFFFFFF), (2, 1)])).rx 3 = 0 ∧
    (after (.rvIntegerOp (.imm .addi 0 1 5)) (at_ [(1, 7)])).rx 0 = 0 ∧
    (after (.rvIntegerOp (.reg .div 3 1 2)) (at_ [(1, 7)])).rx 3 = 0xFFFFFFFFFFFFFFFF := by decide

/-- R107: SD stores low byte first and moves the pc by 4. -/
theorem test_store_order : let t := after (.rvStore .sd 2 0 8) (at_ [(2, 0x1122334455667788)])
    Memory.bytes t.mem (lmemKey 0 8) 8 = [0x88, 0x77, 0x66, 0x55, 0x44, 0x33, 0x22, 0x11] ∧ t.cur.pc = 0x10004 := by decide

/-- R107: LB extends the sign of what SB stored. -/
theorem test_load_sign : (after (.rvLoad .lb 5 0 16) (after (.rvStore .sb 2 0 16) (at_ [(2, 0x80)]))).rx 5 = 0xFFFFFFFFFFFFFF80 := by
  decide

/-- R251, R252: ECALL records its own address and the address after it. -/
theorem test_ecall : let t := after .ecall (at_ [])
    t.cur.st = .trapped ∧ t.cur.ecause = 0x0F ∧ t.cur.epc = 0x10004 ∧ t.cur.eaddr = 0x10000 := by decide

/-- R252: a jump to an address that is no multiple of 4 traps at the jump. -/
theorem test_misaligned_jump : let t := after (.rvBranchJump (.jalr 1 2 0)) (at_ [(2, 0x20002)])
    t.cur.st = .trapped ∧ t.cur.ecause = 5 ∧ t.cur.eaddr = 0x20002 ∧ t.cur.epc = 0x10000 ∧ t.rx 1 = 0 := by decide

/-- R113, R114: a field at the top of the register is cut at bit 63, and its top bit is the sign. -/
theorem test_bit_fields : (after (.bfx 3 1 2) (at_ [(1, 0x8000000000000000), (2, 0x083C)])).rx 3 = 0xFFFFFFFFFFFFFFF8 ∧
    (after (.bfxu 3 1 2) (at_ [(1, 0x8000000000000000), (2, 0x083C)])).rx 3 = 8 := by decide

/-- R118: an AMO gives the old value and stores the sum. -/
theorem test_amo : let t := after (.rvAmo .add true false false 3 1 2) (after (.rvStore .sd 2 1 0) (at_ [(1, 64), (2, 5)]))
    t.rx 3 = 5 ∧ Memory.bytes t.mem (lmemKey 0 64) 8 = [10, 0, 0, 0, 0, 0, 0, 0] := by decide

/-- R110: SC stores after LR and not again. -/
theorem test_sc : let s := after (.lr true false false 3 1) (at_ [(1, 64), (2, 5)])
    let t := after (.sc true false false 4 1 2) s
    t.rx 4 = 0 ∧ Memory.byte (lmemKey 0 64) t.mem = 5 ∧ (after (.sc true false false 4 1 2) t).rx 4 = 1 := by decide

theorem witness_ControlTransfer :
    (¬BrCond.means .lt ((at_ [(1, 1)]).rx 1) ((at_ [(1, 1)]).rx 0)) ∧ BrCond.means .ltu ((at_ [(1, 1)]).rx 0) ((at_ [(1, 1)]).rx 1) ∧
    (small.cur.pc + ((2 : BitVec 12) ++ 0#1).signExtend 64).toNat % 4 = 0 ∧
    (small.cur.pc + ((1 : BitVec 12) ++ 0#1).signExtend 64).toNat % 4 = 2 := by
  refine ⟨?_, ?_, by decide, by decide⟩ <;> simp only [BrCond.means] <;> decide

theorem witness_TrapAddresses : let s := at_ [(1, 2)]
    s.cur.pc.toNat % 4 = 0 ∧ ((s.rx 1 + (0 : BitVec 12).signExtend 64) &&& ~~~1).toNat % 4 ≠ 0 ∧
    (s.cur.pc + ((0x7FF : BitVec 20) ++ 0#1).signExtend 64).toNat % 4 ≠ 0 ∧ BrCond.means .eq (s.rx 2) (s.rx 3) ∧
    (s.cur.pc + ((0xFFF : BitVec 12) ++ 0#1).signExtend 64).toNat % 4 ≠ 0 := by
  and_intros <;> first | decide | rfl

theorem witness_CsrReads : CsrSrc.writes (.reg 0) = false ∧ CsrSrc.writes (.imm 0) = false ∧ small.csr 0 0 0xCC5 = some (0x101 : Word) ∧
    (small.ctx 0 0).hprio < 4 ∧ isService 16 = true ∧ isCompute 15 = true ∧ (0xCC7 : Nat) ∉ csrNumbers := by decide

theorem witness_CsrWrites :
    (small.csr 0 0 0x800 = some 9 ∧ ((0x4C : Word) &&& 15 < 13 ∧ (0x4C : Word) >>> 4 &&& 7 < 5 ∧ (0x4C : Word) >>> 8 = 0)) ∧
    (small.csr 0 0 0x5C7 = some 0 ∧ small.cur.super = true ∧ CsrSrc.writes (.imm 1) = true) ∧
    (0x5C8 : Nat) ∉ csrNumbers ∧ (user.cur.super = false ∧ (0x5C0 : Nat) ∈ csrNumbers) ∧ (0xF14 : Nat) ∈ csrNumbers ∧
    (13 ≤ (at_ [(1, 13)]).csrSrc (.reg 1) &&& 15 ∧ 5 ≤ (at_ [(1, 0x50)]).csrSrc (.reg 1) >>> 4 &&& 7 ∧
      (at_ [(1, 0x100)]).csrSrc (.reg 1) >>> 8 ≠ 0) := by decide

theorem reaches_own (s : State) (acc : Acc) (va : Word) (len : Nat) (ls : List Loc) (w : s.here.watch = [])
    (p : s.xlateRange s.whoCur acc va len = .ok ls) (m : mmioFlt acc va ls = none) (d : s.firstDataError va ls = none) :
    s.Reaches acc va len ls := ⟨w, p, m, .inr d⟩

/-- The small state with the first byte of the local window read early for a load with base x1. -/
def readEarly : State := withCtx (fun c => { c with early := [{ base := some 1, key := lmemKey 0 0, byte := 7, since := [] }] })

theorem witness_Loads :
    (small.Reaches .load (small.rx 1 + (0x7F8 : BitVec 12).signExtend 64) 8 (own 0x7F8 8) ∧ (∀ l ∈ own 0x7F8 8, small.atHand l) ∧
      (own 0x7F8 8).mapM (fun l => small.earlyByte small.curCore small.curCtx (some 1) l.key) = none) ∧
    (readEarly.Reaches .load (readEarly.rx 1) 1 (own 0 1) ∧
      (own 0 1).mapM (fun l => readEarly.earlyByte readEarly.curCore readEarly.curCtx (some 1) l.key) = some [7]) ∧
    (remote.Reaches .load (remote.rx 1) 8 (dram 0 8) ∧
      (∃ l ∈ dram 0 8, ¬remote.atHand l ∧ remote.l1Byte remote.curCore remote.curCtx l = none) ∧ oneHome (dram 0 8) = true ∧
      remote.cur.early = []) ∧
    (small.Reaches .load (qAddr (small.rx 1) 63 .d) 8 (own 504 8) ∧ (qAddr (small.rx 1) 63 .d).toNat % QSize.bytes .d = 0 ∧
      ∀ l ∈ own 504 8, small.atOnce small.curCore l = true) ∧
    (small.Reaches .lr (small.rx 1) 4 (own 0 4) ∧ (small.rx 1).toNat % 4 = 0 ∧ small.settled ∧
      ∀ l ∈ own 0 4, small.atOnce small.curCore l = true) ∧
    ((at_ [(1, 65528)]).rx 1).toNat + 8 ≤ 65536 ∧ small.here.l1d = [] ∧ small.badParity = [] ∧ small.cur.early = [] ∧ small.reqs = [] := by
  refine ⟨⟨reaches_own _ _ _ _ _ rfl rfl rfl rfl, ?_, ?_⟩, ⟨reaches_own _ _ _ _ _ rfl rfl rfl rfl, ?_⟩,
    ⟨reaches_own _ _ _ _ _ rfl rfl rfl rfl, ⟨_, .head _, ?_, ?_⟩, ?_, rfl⟩,
    ⟨reaches_own _ _ _ _ _ rfl rfl rfl rfl, ?_, ?_⟩, ⟨reaches_own _ _ _ _ _ rfl rfl rfl rfl, ?_, ⟨rfl, rfl, rfl⟩, ?_⟩, ?_, rfl, rfl, rfl, rfl⟩
  all_goals first | decide | rfl | (simp only [State.atHand]; decide)

theorem witness_StoresPutBytes :
    (small.cur.wait = .none ∧ (∀ l ∈ own 0x7F8 8, small.atOnce small.curCore l = true) ∧
      small.Reaches .store (small.rx 1 + (0x7F8 : BitVec 12).signExtend 64) (StoreKind.bytes .sd) (own 0x7F8 8)) ∧
    (small.Reaches .store (qAddr (small.rx 1) 63 .d) (QSize.bytes .d) (own 504 8) ∧
      (qAddr (small.rx 1) 63 .d).toNat % QSize.bytes .d = 0) ∧ small.settled := by
  refine ⟨⟨rfl, ?_, reaches_own _ _ _ _ _ rfl rfl rfl rfl⟩, ⟨reaches_own _ _ _ _ _ rfl rfl rfl rfl, ?_⟩, ⟨rfl, rfl, rfl⟩⟩
  all_goals decide

theorem witness_Atomics : let s := at_ [(1, 65528)]
    s.cur.wait = .none ∧ (∀ l ∈ own 65528 8, s.atOnce s.curCore l = true) ∧ s.Reaches .rmw (s.rx 1) 8 (own 65528 8) ∧
    (s.rx 1).toNat % 8 = 0 ∧ s.settled := by
  refine ⟨rfl, ?_, reaches_own _ _ _ _ _ rfl rfl rfl rfl, ?_, ⟨rfl, rfl, rfl⟩⟩
  all_goals decide

/-! Access faults, translation, fences and waits. -/

theorem witness_AccessTraps : let s := at_ [(1, 65535)]
    (s.here.watch = [] ∧ s.settled ∧ (qAddr (s.rx 1) 0 .d).toNat % QSize.bytes .d ≠ 0 ∧ (s.rx 1).toNat % 4 ≠ 0) ∧
    s.xlateRange s.whoCur .load (s.rx 1 + (0 : BitVec 12).signExtend 64) 8 = .error { cause := 8, addr := 65536, info := 0 } ∧
    s.xlateRange s.whoCur .store (s.rx 1 + (0 : BitVec 12).signExtend 64) 8 = .error { cause := 9, addr := 65536, info := 2 } ∧
    ((at_ [(1, 65536)]).rx 1).toNat % 8 = 0 ∧
    (at_ [(1, 65536)]).xlateRange (at_ [(1, 65536)]).whoCur .rmw 65536 8 = .error { cause := 9, addr := 65536, info := 6 } := by
  refine ⟨⟨rfl, ⟨rfl, rfl, rfl⟩, ?_, ?_⟩, rfl, rfl, ?_, rfl⟩
  all_goals decide

theorem witness_TranslationOfOneByte : let w : Who := small.whoCur
    ((0x0100000000000000 : Word).toInt ≥ 2 ^ 56 ∧ (0xFEFFFFFFFFFFFFFF : Word).toInt < -2 ^ 56) ∧ (0xFFFF : Word).toNat < 65536 ∧
    (65536 ≤ (0x00FFFFFFFFFFFFFF : Word).toNat ∧ (0x00FFFFFFFFFFFFFF : Word).toInt < 2 ^ 56 ∧ small.tlbMatch w 0x00FFFFFFFFFFFFFF = []) ∧
    (withCore (fun c => { c with tlb := [(0, page), (1, page)] })).tlbMatch w 0x1FFFF = [page, page] ∧
    ((mapped { page with u := false } []).tlbMatch { w with super := false } 0x10000 = [{ page with u := false }]) ∧
    ((mapped { page with r := false } []).tlbMatch w 0x1FFFF = [{ page with r := false }]) ∧
    ((mapped { page with w := false } []).tlbMatch w 0x1FFFF = [{ page with w := false }] ∧ page.t = false) ∧
    ((mapped { page with x := false } []).tlbMatch w 0x1FFFF = [{ page with x := false }] ∧
      (mapped { page with x := false } []).unfetchable { page with x := false } 0x1FFFF = false) ∧
    ((mapped { page with frame := 0 } []).tlbMatch w 0x1FFFF = [{ page with frame := 0 }] ∧
      (mapped { page with frame := 0 } []).unfetchable { page with frame := 0 } 0x1FFFF = true ∧ w.super = true) ∧
    ((mapped { page with t := true } []).tlbMatch w 0x1FFFF = [{ page with t := true }] ∧
      TlbEntry.grants { page with t := true } true .store = true) := by decide

/-- A context with a store that is not acknowledged. -/
def storing : State := withCtx (fun c => { c with unacked := 1 })

theorem witness_FencesWaitForStores : small.settled ∧ storing.cur.unacked ≠ 0 ∧ storing.cur.xportErr = none ∧
    (1 : BitVec 4).getLsbD 0 = true := by
  refine ⟨⟨rfl, rfl, rfl⟩, ?_⟩
  decide

/-- R341: WFE without an armed registration gives 2; R274: SLEEP for 0 goes on at once. -/
theorem test_waits : (after (.wfe 5) small).rx 5 = 2 ∧ (after (.sleep 0) small).cur.pc = 0x10004 ∧
    (after (.sleep 1) (at_ [(1, 1)])).cur.wait = .sleep 0 0x10000 := by decide

theorem witness_TimedWaits :
    (small.cur.st ≠ .firing ∧ ((at_ [(1, 1)]).rx 1).toNat ≠ 0 ∧ small.rx 1 = 0 ∧ small.cur.wake = true ∧
      (withCtx (fun c => { c with wake := false })).cur.wake = false) ∧
    (small.cur.armed = false ∧ (withCtx (fun c => { c with armed := true, event := true })).cur.event = true ∧
      (withCtx (fun c => { c with armed := true })).cur.armed = true ∧ (withCtx (fun c => { c with armed := true })).cur.event = false) ∧
    firing.cur.st = .firing ∧ ((withCtx (fun c => { c with wait := .pause 0 })).ctx 0 0).wait = .pause 0 ∧
    ((withCtx (fun c => { c with wait := .sleep 0 1 })).ctx 0 0).wait = .sleep 0 1 ∧
    (((withCtx (fun c => { c with wait := .wfe 5 (-1) 1 })).ctx 0 0).wait = .wfe 5 (-1) 1 ∧ (small.ctx 0 0).event = false ∧
      (1 : Word) ≠ 0 ∧ (1 : Word) ≤ small.timeOf 0 - (-1)) ∧
    (((withCtx (fun c => { c with wait := .wfe 5 0 1 })).ctx 0 0).wait = .wfe 5 0 1 ∧ small.timeOf 0 - 0 < 1) := by decide

/-- The small state with the last word of the local window FULL and a pointer to it. -/
def fullWord : State := { at_ [(1, 65528), (2, 7)] with full := [lmemKey 0 65528] }

/-- A full-empty request of context 1 of core 1 for a word of core 0, sent, and the state that holds it. -/
def sub0 : SubName := { sweep := 255, page := { qs := 0, idx := 0 } }
def feReq (op st : Nat) : FeReq :=
  { id := 3, word := lmemKey 0 65528, op := op, core := 1, ctx := 1, rd := 5, data := 9, scope := .core, remote := true, nacks := 0,
    tag := 0, sub := sub0, st := st, since := -128, lines := [] }
def feState (op st : Nat) (full : List Nat) : State := { small with
  cores := [(0, core0), (1, { Core.reset with ctxs := [(1, { ctx0 with wait := .fe 3 })] })], fes := [feReq op st], full := full }

/-- R333: LDFE takes the word and leaves it EMPTY; STFE of an EMPTY word fills it. -/
theorem test_full_empty : let t := after (.ldfe .core 5 1) fullWord
    t.full = [] ∧ t.cur.wait = .none ∧ (after (.stfe .core 2 1) t).full = [lmemKey 0 65528] ∧
    (after (.ldfe .core 5 1) (after (.stfe .core 2 1) t)).rx 5 = 7 := by decide

theorem witness_FullEmptyWords :
    (((fullWord.rx 1).toNat < 65536 ∧ (fullWord.rx 1).toNat % 8 = 0 ∧ fullWord.here.watch = [] ∧ fullWord.fes = [] ∧
      fullWord.cur.st ≠ .firing ∧ fullWord.cur.wait = .none ∧ fullWord.settled) ∧ fullWord.badParity = [] ∧
      lmemKey 0 65528 ∈ fullWord.full) ∧ lmemKey 0 65528 ∉ (at_ [(1, 65528)]).full ∧
    (∀ m ∈ [0, 2], (feState 0 m [lmemKey 0 65528]).fes = [feReq 0 m] ∧ (feReq 0 m).remote = true ∧
      (feState 0 m [lmemKey 0 65528]).coreGone (ownerOf (feReq 0 m).word) = false ∧ (feReq 0 m).word % 8 = 0 ∧
      ((feState 0 m [lmemKey 0 65528]).ctx 1 1).wait = .fe (feReq 0 m).id ∧ (feReq 0 m).scope = .core ∧
      (m = 2 → bits ((feState 0 m []).core 1).feretry 23 8 ≤ ((feState 0 m []).cycleOf 1 - (feReq 0 m).since).toNat) ∧
      (feReq 0 m).word ∈ (feState 0 m [lmemKey 0 65528]).full) ∧
    ((feReq 2 0).op = 2 ∧ (feReq 2 0).word ∉ (feState 2 0 []).full) ∧ ((feReq 1 2).op = 1 ∧ (feReq 1 2).word ∉ (feState 1 2 []).full) := by
  refine ⟨⟨⟨by decide, by decide, rfl, rfl, by decide, rfl, ⟨rfl, rfl, rfl⟩⟩, rfl, by decide⟩, ?_⟩
  decide

/-- A registration of context 1 on the line of the first byte of the local window, and 63 registrations on the page. -/
def watchedLine : State := { small with clusters := [(0, { Cluster.reset with monitors := [(lmemKey 0 0 / 128, 0, 1)] })] }
def crowd : State := { mapped page [(1, 0x10000)] with
  clusters := [(0, { Cluster.reset with monitors := (natsFrom 0 63).map (fun n => (n, n, 0)) })] }

/-- A STRIPE entry over the second 2 GiB of the address space. -/
def stripe : TlbEntry := { page with size := 3, vpn := 2 ^ 15 }
def striped : State := mapped stripe [(1, 0x80000000)]

theorem witness_MonitorArmsAndFires :
    ((65536 ≤ (crowd.rx 1).toNat ∧ crowd.xlate crowd.whoCur .load (crowd.rx 1) = .ok ((dram 0 1).head (by decide)) ∧
      (∀ e ∈ crowd.tlbMatch crowd.whoCur (crowd.rx 1), e.size ≠ 3) ∧ (crowd.cluster 0).monitors.length < 64) ∧
      ((dram 0 1).head (by decide)).kind = .dram) ∧ ((at_ [(1, 65535)]).rx 1).toNat < 65536 ∧
    (striped.tlbMatch striped.whoCur (striped.rx 1) = [stripe] ∧ stripe.size = 3 ∧ stripe.grants striped.cur.super .load = true ∧
      (striped.rx 1).toInt < 2 ^ 56) ∧
    ((lmemKey 0 0 / 128, 0, 1) ∈ (watchedLine.cluster 0).monitors ∧ ¬((0 : Nat) = watchedLine.curCore ∧ 1 = watchedLine.curCtx) ∧
      (watchedLine.ctx 0 1).wait = .none ∧ watchedLine.cur.wait = .none ∧
      watchedLine.Reaches .store (watchedLine.rx 1 + (0 : BitVec 12).signExtend 64) 1 (own 0 1) ∧
      ∀ l ∈ own 0 1, watchedLine.atOnce watchedLine.curCore l = true) := by
  refine ⟨⟨⟨by decide, rfl, by decide, by decide⟩, by decide⟩, by decide, by decide, by decide, by decide, by decide, rfl,
    ⟨rfl, rfl, rfl, .inl rfl⟩, by decide⟩

/-- The small state with one semaphore, one mutex or one barrier register 0 in cluster 0. -/
def withSem (m : Sem) (l : Tbl Word) : State := { at_ l with clusters := [(0, { Cluster.reset with sems := [(15, m)] })] }
def withMutex (m : Mutex) : State := { at_ [(1, 15)] with clusters := [(0, { Cluster.reset with mutexes := [(15, m)] })] }
def withBar (m : Bar) (l : Tbl Word) : State := { at_ l with clusters := [(0, { Cluster.reset with bars := [(7, m)] })] }

/-- R344: a wait takes one; R347: a signal past 65,535 traps; R345: taking a mutex twice traps. -/
theorem test_sync : ((after (.semwait 1) (withSem { count := 1, waiters := [] } [(1, 15)])).cluster 0).sem 15 = Sem.zero ∧
    (after (.semsig 1 2) (withSem { count := 1, waiters := [] } [(1, 15), (2, 65535)])).cur.ecause = 0x16 ∧
    (after (.mtxacq 1) (after (.mtxacq 1) (withMutex Mutex.free))).cur.ecause = 0x17 := by decide

theorem witness_SemaphoresAndMutexes :
    (((withSem { count := 1, waiters := [] } [(1, 15)]).cluster 0).sem 15).count ≠ 0 ∧
    (((withSem Sem.zero [(1, 15)]).cluster 0).sem 15).count = 0 ∧ small.cur.st ≠ .firing ∧ firing.cur.st = .firing ∧ small.settled ∧
    (65535 < (((withSem { count := 1, waiters := [] } []).cluster 0).sem 15).count + ((at_ [(2, 65535)]).rx 2).toNat) ∧
    ((((withSem { count := 65534, waiters := [] } []).cluster 0).sem 15).count + ((at_ [(2, 1)]).rx 2).toNat ≤ 65535) ∧
    ((((withSem { count := 0, waiters := [(0, 1)] } []).cluster 0).sem 15).waiters = [(0, 1)] ∧ ((at_ [(2, 1)]).rx 2).toNat = 1 ∧
      ¬((0 : Nat) = small.curCore ∧ 1 = small.curCtx)) ∧
    (((withMutex Mutex.free).cluster 0).mutex 15).holder = none ∧
    (((withMutex { holder := some (0, 0), broken := false, waiters := [(0, 1)] }).cluster 0).mutex 15).holder = some (0, 0) ∧
    ((0, 1) : Nat × Nat) ≠ (0, 0) ∧
    (((withMutex { holder := some (0, 1), broken := false, waiters := [] }).cluster 0).mutex 15).holder ≠ some (0, 0) := by
  refine ⟨by decide, by decide, by decide, by decide, ⟨rfl, rfl, rfl⟩, ?_⟩
  decide

theorem witness_Barriers :
    (((withBar Bar.zero [(2, 17)]).cluster 0).bar 7).arrived = 0 ∧ 1 ≤ ((withBar Bar.zero [(2, 1)]).rx 2).toNat ∧
    ((withBar Bar.zero [(2, 17)]).rx 2).toNat ≤ 17 ∧
    ((at_ [(2, 0)]).rx 2).toNat < 1 ∧ 17 < ((at_ [(2, 18)]).rx 2).toNat ∧ small.settled ∧
    ((((withBar Bar.zero []).cluster 0).bar 7).count = 0) ∧
    (let b := ((withBar { count := 2, arrived := 0, phase := false, waiters := [] } []).cluster 0).bar 7;
      b.count ≠ 0 ∧ b.arrived + 1 ≠ b.count ∧ b.phase = small.cur.super.not) ∧
    (let b := ((withBar { count := 2, arrived := 1, phase := true, waiters := [(0, 1)] } []).cluster 0).bar 7;
      b.count ≠ 0 ∧ b.arrived + 1 = b.count ∧ b.waiters = [(0, 1)] ∧ b.phase = ((at_ [(2, 1)]).rx 2).getLsbD 0) := by
  refine ⟨by decide, by decide, by decide, by decide, by decide, ⟨rfl, rfl, rfl⟩, by decide, ?_, ?_⟩ <;> decide

/-! Channels, handlers, messages; the step and the words as a whole; the vector engine. -/

/-- The small state with channel n of core 0, at user level or not, and a value in register 1. -/
def withChan (n : Nat) (c : Chan) (f : Ctx → Ctx) : State :=
  withCore (fun k => { k with ctxs := [(0, f { ctx0 with x := [(1, 9)] })], chans := [(n, c)] })
def fullChan : Chan := { Chan.empty with words := [1, 2, 3, 4] }

/-- R278: words leave in the order they came; QCNT gives words and free slots; R277: a user context may not push to channel 24. -/
theorem test_channels : let s := withChan 26 Chan.empty id
    let t := after (.qpush 26 0) (after (.qpush 26 1) s)
    (after (.qpop 5 26) t).rx 5 = 9 ∧ (after (.qcnt 5 26) t).rx 5 = 0x22 ∧ (after (.qtry 5 26) s).cur.pc = 0x10004 ∧
    (after (.qtry 5 26) t).cur.pc = 0x10010 ∧ (after (.qpush 24 0) user).cur.ecause = 0x0D := by decide

theorem witness_Channels :
    (small.cur.wait = .none ∧ small.curCtx < 8 ∧ small.cur.super = true) ∧ user.cur.super = false ∧
    ((withChan 31 fullChan id).chan 0 31).words = 1 :: [2, 3, 4] ∧ ((withChan 31 Chan.empty id).chan 0 31).words = [] ∧
    ((withChan 31 Chan.empty id).chan 0 31).free ≠ 0 ∧ ((withChan 31 Chan.empty id).chan 0 31).poppers = [] ∧
    (((withChan 31 fullChan id).chan 0 31).free = 0 ∧ (withChan 31 fullChan id).reservedHere 31 = false ∧
      (withChan 31 fullChan id).cur.st ≠ .firing) ∧
    (((withChan 31 fullChan (fun c => { c with st := .firing })).chan 0 31).free = 0 ∧
      (withChan 31 fullChan (fun c => { c with st := .firing })).reservedHere 31 = false ∧
      (withChan 31 fullChan (fun c => { c with st := .firing })).cur.st = .firing) ∧
    (((withChan 23 fullChan (fun c => { c with super := false })).chan 0 23).free = 0 ∧ 26 < (27 : BitVec 5).toNat ∧
      23 < (24 : BitVec 5).toNat) := by decide

/-- The 32 bytes of an entry for channel 0, target 0x20000, at offset 32 of the local window; with flags bit 15 set it is illegal. -/
def binding (reserved : Byte) : State := { at_ [(1, 32)] with mem := [(34, 2), (48, 1)] ++ (if reserved = 0 then [] else [(49, reserved)]) }

/-- An entry that consumes one word of channel 3, and the core that is ready to fire it in context 7, or in context 6. -/
def entry3 : Handler := { target := 0x20000, flags := 0x30001, masked := false }
def firable (l : Tbl Ctx) : State := withCore (fun c => { c with
  ctxs := (0, ctx0) :: l, chans := [(3, { Chan.empty with words := [7] })], handlers := [(3, entry3)] })

/-- R284, R285: the firing starts at the entry's target with the word in t0; R284: with context 7 taken, in context 6. -/
theorem test_firing : let t := after (.handlerFire 0 3) (firable [])
    (t.ctx 0 7).pc = 0x20000 ∧ (t.ctx 0 7).st = .firing ∧ (t.ctx 0 7).rx 5 = 7 ∧ (t.chan 0 3).words = [] ∧
    ((after (.handlerFire 0 3) (firable [(7, { ctx0 with st := .firing, chan := 1 })])).ctx 0 6).pc = 0x20000 := by decide

/-- R283: HBIND binds the entry it reads. -/
theorem test_hbind : tfind 0 (after (.hbind 0 1) (binding 0)).here.handlers =
    some { target := 0x20000, flags := 1, masked := false } := by decide

theorem witness_Handlers :
    (small.cur.wait = .none ∧ small.cur.super = true ∧ small.rx 1 = 0) ∧
    ((binding 0).rx 1 ≠ 0 ∧ ((binding 0).rx 1).toNat % 32 = 0 ∧ (binding 0).here.watch = [] ∧
      (binding 0).places (binding 0).whoCur .load ((binding 0).rx 1) 32 = .ok (own 32 32) ∧
      (binding 0).waysOpen 0 (own 32 32) = true ∧
      (own 32 32).map ((binding 0).seenByte 0 0) = leBytes 8 0x20000 ++ leBytes 8 0 ++ leBytes 8 1 ++ leBytes 8 0 ∧
      handlerOk 0 0x20000 0 1 0 = true) ∧
    ((binding 128).places (binding 128).whoCur .load ((binding 128).rx 1) 32 = .ok (own 32 32) ∧
      (own 32 32).map ((binding 128).seenByte 0 0) = leBytes 8 0x20000 ++ leBytes 8 0 ++ leBytes 8 0x8001 ++ leBytes 8 0 ∧
      handlerOk 0 0x20000 0 0x8001 0 = false) ∧ user.cur.super = false ∧
    (tfind 3 (firable []).here.handlers = some entry3 ∧ Handler.super entry3 = false ∧ tfind 4 (firable []).here.handlers = none) ∧
    (firing.cur.st = .firing ∧ firing.cur.copyErr = none) ∧
    ((∀ l ∈ [[], [(7, { ctx0 with st := .firing })]], ((firable l).core 0).nextFire = some 3 ∧ ((firable l).core 0).stopped = false ∧
      (firable l).coreGone 0 = false ∧ ((firable l).chan 0 3).words.take entry3.consume = 7 :: [])) ∧ Handler.indirect entry3 = false := by
  refine ⟨by decide, ⟨by decide, by decide, rfl, rfl, by decide, by decide, by decide⟩, ⟨rfl, by decide, by decide⟩, by decide,
    by decide, by decide, by decide, by decide⟩

/-- The small state with one word staged for a message to core 1, and with a replay window of 32. -/
def staged : State := withCtx (fun c => { c with x := [(1, 1), (2, 0x3), (3, 9)], staged := [(0, 9)], stmask := 1 })
def msg (n : Nat) : Msg :=
  { uid := n, ctx := 0, dst := 1, chan := 3, words := [9], frm := .ctx, st := .sent, nacks := 0, stores := [], gen := 0,
    lines := [], grant := false, since := 0 }
def crowded : State := withCore (fun c => { c with
  ctxs := [(0, { ctx0 with x := [(1, 1)], staged := [(0, 9)], stmask := 1 })], window := (natsFrom 0 32).map msg })

/-- R287: MSGS and MSGSI answer 2 with a word not staged and 1 with no room. -/
theorem test_sends : (after (.msgsi 5 1 3 1) staged).rx 5 = 2 ∧ (after (.msgsi 5 1 3 0) crowded).rx 5 = 1 ∧
    (after (.msgs 5 1 2) staged).here.window.map (fun m => (m.dst, m.chan, m.words)) = [(1, 3, [9])] ∧
    (after (.msgsi 5 1 3 0) (withCtx (fun c => { c with x := [(1, 0x7FFFFFFF)] }))).cur.ecause = 0x14 := by decide

theorem witness_MessageSends : staged.cur.wait = .none ∧ staged.destCore (staged.rx 1) = some 1 ∧ staged.cur.super = true ∧
    (∀ j, j < 1 → staged.cur.stmask.getLsbD j = true) ∧ ¬(∀ j, j < 2 → staged.cur.stmask.getLsbD j = true) ∧
    (staged.rx 2).toNat % 32 = 3 ∧ (staged.rx 2).toNat / 256 % 4 + 1 = 1 ∧ crowded.here.windowBusy = true ∧
    staged.here.windowBusy = false ∧ (at_ [(1, 0x7FFFFFFF)]).destCore ((at_ [(1, 0x7FFFFFFF)]).rx 1) = none ∧ user.cur.super = false := by
  decide

/-- The mapped state with one turn of the tape for context 0 of core 0; an error due at any instruction. -/
def turning (e : Option PendErr) : State := { withCore (fun c => { c with ctxs := [(0, { ctx0 with xportErr := e })], tlb := [(0, page)] }) with
  turns := [.run 0 0 { slow := false, fill := false, split := false }], mem := [(512 * 2 ^ 46, 0x13), (512 * 2 ^ 46 + 1, 0x05), (512 * 2 ^ 46 + 2, 0x70)] }
def due : PendErr := { cause := 0x11, eaddr := 0, einfo := 1, stamp := 0 }

/-- R245: the step fetches ADDI x10, x0, 7 at the pc and runs it. -/
theorem test_step : (match step (turning none) with
    | .next t => (t.rx 10, t.cur.pc, t.turns.length)
    | _ => (0, 0, 9)) = (7, 0x10004, 0) := by decide

/-- The word placed for the next fetch of the machine at reset is what its next step runs. -/
theorem test_fetch_word : (match step (State.reset.withFetchWord 32 0x00700293) with
    | .next t => t.rx 5
    | _ => 0) = 7 := by decide

/-- R228: a weak load performed early keeps the value it read when the byte changes before its turn. -/
theorem test_early : let s : State := { turning none with turns := [.peek 0 0 (some 1) 0x10040] }
    let t : State := (match step s with
      | .next t => t
      | _ => s)
    (after (decode 0x04008283) { t with mem := [(512 * 2 ^ 46 + 0x40, 9)], cores := t.cores.map (fun (e : Nat × Core) => (e.1, { e.2 with
      ctxs := e.2.ctxs.map (fun (c : Nat × Ctx) => (c.1, { c.2 with x := [(1, 0x10000)] })) })) }).rx 5 = 0 := by
  decide +kernel

theorem witness_StepRunsDecoded : let s := turning none
    let u := { s with turns := [], mode := { slow := false, fill := false, split := false } }.ripen 0 0
    let v := { u with curCore := 0, curCtx := 0 }
    s.turns = .run 0 0 { slow := false, fill := false, split := false } :: [] ∧
    (u.eligible 0 0 = true ∧ u.eligible 0 1 = false ∧ v.cur.haltReq = false ∧ v.watchHit 0 0 v.cur.pc = false ∧
      v.places (v.who 0 0) .fetch v.cur.pc 4 = .ok (dram 0 4) ∧ (∀ l ∈ dram 0 4, v.wayOpen 0 l = true) ∧ v.mode.fill = false ∧
      (v.noteIssue 0 0).cur.dueNow = none) ∧
    (let s := turning (some due); let u := { s with turns := [], mode := { slow := false, fill := false, split := false } }.ripen 0 0
      let w : IWord := 0x00700513; let u' := (u.noteIssue 0 0).keepRead 0 0 (decode w)
      (dram 0 4).map (s.fetchByte 0) = [0x13, 0x05, 0x70, 0x00] ∧ w = wordOfBytes 0x13 0x05 0x70 0x00 ∧
        u.places (u.who 0 0) .fetch u.cur.pc 4 = .ok (dram 0 4) ∧ u'.cur.dueNow = some due ∧
        (match exec (decode w) u' with
          | .next t => decide (t.cur.st = .strand)
          | _ => false) = true) ∧
    small.places (small.who 0 0) .fetch 0x10000 4 = .error { cause := 6, addr := 0x10000, info := 4 } ∧ small.cur.dueNow = none ∧
    isEvent (.dramRefresh 0) = true ∧ isEvent .ecall = false ∧
    ({ small with pending := [.dramRefresh 0], parity := true }.turns = [] ∧
      { small with pending := [.dramRefresh 0], parity := true }.pending = [.dramRefresh 0]) := by
  refine ⟨by decide, ⟨by decide, by decide, rfl, by decide, rfl, by decide, rfl, by decide⟩, ⟨by decide, by decide, rfl, by decide, by decide⟩, rfl, ?_⟩
  decide

theorem witness_DecodeEncode : Instr.wf (.bfi 1 2 3 4) = true ∧ Instr.sharesWord (.bfi 1 2 3 4) = false ∧
    encode (.bfi 1 2 3 4) = some 0b00100_10_00011_00010_000_00001_0001011 := by decide

theorem witness_EncodeDecode : decodeWord 0b00100_10_00011_00010_000_00001_0001011 = .ok (.bfi 1 2 3 4) := rfl

theorem witness_StepKeepsMemory : (turning none).memOk := by
  unfold State.memOk
  decide

/-- Core 0 holds window 0, with a value in v1 and, for the ports, rows in vin; vtype is the code given. -/
def windowed (vt : Word) (rows : List VWord) : State := withCore (fun c => { c with
  ctxs := [(0, { ctx0 with vtype := vt, x := [(1, 64), (2, 7)], m := [(1, 1)] })],
  wins := [(0, { Win.empty with regs := [(1, 0x00000005_FFFFFFFF), (2, 0x00000003_00000001)], vin := rows, holder := some 0 })] })

def ops : VOps := { msel := .none, h2 := false, h1 := false, vs2 := 2, vs1 := 1, vd := 3 }
def one : VUn := { msel := .none, h1 := false, vs1 := 1, vd := 3 }

/-- R140, R135: VADD on INT32 wraps in each element, and only enabled elements change. -/
theorem test_vadd : let t := after (.vadd ops) (windowed 2 [])
    let u := after (.vadd { ops with msel := .m1 }) (windowed 2 [])
    tget 0 3 (t.here.win 0).regs = 0x00000008_00000000 ∧ tget 0 3 (u.here.win 0).regs = 0 ∧
    (after (.vadd ops) small).cur.ecause = 1 := by decide +kernel

/-- R131: a source that names vin pops a row. -/
theorem test_vin : let t := after (.vand { ops with vs1 := 30 }) (windowed 2 [7, 9])
    tget 0 3 (t.here.win 0).regs = 1 ∧ (t.here.win 0).vin = [9] := by decide +kernel

/-- R144: VCMPLT is signed, VCMPLTU is not. -/
theorem test_vcmp : let c : VCmp := { msel := .none, h2 := false, h1 := false, vs2 := 2, vs1 := 1, md := 2 }
    (after (.vcmplt c) (windowed 2 [])).cur.rm 2 = 1 ∧ (after (.vcmpltu c) (windowed 2 [])).cur.rm 2 = 0 := by decide +kernel

theorem vready (s : State) (w : Nat) (ok : Bool) (srcs : List VReg) (vd : VReg) (a : s.window = some w)
    (b : vtypeOk s.cur.vtype = true) (c : ok = true) (d : s.cur.copyErr = none)
    (e : portReads srcs ≤ (s.here.win w).vin.length) (f : (s.here.win w).vout.length < 4) : s.VReady w ok srcs vd :=
  ⟨a, b, c, fun _ => d, e, fun _ => f⟩

theorem witness_VectorElements : (windowed 2 [7, 9]).VReady 0 (okInt .i32) [30, 30] 31 ∧
    (windowed 9 []).VReady 0 (okFloat .f32) [1] 3 ∧ small.window = none ∧ okField .i8 = false := by
  refine ⟨vready _ _ _ _ _ rfl ?_ ?_ rfl ?_ ?_, vready _ _ _ _ _ rfl ?_ ?_ rfl ?_ ?_, rfl, ?_⟩ <;> decide

theorem witness_VectorMoves : (windowed 2 []).VReady 0 (okMove .i32) [1, 2] 3 ∧
    (windowed 2 []).VReady 0 (okMove .i32 && decide ((15 : BitVec 6).toNat < 16)) [1] 3 ∧ (windowed 2 []).VReady 0 (okInt .i32) [] 3 ∧
    ((windowed 12 []).VReady 0 (!(ElemTy.e2m1 = .e2m1 && ElemTy.i8 = .e2m1)) [1] 3 ∧ ElemTy.ofCode (12 : BitVec 4).toNat = some .e2m1) ∧
    small.window = none := by
  refine ⟨vready _ _ _ _ _ rfl ?_ ?_ rfl ?_ ?_, vready _ _ _ _ _ rfl ?_ ?_ rfl ?_ ?_, vready _ _ _ _ _ rfl ?_ ?_ rfl ?_ ?_,
    ⟨vready _ _ _ _ _ rfl ?_ ?_ rfl ?_ ?_, ?_⟩, rfl⟩ <;> decide

theorem witness_VectorCompares : (windowed 2 [7, 9]).VReady 0 (okArith .i32) [30, 30] 0 :=
  vready _ _ _ _ _ rfl (by decide) (by decide) rfl (by decide) (by decide)

theorem witness_VectorReductions : (windowed 2 [7]).VReady 0 (okArith .i32 && decide (16 ≤ 16)) [30] 31 ∧
    (windowed 9 []).VReady 0 (okArith .f32) [1] 3 := by
  refine ⟨vready _ _ _ _ _ rfl ?_ ?_ rfl ?_ ?_, vready _ _ _ _ _ rfl ?_ ?_ rfl ?_ ?_⟩ <;> decide

/-- Core 0 with both windows taken by other groups; core 0 whose group holds the matrix state. -/
def noWindow : State := withCore (fun c => { c with
  wins := [(0, { Win.empty with holder := some 1 }), (1, { Win.empty with holder := some 2 })] })
def holding (l : Tbl Word) : State := withCore (fun c => { c with
  ctxs := [(0, { ctx0 with x := l })], wins := [(0, { Win.empty with holder := some 0 })], mat := { Matrix.free with holder := some 0 } })

theorem witness_MasksWindowsAndType :
    (windowed 2 [7]).VReady 0 (okMove .i32) [30] 0 ∧ (windowed 2 []).VReady 0 (okMove .i32) [29] 29 ∧
    (isCompute 16 = false ∧ firing.cur.st ≠ .strand) ∧
    (isCompute small.curCore = true ∧ small.cur.st = .strand ∧ (windowed 2 []).here.heldBy 0 = some 0) ∧
    (small.here.heldBy 0 = none ∧ (small.here.reservedFor 0).or small.here.freeWindow = some 0) ∧
    (noWindow.here.heldBy 0 = none ∧ (noWindow.here.reservedFor 0).or noWindow.here.freeWindow = none) ∧
    (small.window = none ∧ (windowed 2 []).window = some 0) ∧
    ((0x4C : Word) &&& 15 < 13 ∧ (0x4C : Word) >>> 4 &&& 7 < 5 ∧ (0x4C : Word) >>> 8 = 0 ∧ ¬((0x4D : Word) &&& 15 < 13)) ∧
    ((holding [(1, 63)]).VReady 0 true [] 3 ∧ (holding [(1, 63)]).holdsMatrix = true ∧ (holding [(1, 63)]).here.mat.err = none ∧
      ((holding [(1, 63)]).rx 1).toNat ≤ 63 ∧ (holding []).here.mat.queue = [] ∧ (holding []).here.mat.poison.getLsbD 3 = false ∧
      (holding []).here.mat.accBad.getLsbD 3 = false ∧ ({ Matrix.free with poison := 8 } : Matrix).poison.getLsbD 3 = true) ∧
    (windowed 2 []).holdsMatrix = false ∧ 63 < ((holding [(1, 64)]).rx 1).toNat := by
  refine ⟨vready _ _ _ _ _ rfl ?_ ?_ rfl ?_ ?_, vready _ _ _ _ _ rfl ?_ ?_ rfl ?_ ?_, ?_, ?_, ?_, ?_, ?_, ?_,
    ⟨vready _ _ _ _ _ rfl ?_ ?_ rfl ?_ ?_, ?_⟩, ?_⟩ <;> decide

/-- R129: VCLAIM gives a free window, or all ones. -/
theorem test_vclaim : let t := after (.vclaim 5) small
    t.rx 5 = 0 ∧ (t.here.win 0).holder = some 0 ∧ (after (.vclaim 5) noWindow).rx 5 = 0xFFFFFFFFFFFFFFFF := by decide

/-- R155: VST puts 64 bytes, the lowest first; an address that is no multiple of 64 traps. -/
theorem test_vst : let t := after (.vst 1 1 0) (windowed 2 [])
    Memory.bytes t.mem (lmemKey 0 64) 6 = [255, 255, 255, 255, 5, 0] ∧ (after (.vst 1 2 0) (windowed 2 [])).cur.ecause = 0x0B := by decide +kernel

theorem witness_VectorMemory : let s := windowed 2 []
    (s.here.watch = [] ∧ s.cur.wait = .none ∧ (s.rx 1).toNat % 64 = 0 ∧ (s.rx 1).toNat % 4 = 0 ∧ (s.rx 2).toNat % 64 ≠ 0 ∧
      s.badParity = []) ∧
    s.VReady 0 true [] 3 ∧ s.VReady 0 true [1] 0 ∧ (s.cur.rm 1 ≠ 0 ∧ s.cur.rm 5 = 0) ∧ s.places s.whoCur .load (s.rx 1) 64 = .ok (own 64 64) ∧
    s.waysOpen s.curCore (own 64 64) = true ∧ s.places s.whoCur .load (s.rx 2) 64 = .ok (own 7 64) ∧
    s.places s.whoCur .store (s.rx 1) 64 = .ok (own 64 64) ∧ (∀ l ∈ own 64 64, s.atOnce s.curCore l = true) ∧
    (s.maskedPlaces (s.rx 1) ((natsFrom 0 64).filter (s.cur.rm 1).getLsbD) = .ok (own 64 1)) ∧
    (s.VReady 0 (okMove .i32) [3] 4 ∧ s.VReady 0 (okMove .i32) [1, 3] 0 ∧
      ∀ j, j < 16 → (s.rx 1).toNat + velem 32 (s.vsrc 0 [3] 0) j * 4 + 4 ≤ 65536) := by
  refine ⟨⟨rfl, rfl, ?_⟩, vready _ _ _ _ _ rfl ?_ ?_ rfl ?_ ?_, vready _ _ _ _ _ rfl ?_ ?_ rfl ?_ ?_, ?_, rfl, ?_, rfl, rfl, ?_, rfl,
    ⟨vready _ _ _ _ _ rfl ?_ ?_ rfl ?_ ?_, vready _ _ _ _ _ rfl ?_ ?_ rfl ?_ ?_, ?_⟩⟩
  all_goals decide +kernel

/-! Engine commands. -/

theorem ok_of {ε α : Type} {e : Except ε α} {a : α} (h : e.toOption = some a) : e = .ok a := by
  cases e with
  | ok b => cases h; rfl
  | error x => cases h

theorem ok_exists {ε α : Type} {e : Except ε α} (h : e.toOption.isSome = true) : ∃ a, e = .ok a := by
  cases e with
  | ok b => exact ⟨b, rfl⟩
  | error x => cases h

/-- Local memory with a CPY word at 32, its records at 64 and 128: four INT8 elements from 256 to 512. -/
def copyMem : List Host.Cell := [(32, 1), (36, 64), (44, 128), (65, 1), (72, 4), (80, 1), (129, 2), (136, 4), (144, 1)]
def issuing (mem : List Host.Cell) (q : List CopyCmd) (st : CtxState) : State := { withCore (fun c => { c with
  ctxs := [(0, { ctx0 with st := st, x := [(1, 32), (2, 33)] })], copyQ := q }) with mem := mem }
/-- A strand whose ISSUE has waited with the command word w. -/
def waitedIssue (w : CmdWord) : State := withCtx (fun c => { c with cmdRead := some w })
def cpyWord : CmdWord := BitVec.ofNat 256 (1 + 64 * 2 ^ 32 + 128 * 2 ^ 96)

/-- A one-dimensional record: base, size, stride, type code. -/
def shape (base size stride ty : Nat) : Rec := BitVec.ofNat 512 (base + size * 2 ^ 64 + stride * 2 ^ 128 + ty * 2 ^ 320)

/-- A copy command that waits at a row, alone in the queue of core 0. -/
def copyCmd (w : CmdWord) (recs : List Rec) (row : Nat) : CopyCmd :=
  { hd := { word := w, seq := 0, ctx := 0, slot := 0, super := true, after := [], sees := [] }, recs := recs, seed := 1, st := .waiting, row := row,
    notifies := 0, marks := [], badAt := none, released := false, lines := [] }
def ref0 : CmdRef := { core := 0, seq := 0 }
def copying (q : CopyCmd) : State := withCore (fun c => { c with
  copyQ := [q], wins := [(0, { Win.empty with holder := some 0, vout := [7] })], mat := { Matrix.free with
    holder := some 0, rings := [(0, { Ring.empty with configured := true }), (1, { Ring.empty with configured := true, count := 1 })] } })

/-- R84: an opcode that is not assigned is ILLEGAL_CMD, with the opcode in einfo; a full queue blocks a strand. -/
theorem test_issue : let t := after (.issue 1 0) (issuing [(32, 0x0B)] [] .strand)
    t.cur.ecause = 2 ∧ t.cur.einfo = 0x0B ∧
    (after (.issue 1 0) (issuing copyMem (List.replicate 2 (copyCmd 1 [] 0)) .strand)).cur.wait = .engine ∧
    (after (.issue 1 0) (issuing copyMem [] .strand)).here.copyQ.length = 1 := by decide +kernel

theorem witness_CommandIssue : let s := issuing copyMem [] .strand
    (s.here.watch = [] ∧ s.cur.cmdRead = none ∧ (waitedIssue 0x0B).cur.cmdRead = some 0x0B ∧
      (s.rx 2 + (0 : BitVec 12).signExtend 64 * 32).toNat % 32 ≠ 0 ∧
      (s.rx 1 + (0 : BitVec 12).signExtend 64 * 32).toNat % 32 = 0) ∧
    s.places s.whoCur .load (s.rx 1 + (0 : BitVec 12).signExtend 64 * 32) 32 = .ok (own 32 32) ∧
    (s.waysOpen s.curCore (own 32 32) = true ∧ cpyWord = BitVec.ofNat 256 (leNat ((own 32 32).map (s.seenByte 0 0))) ∧
      (0x0B : CmdWord) = BitVec.ofNat 256 (leNat ((own 32 32).map ((issuing [(32, 0x0B)] [] .strand).seenByte 0 0)))) ∧
    ((0 : CmdWord).extractLsb' 0 32 = 0#32 ∧ (0x700B : CmdWord).extractLsb' 0 32 = 0x700B#32) ∧
    (bits (0x0B : CmdWord) 31 0 ≠ 0 ∧ bits (0x0B : CmdWord) 31 0 ≠ 0x700B ∧ (cmdEvent (cOpcode 0x0B) { core := 0, seq := 0 }).isNone = true) ∧
    ((cmdEvent (cOpcode 0x10000001) { core := 0, seq := 0 }).isSome = true ∧ cmdHeaderOk 0x10000001 = false) ∧
    s.CmdFine cpyWord ∧ (unitOf (cOpcode cpyWord) = .copy ∧ s.cur.copyErr = none ∧ s.cur.dueNow = none) ∧
    s.readRecs (copyRecs cpyWord) = .ok [shape 256 4 1 0, shape 512 4 1 0] ∧
    (∀ j, j < 2 → shapeOk ((copyRecs cpyWord).getD j 0) (fun _ => true) ([shape 256 4 1 0, shape 512 4 1 0].getD j 0) = true ∧
      roleOk cpyWord [shape 256 4 1 0, shape 512 4 1 0] j = true ∧ extentOk ([shape 256 4 1 0, shape 512 4 1 0].getD j 0) = true) ∧
    (constOk cpyWord [shape 256 4 1 0, shape 512 4 1 0] = true ∧ countsOk s.grade cpyWord [shape 256 4 1 0, shape 512 4 1 0] = true ∧
      s.copyResource cpyWord = none ∧ s.here.copyQ.length < 2 ∧
      2 ≤ (issuing copyMem (List.replicate 2 (copyCmd 1 [] 0)) .strand).here.copyQ.length ∧
      (issuing copyMem [] .strand).cur.st ≠ .firing ∧ (issuing copyMem [] .firing).cur.st = .firing) := by
  refine ⟨⟨rfl, rfl, rfl, by decide, by decide⟩, ok_of ?_, by decide +kernel, by decide +kernel, by decide +kernel, by decide +kernel,
    ⟨by decide +kernel, by decide +kernel, by decide +kernel, ?_, by decide +kernel, .inl rfl⟩, by decide +kernel, ok_of ?_, ?_, ?_⟩
  · decide +kernel
  · intro h; revert h; decide +kernel
  all_goals decide +kernel

/-- Commands at their first row: records A at 0, B at 64 and C at 128, all of four INT8 elements; A with two dimensions. -/
def A4 : Rec := shape 0 4 1 0
def A41 : Rec := shape 0 (4 + 2 ^ 16) 1 16
def B4 : Rec := shape 64 4 1 0
def C4 : Rec := shape 128 4 1 0
def F8 : Rec := shape 0 8 4 9
def E8 : Rec := shape 64 8 0 12
def S1 : Rec := shape 128 1 1 14
def rows4 (op row : Nat) : CopyCmd := copyCmd (BitVec.ofNat 256 op) [A4, B4, C4] row
def two4 (op : Nat) : CopyCmd := copyCmd (BitVec.ofNat 256 op) [A41, B4, C4] 0

theorem copy_ready (q : CopyCmd) (h : q.hd.seq = 0) (w : q.st = .waiting) (r : q.hd.after = []) : (copying q).CopyReady ref0 q := by
  refine ⟨?_, .inl w, rfl, ?_, ?_⟩
  · show [q].find? _ = some q
    simp [h, ref0]
  · show Core.copyFirst _ q = true
    simp [Core.copyFirst, copying, withCore, small, State.core, tget, ref0, h]
  · simp [State.released, r]

theorem witness_CopyRows :
    (∀ op ∈ [0x01, 0x02, 0x50, 0x51, 0x52, 0x54], (copying (rows4 op 0)).CopyReady ref0 (rows4 op 0)) ∧
    (let s := copying (rows4 1 0); let q := rows4 1 0; let v := [0, 0, 0, 0];
      s.engElems 0 q.hd A4 0 4 = .ok v ∧ s.engElems 0 q.hd B4 0 4 = .ok v ∧ q.row < rowsOf A4 ∧
      (∃ u, s.engPuts 0 q.hd B4 ((natsFrom 0 4).zip (q.conv.elems q.seed 0 v)) = .ok u) ∧
      (∃ u, s.engPuts 0 q.hd A4 ((natsFrom 0 4).map (fun e => (e, (cAddr q.hd.word 3).toNat % 2 ^ (shType A4).width))) = .ok u) ∧
      (∃ u, s.engPuts 0 q.hd C4 ((natsFrom 0 4).zip (q.conv.elems q.seed 0 v)) = .ok u) ∧
      (∃ u, s.engPuts 0 q.hd B4 [(0, 0)] = .ok u)) ∧
    (let q := two4 3; let s := copying q;
      s.CopyReady ref0 q ∧ s.engElem 0 q.hd C4 0 = .ok 0 ∧ 0 < shSize A41 1 ∧ s.engElems 0 q.hd A41 (shSize A41 0 * 0) (shSize A41 0) = .ok [0, 0, 0, 0] ∧
      s.engElems 0 q.hd B4 (0 * shSize A41 0) (shSize A41 0) = .ok [0, 0, 0, 0] ∧
      (∃ u, s.engPuts 0 q.hd B4 ((natsFrom (0 * shSize A41 0) (shSize A41 0)).zip (q.conv.elems q.seed (0 * shSize A41 0) [0, 0, 0, 0])) = .ok u)) ∧
    (let q := rows4 0x55 0; let s := copying q;
      s.CopyReady ref0 q ∧ s.engElems 0 q.hd C4 0 (rowOf B4 0).2 = .ok [0, 0, 0, 0] ∧ (∀ j ∈ [0, 0, 0, 0], j < shLen A4 0) ∧
      s.engElem 0 q.hd A4 (0 + shLen A4 0 * 0) = .ok 0) ∧
    (let q := copyCmd 0x53 [F8, E8, S1] 0; let s := copying q;
      s.CopyReady ref0 q ∧ s.engElems 0 q.hd F8 0 8 = .ok [0, 0, 0, 0, 0, 0, 0, 0] ∧ (rowBlocks (shType F8) [0, 0, 0, 0, 0, 0, 0, 0]).length = 1 ∧
      (∃ u, s.engPuts 0 q.hd E8 ((natsFrom 0 8).zip [0, 0, 0, 0, 0, 0, 0, 0]) = .ok u) ∧ (∃ u, s.engPuts 0 q.hd S1 [(0, 0)] = .ok u)) ∧
    (let q := copyCmd 1 [shape (2 ^ 56) 4 1 0, B4] 0;
      (copying q).CopyReady ref0 q ∧ (q.recs.getD 0 0) = shape (2 ^ 56) 4 1 0 ∧ ((copying q).ctx 0 0).copyErr = none ∧
      ∃ e, (copying q).engElems 0 q.hd (shape (2 ^ 56) 4 1 0) 0 4 = .error e ∧ EngErr.stop e = .fail 0x0A (BitVec.ofNat 64 (2 ^ 56))) ∧
    ((copying (rows4 4 0)).engElem 0 (rows4 4 0).hd C4 0 = .ok 0 ∧ shSize A4 1 ≤ 0) ∧
    (shPadding (BitVec.ofNat 512 (4 * 2 ^ 64 + 2 ^ 128 + 2 ^ 328 + 3 * 2 ^ 256)) (shIdx (BitVec.ofNat 512 (4 * 2 ^ 64 + 2 ^ 128 + 2 ^ 328 + 3 * 2 ^ 256)) 3) = true) ∧
    (shPadding A4 (shIdx A4 3) = false ∧ (shType A4).width ≠ 4 ∧ (∀ l ∈ own 3 1, small.atOnce 0 l = true)) ∧
    small.engPlaces 0 (rows4 1 0).hd .store (shAddr A4 (shIdx A4 3)) (shBytes A4) = .ok (own 3 1) := by
  refine ⟨fun op _ => copy_ready _ rfl rfl rfl, ⟨ok_of ?_, ok_of ?_, ?_, ok_exists ?_, ok_exists ?_, ok_exists ?_, ok_exists ?_⟩,
    ⟨copy_ready _ rfl rfl rfl, ok_of ?_, ?_, ok_of ?_, ok_of ?_, ok_exists ?_⟩, ⟨copy_ready _ rfl rfl rfl, ok_of ?_, ?_, ok_of ?_⟩,
    ⟨copy_ready _ rfl rfl rfl, ok_of ?_, ?_, ok_exists ?_, ok_exists ?_⟩, ⟨copy_ready _ rfl rfl rfl, rfl, rfl, _, rfl, ?_⟩,
    ⟨ok_of ?_, ?_⟩, ?_, ?_, ok_of ?_⟩
  all_goals decide +kernel

/-- R199: the last row of CPY lands at its destination, and the command is done. -/
theorem test_rows : let s := { copying (copyCmd (BitVec.ofNat 256 (0x01 + 2 ^ 96)) [A4, B4] 0) with mem := [(0, 5), (3, 9)] }
    let t := after (.cpy ref0) s
    Memory.bytes t.mem 64 4 = [5, 0, 0, 9] ∧ t.here.copyQ.map (·.st) = [.done 0] := by decide +kernel

/-- The first byte of controller 0. -/
def D0 : Nat := 512 * 2 ^ 46
/-- A store of core 0's engines that is not acknowledged, and a request record for other cases. -/
def req (kind : ReqKind) (ctx : Nat) (ph : ReqPhase) : Req :=
  { id := 4, core := 0, ctx := ctx, keyid := 0, kind := kind, src := 0, dst := 1, seq := 0, phase := ph, va := 0, reply := 0,
    openBit := false, lost := false, acq := none, path := 0, sentAt := 0, again := false, cmd := none, group := none }
def away (s : State) : State := { s with reqs := [req (.store [] false) 8 .home] }

/-- The page at 0x10000 with a frame record, RESIDENT, at offset 0x100000 of the same controller. -/
def recBase : Nat := 512 * 2 ^ 46 + 2 ^ 20
def paged (l : Tbl Word) (n : Byte) : State := { mapped page l with
  chips := [(0, { Chip.reset with ftab := [(0, BitVec.ofNat 64 (recBase + 1))] })], mem := if n = 0 then [] else [(recBase, n)] }

/-- Sources in the page: two bytes of one line, that L2PINFILL pins. -/
def P2 : Rec := shape 0x10000 2 1 0
def pinning : State := { paged [] 1 with
  cores := [(0, { core0 with tlb := [(0, page)], copyQ := [copyCmd 0x0C [P2] 0] })] }

theorem go_exists {r : RowEnd} (h : (match r with
    | .go _ => true
    | _ => false) = true) : ∃ u, r = .go u := by
  cases r <;> first | exact ⟨_, rfl⟩ | cases h

theorem witness_CopyTransfers :
    (let q := rows4 2 1; let m := copyCmd (BitVec.ofNat 256 (2 + 2 ^ 12 + 5 * 2 ^ 160)) [A4, B4] 1;
      (copying q).CopyReady ref0 q ∧ rowsOf A4 ≤ q.row ∧ (away (copying q)).engHome 0 = false ∧ (copying q).engHome 0 = true ∧
      (cFlag m.hd.word 0 = true ∧ coreOfIdent (copying m).grade (cOp m.hd.word 5) = some 5) ∧ cFlag q.hd.word 0 = false ∧
      (copying q).engPlaces 0 q.hd .store (cAddr q.hd.word 5) 8 = .ok (own 0 8)) ∧
    (let q := copyCmd (BitVec.ofNat 256 8) [A4] 0; let s := copying q; let g := (s.core 0).mat.ring (cBits q.hd.word 3 2 0);
      s.CopyReady ref0 q ∧ g.fits false = true ∧ g.revoked = false ∧ g.count < g.slots ∧ s.engElems 0 q.hd A4 0 (shCount A4) = .ok [0, 0, 0, 0]) ∧
    (let q := copyCmd (BitVec.ofNat 256 (8 + 2 ^ 96)) [A4] 0; let s := copying q; let g := (s.core 0).mat.ring (cBits q.hd.word 3 2 0);
      g.fits false = true ∧ g.revoked = false ∧ g.slots ≤ g.count) ∧
    (let q := copyCmd (BitVec.ofNat 256 9) [A4] 0; let s := copying q;
      s.CopyReady ref0 q ∧ (s.core 0).heldBy q.hd.slot = some 0 ∧ ((s.core 0).win 0).vin.length < 4 ∧
      s.engElems 0 q.hd A4 (q.row * (512 / (typeOf (cBits q.hd.word 3 3 0)).width)) (min 64 (shCount A4 - 0)) = .ok [0, 0, 0, 0] ∧
      ((s.core 0).win 0).vout = 7 :: [] ∧ (∃ u, s.engPuts 0 q.hd A4 ((natsFrom 0 4).zip [7, 0, 0, 0]) = .ok u)) ∧
    (4 ≤ ({ Win.empty with vin := [1, 2, 3, 4] } : Win).vin.length ∧ Win.empty.vout = []) ∧
    (let q := copyCmd (BitVec.ofNat 256 (5 + (1 + 2 ^ 16) * 2 ^ 160)) [A4] 0; let s := copying q;
      s.CopyReady ref0 q ∧ s.engElems 0 q.hd A4 0 (shCount A4) = .ok [0, 0, 0, 0] ∧ s.castList 0 q = .ok [] ∧
      castDests s.grade q.hd.word [] = ([0], none)) ∧
    (let q := copyCmd (BitVec.ofNat 256 (6 + 2 * 2 ^ 192)) [A4] 0; let s := copying q; s.castList 0 q = .ok [0, 0]) ∧
    (let q : CopyCmd := { copyCmd (BitVec.ofNat 256 (5 + 2 ^ 12)) [A4] 1 with marks := [3] };
      (copying q).CopyReady ref0 q ∧ q.row ≠ 0 ∧ q.badAt = none ∧ q.marks = [3] ∧ cFlag q.hd.word 0 = true ∧ cFlag q.hd.word 1 = false ∧
      (copying q).engHome 0 = true) ∧
    (let q := copyCmd 0x0C [P2] 0; ∃ bs, pinning.rowBytes 0 q.hd P2 (natsFrom 0 2) = .ok bs ∧ bs.length = 2 ∧ ∃ u, pinning.pinBytes 0 q bs = .go u) ∧
    (let q : CopyCmd := { rows4 1 0 with st := .done 0 };
      ((copying q).core 0).copyQ.find? (fun q => q.hd.seq = ref0.seq) = some q ∧ q.notifies = 0 ∧ ((copying q).core 0).windowBusy = false ∧
      ((copying q).core 0).hwWait = [] ∧ cNotify (0x101 : CmdWord) = true) ∧
    ({ rows4 1 0 with notifies := 1 } : CopyCmd).notifies ≠ 0 ∧
    (let q : CopyCmd := { copyCmd (BitVec.ofNat 256 9) [A4] 0 with released := true };
      (copying q).CopyReady ref0 q ∧ q.released = true ∧ (copyCmd (BitVec.ofNat 256 9) [A4] 0).released = false ∧
      ((copying q).core 0).stopped = false) := by
  refine ⟨⟨copy_ready _ rfl rfl rfl, ?_, ?_, ?_, ?_, ?_, ok_of ?_⟩, ⟨copy_ready _ rfl rfl rfl, ?_, ?_, ?_, ok_of ?_⟩, ?_,
    ⟨copy_ready _ rfl rfl rfl, ?_, ?_, ok_of ?_, ?_, ok_exists ?_⟩, ?_, ⟨copy_ready _ rfl rfl rfl, ok_of ?_, ok_of ?_, ?_⟩, ok_of ?_,
    ⟨copy_ready _ rfl rfl rfl, ?_⟩, ⟨[(0x10000, (dram 0 1).head (by decide)), (0x10001, (dram 1 1).head (by decide))], ok_of ?_, rfl,
      go_exists ?_⟩, ?_, ?_, ⟨copy_ready _ rfl rfl rfl, ?_⟩⟩
  all_goals decide +kernel

/-- A matrix command with accumulator 1 and rings 0 and 1, alone in the queue of core 0, whose group holds the matrix state. -/
def matCmd (w : Nat) (bad : Nat) : MatCmd :=
  { hd := { word := BitVec.ofNat 256 w, seq := 0, ctx := 0, slot := 0, super := true, after := [], sees := [] }, fmt := 0, base := 0,
    carved := false, seed := 1, st := .waiting, row := 0, bad := bad, badAddr := 0, unread := false, payload := 0, requeued := false,
    revoked := false, lines := [] }
def ring1 : Ring := { Ring.empty with configured := true, count := 1 }
def matrix (q : MatCmd) : State := withCore (fun c => { c with
  mat := { Matrix.free with holder := some 0, queue := [q], rings := [(0, ring1), (1, { ring1 with base := 2048 })] } })
/-- Accumulator 1, rings 0 and 1. -/
def accRings : Nat := (1 + 2 ^ 5) * 2 ^ 32

theorem mat_ready (op bad : Nat) (h : (matrix (matCmd op bad)).matReady 0 = true) (t : (matrix (matCmd op bad)).matTurn 0 = true) :
    (matrix (matCmd op bad)).MatReady ref0 (matCmd op bad) :=
  ⟨by rfl, by rfl, .inl rfl, rfl, h, t, .inr ⟨rfl, rfl⟩⟩

/-- The same with ring 0 revoked. -/
def revokedRing (q : MatCmd) : State := (matrix q).modMat 0 (fun m => { m with
  rings := [(0, { ring1 with revoked := true }), (1, { ring1 with base := 2048 })] })
theorem revoked_ready (op : Nat) (h : (revokedRing (matCmd op 0)).matReady 0 = true) (t : (revokedRing (matCmd op 0)).matTurn 0 = true) :
    (revokedRing (matCmd op 0)).MatReady ref0 (matCmd op 0) :=
  ⟨by rfl, by rfl, .inl rfl, rfl, h, t, .inr ⟨rfl, rfl⟩⟩

/-- The states that the rows of an MSTACC to address 0 pass through. -/
def storing32 (q : MatCmd) : Nat → State
  | 0 => (matrix q).modCluster (cluKey 0) (fun c => { c with matTurn := idxOf 0 })
  | i + 1 => ((storing32 q i).engWrite 0 q.hd (BitVec.ofInt 64 (vaInt (cAddr q.hd.word 2) + (i : Int) * mStride q.hd.word))
      (accRow 0 (cSat q.hd.word) [] ((natsFrom 0 32).map (((storing32 q i).core 0).mat.accAt (mAcc q.hd.word) i)))).toOption.getD small

/-- R178: MZERO clears its accumulator and no other, and the command is done. -/
theorem test_mzero : let s := matrix (matCmd (0x21 + accRings) 0)
    let t := after (.mzero ref0) (s.modMat 0 (fun m => { m with acc := [(1024, 7), (2048, 8)] }))
    (t.core 0).mat.accAt 1 0 0 = 0 ∧ (t.core 0).mat.accAt 2 0 0 = 8 ∧ (t.core 0).mat.queue.map (·.st) = [.done 0] := by decide +kernel

theorem length_flatMap_one (f : BitVec 32 × BitVec 32 → List Byte) (h : ∀ p, (f p).length = 1) (l : List (BitVec 32 × BitVec 32)) :
    (l.flatMap f).length = l.length := by
  induction l with
  | nil => rfl
  | cons p l ih => simp [List.flatMap_cons, h, ih, Nat.add_comm]

theorem length_accRow (sat : Bool) (row : List (BitVec 32)) (n : row.length = 32) : (accRow 0 sat [] row).length = 32 := by
  have h : fmOut 0 = 0 := by decide +kernel
  unfold accRow
  rw [h]
  simp only [Nat.reduceEqDiff, if_false]
  rw [length_flatMap_one _ (fun p => by simp [leBytes, outBytes])]
  simp [n]

theorem writes_own (s : State) (h : CmdHead) (bs : List Byte) (n : bs.length = 32) : (s.engWrite 0 h 0 bs).toOption.isSome = true := by
  have e : s.engPlaces 0 h .store 0 32 = .ok (own 0 32) := by with_unfolding_all rfl
  unfold State.engWrite
  rw [n, e]
  rfl

theorem witness_MatrixCommands :
    (∀ op ∈ [0x20, 0x21, 0x22, 0x24, 0x25, 0x28, 0x29, 0x2A, 0x2B, 0x2C, 0x2D, 0x2E], (matrix (matCmd (op + accRings) 0)).MatReady ref0
      (matCmd (op + accRings) 0)) ∧
    ((matrix (matCmd 0x20 7)).MatReady ref0 (matCmd 0x20 7) ∧ (matCmd 0x20 7).bad ≠ 0 ∧ ((matrix (matCmd 0x20 7)).core 0).mat.err = none) ∧
    cOpcode (matCmd (0x21 + accRings) 0).hd.word = 0x21 ∧ cOpcode (matCmd (0x2E + accRings) 0).hd.word = 0x2E ∧
    (∀ i : Nat, i < 32 → (matrix (matCmd (0x22 + accRings) 0)).engRead 0 (matCmd (0x22 + accRings) 0).hd
      (BitVec.ofInt 64 (vaInt (cAddr (matCmd (0x22 + accRings) 0).hd.word 2) + (i : Int) * mStride (matCmd (0x22 + accRings) 0).hd.word)) 128 =
        .ok (List.replicate 128 0)) ∧
    (fmOut 0 ≠ 12 ∧ (fmMode 0).isRst = false ∧ cFlag (matCmd 0x23 0).hd.word 0 = false ∧ (matrix (matCmd 0x23 0)).MatReady ref0 (matCmd 0x23 0)) ∧
    (∀ i : Nat, i < 32 → (storing32 (matCmd 0x23 0) i).engWrite 0 (matCmd 0x23 0).hd
      (BitVec.ofInt 64 (vaInt (cAddr (matCmd 0x23 0).hd.word 2) + (i : Int) * mStride (matCmd 0x23 0).hd.word))
      (accRow 0 (cSat (matCmd 0x23 0).hd.word) [] ((natsFrom 0 32).map (((storing32 (matCmd 0x23 0) i).core 0).mat.accAt
        (mAcc (matCmd 0x23 0).hd.word) i))) = .ok (storing32 (matCmd 0x23 0) (i + 1))) ∧
    (let s := matrix (matCmd (0x2D + accRings) 0); let M := (s.core 0).mat
      (M.ring 0).configured = true ∧ (M.ring 1).configured = true ∧ (M.ring 0).revoked = false ∧ (M.ring 1).revoked = false ∧
      s.reqs = [] ∧
      s.slotBad (M.ring 0).carved ((M.ring 0).slotKey 0 (M.ring 0).head) (slotReads 64 false) = none ∧
      s.slotBad (M.ring 1).carved ((M.ring 1).slotKey 0 (M.ring 1).head) (slotReads 64 false) = none) ∧
    (let s := revokedRing (matCmd (0x28 + accRings) 0); s.MatReady ref0 (matCmd (0x28 + accRings) 0) ∧
      ((s.core 0).mat.ring 0).configured = true ∧ ((s.core 0).mat.ring 1).configured = true ∧ ((s.core 0).mat.ring 0).revoked = true ∧
      (s.core 0).mat.err = none) ∧
    (let q : MatCmd := { matCmd (0x2D + accRings) 0 with st := .done 0 }; let s := matrix q
      (s.core 0).mat.queue = q :: [] ∧ (s.core 0).stopped = false ∧ (s.core 0).mat.holder ≠ some endedHolder ∧ mRingA q.hd.word ≠ mRingB q.hd.word ∧
      isMma (cOpcode q.hd.word) = true ∧ isMma 0x20 = false) := by
  refine ⟨?_, ⟨mat_ready _ _ ?_ ?_, ?_, ?_⟩, ?_, ?_, ?_, ⟨?_, ?_, ?_, mat_ready _ _ ?_ ?_⟩, ?_, ?_, ⟨revoked_ready _ ?_ ?_, ?_⟩, ?_⟩
  · intro op h
    simp only [List.mem_cons, List.not_mem_nil, or_false] at h
    rcases h with h | h | h | h | h | h | h | h | h | h | h | h <;> subst h <;> refine mat_ready _ _ ?_ ?_ <;> decide +kernel
  · decide +kernel
  · decide +kernel
  · decide +kernel
  · decide +kernel
  · decide +kernel
  · decide +kernel
  · have a : mStride (matCmd (0x22 + accRings) 0).hd.word = 0 := by decide +kernel
    have b : vaInt (cAddr (matCmd (0x22 + accRings) 0).hd.word 2) = 0 := by decide +kernel
    intro i _
    rw [a, b, Int.mul_zero, Int.add_zero]
    exact ok_of (by decide +kernel)
  · decide +kernel
  · decide +kernel
  · decide +kernel
  · decide +kernel
  · decide +kernel
  · have a : mStride (matCmd 0x23 0).hd.word = 0 := by decide +kernel
    have b : vaInt (cAddr (matCmd 0x23 0).hd.word 2) = 0 := by decide +kernel
    intro i _
    obtain ⟨t, e⟩ := ok_exists (writes_own (storing32 (matCmd 0x23 0) i) (matCmd 0x23 0).hd
      (accRow 0 (cSat (matCmd 0x23 0).hd.word) [] ((natsFrom 0 32).map (((storing32 (matCmd 0x23 0) i).core 0).mat.accAt
        (mAcc (matCmd 0x23 0).hd.word) i))) (length_accRow _ _ (by simp; rfl)))
    simp only [a, b, Int.mul_zero, Int.add_zero]
    rw [storing32]
    simp only [a, b, Int.mul_zero, Int.add_zero]
    rw [show BitVec.ofInt 64 0 = (0 : Word) from rfl, e]
    rfl
  all_goals decide +kernel

/-! Collectives and the attention sweep. -/

/-- A collective command of core 0 in a collective of ranks 0 and 1, one line of INT8, and the collective it meets. -/
def collRec (root : Nat) : Rec := BitVec.ofNat 512 (64 * 2 ^ 64 + 2 * 2 ^ 160 + root * 2 ^ 192)
def collCmd (op : Nat) (sent : Bool) (st : CmdState) : CollCmd :=
  { hd := { word := BitVec.ofNat 256 op, seq := 0, ctx := 0, slot := 0, super := true, after := [], sees := [] }, rcd := collRec 0,
    st := st, sent := sent, bytes := [], cause := 0, addr := 0, lines := [], back := none }
def coll (op : Nat) (parts : Tbl (List Byte)) (aborted : Option (Nat × Nat)) : Coll :=
  { Coll.start (collCmd op true .waiting) with parts := parts, aborted := aborted }
def collecting (q : CollCmd) (cs : List Coll) (held : List Nat) : State := { withCore (fun c => { c with collQ := [q] }) with
  colls := cs, clusters := [(0, { Cluster.reset with combining := held })] }

theorem coll_ready (op : Nat) : (collecting (collCmd op false .waiting) [] []).CollReady ref0 (collCmd op false .waiting) :=
  ⟨rfl, .inl rfl, rfl, rfl⟩

/-- R353: the first contribution opens the collective and takes an entry of the combining table. -/
theorem test_contribution : let s := collecting (collCmd 0xC3 true .waiting) [] []
    let t := after (.collectiveContribution ref0 0) s
    t.colls.map (fun c => (c.opcode, c.parts.length)) = [(0xC3, 1)] ∧ (t.cluster 0).combining.length = 1 := by decide +kernel

theorem witness_Collectives :
    (∀ op ∈ [0xC0, 0xC1, 0xC2, 0xC3], (collecting (collCmd op false .waiting) [] []).CollReady ref0 (collCmd op false .waiting)) ∧
    ((collCmd 0xC0 false .waiting).sent = false ∧ cOpcode (collCmd 0xC0 false .waiting).hd.word = 0xC0 ∧
      rankOf 0 - crRank0 (collRec 0) = crRoot (collRec 0) ∧ rankOf 0 - crRank0 (collRec 1) ≠ crRoot (collRec 1)) ∧
    (collecting (collCmd 0xC0 false .waiting) [] []).engRead 0 (collCmd 0xC0 false .waiting).hd (crIn (collRec 0)) (64 * crLines (collRec 0)) =
      .ok (List.replicate 64 0) ∧
    (let q := collCmd 0xC0 true .waiting; let s := collecting q [] [];
      s.coll? ref0 = some q ∧ q.sent = true ∧ q.back = none ∧ q.cause = 0 ∧ s.collOf (crKey q.rcd) 0 = none ∧
      (s.cluster 0).combining.length < 32) ∧
    (∀ n ∈ [0, 1], let t : Word := -128 * BitVec.ofNat 64 n; let q := { collCmd 0xC0 true .waiting with back := some t };
      let s := collecting q [] []; s.coll? ref0 = some q ∧ s.feGapOver 0 t = (n == 1)) ∧
    (let q := collCmd 0xC0 true .waiting; let c := coll 0xC0 [(1, [])] none; let s := collecting q [c] (natsFrom 0 32);
      s.coll? ref0 = some q ∧ s.collOf (crKey q.rcd) 0 = some c ∧ c.agrees q = true ∧ tfind 0 c.parts = none ∧
      crKey q.rcd ∉ (s.cluster 0).combining ∧ 32 ≤ (s.cluster 0).combining.length) ∧
    (let q := collCmd 0xC2 true .waiting; let c := coll 0xC2 [(0, [5]), (1, [])] none; let s := collecting q [c] [];
      s.coll? ref0 = some q ∧ q.st = .waiting ∧ (s.core 0).stopped = false ∧ q.sent = true ∧ s.collOf (crKey q.rcd) 0 = some c ∧
      c.ready = true ∧ c.aborted = none ∧
      (s.chip 0).xset c.cid = none ∧ (∃ u, s.engWrite 0 q.hd (crOut q.rcd) (s.collResult 0 c) = .ok u)) ∧
    (let q := collCmd 0xC3 true .waiting; let c := coll 0xC3 [(0, []), (1, [])] none; let s := collecting q [c] [];
      s.coll? ref0 = some q ∧ s.collOf (crKey q.rcd) 0 = some c ∧ c.ready = true ∧
      ¬(c.opcode = 0xC1 ∨ c.opcode = 0xC2 ∨ (c.opcode = 0xC0 ∧ 0 = c.root))) ∧
    (let q := collCmd 0xC0 true .waiting; let c := coll 0xC0 [] (some (1, 7)); let s := collecting q [c] [];
      s.collOf (crKey q.rcd) 0 = some c ∧ c.ready = true ∧ c.aborted = some (1, 7) ∧ q.cause = 0 ∧ (s.ctx 0 0).copyErr = none) ∧
    (let q := collCmd 0xC0 true (.done 0); let s := collecting q [] [];
      s.coll? ref0 = some q ∧ q.st = .done 0 ∧ s.engHome 0 = true ∧ (away s).engHome 0 = false) := by
  refine ⟨fun op _ => coll_ready op, by decide +kernel, ok_of (by decide +kernel), ?_, ?_, ?_, ⟨?_, ?_, ?_, ?_, ?_, ?_, ?_, ?_, ok_exists ?_⟩, ?_, ?_, ?_⟩
  all_goals decide +kernel

/-- A sweep command of core 0 for sweep n, slot 0 of cluster 0, partial 0; the state with a merge buffer of one slot there. -/
def sweepWord (op n : Nat) (last : Bool) : CmdWord :=
  BitVec.ofNat 256 (op + (if last then 2 ^ 12 else 0) + n * 2 ^ 32 + (512 * 2 ^ 46) * 2 ^ 96)
def sweepCmd (w : CmdWord) (reg : Bool) : SweepCmd :=
  { hd := { word := w, seq := 0, ctx := 0, slot := 0, super := true, after := [], sees := [] }, entry := true, st := .waiting,
    result := 0, since := 0, registered := reg, lines := [] }
def sweep (st : SweepState) (bound : Nat) : Sweep :=
  { st := st, pblk := 1, hd := 1, keyid := 0, det := false, bound := bound, closer := none }
def qslot (st : SlotState) (n : Option Nat) : QSlot :=
  { st := st, sweep := 255, m := 0, l := 0, o := [], next := 0, n := n, count := 0, ranks := [0], idxs := [0] }
def sub (st : SubState) (apart : Option Nat) : Sub :=
  { sweep := 255, qs := 0, idx := 0, loff := 64, last := true, ctx := 0, slot := 0, st := st, apart := apart, poff := 0, nacked := false,
    since := 0, nackAt := -128 }
def merged (slots : Tbl QSlot) (entries : Nat) : Cluster := { Cluster.reset with
  carve := { state := 1, ways := 8, backing := 0 }, merge := { Merge.none with nslots := 1, nentries := entries, hd := 1, slots := slots } }
def sweeping (q : SweepCmd) (x : Option Sweep) (subs : List Sub) (c : Cluster) (w : Wait) : State := { withCore (fun k => { k with
  ctxs := [(0, { ctx0 with wait := w })], sweepQ := [q], subs := subs }) with
  sweeps := (match x with
    | none => []
    | some x => [(255, x)]), clusters := [(0, c)] }

theorem sweep_ready (w : CmdWord) (reg : Bool) (x : Option Sweep) (subs : List Sub) (c : Cluster) :
    (sweeping (sweepCmd w reg) x subs c .none).SweepReady ref0 (sweepCmd w reg) := ⟨rfl, rfl, rfl, rfl, rfl⟩

/-- R410: ASOPEN opens a sweep that is not open, and answers 1 for one that is. -/
theorem test_asopen : let w := sweepWord 0xA0 255 false
    ((after (.asopen ref0) (sweeping (sweepCmd w false) none [] Cluster.reset .none)).sweeps.map (·.1) = [255]) ∧
    (after (.asopen ref0) (sweeping (sweepCmd (w ||| 0x100) false) (some (sweep .opened 0)) [] Cluster.reset .none)).here.window.map (·.words)
      = [[0x01000000000000A0]] := by decide +kernel

theorem witness_SweepCommands :
    (∀ w, (sweeping (sweepCmd w false) none [] Cluster.reset .none).SweepReady ref0 (sweepCmd w false)) ∧ swNum (sweepWord 0xA0 255 false) = 255 ∧
    (tfind 255 (sweeping (sweepCmd 0 false) none [] Cluster.reset .none).sweeps = none ∧
      tfind 255 (sweeping (sweepCmd 0 false) (some (sweep .opened 0)) [] Cluster.reset .none).sweeps = some (sweep .opened 0) ∧
      (sweep .sweeping 0).st ≠ .opened) ∧
    (let s := sweeping (sweepCmd (sweepWord 0xA3 255 false) false) none [sub .delivered none] Cluster.reset .none;
      s.SweepReady ref0 (sweepCmd (sweepWord 0xA3 255 false) false) ∧ (sweepCmd (sweepWord 0xA3 255 false) false).entry = true ∧
      (∀ u ∈ (s.core 0).subs, u.st ≠ .parked) ∧ s.sub? 0 (swName (sweepWord 0xA3 255 false)) = some (sub .delivered none) ∧ small.sub? 0 sub0 = none) ∧
    (cBits (0xA4 + 2 ^ 64 : CmdWord) 2 7 0 ≠ 0 ∧ cBits (0xA4 : CmdWord) 2 7 0 = 0) ∧
    (cBits (0xA5 : CmdWord) 1 23 0 = 0 ∧ small.qslot 0 = none ∧ swLast (0x10A5 : CmdWord) = true ∧ swLast (0xA5 : CmdWord) = false) ∧
    (∀ st ∈ [SlotState.bound, .complete, .error 9], let s := sweeping (sweepCmd 0xA5 false) none [] (merged [(0, qslot st none)] 2) .none;
      s.qslot 0 = some (qslot st none) ∧ (s.ctx 0 0).copyErr = none ∧
      ((s.handOver ref0).engWrite 0 (sweepCmd 0xA5 false).hd (cAddr (sweepCmd 0xA5 false).hd.word 2) ((qslot st none).bytes .bf16)).toOption.isSome = true) := by
  refine ⟨fun w => sweep_ready w _ _ _ _, ?_, ?_, ⟨sweep_ready _ _ _ _ _, ?_⟩, ?_, ?_, ?_⟩
  all_goals decide +kernel

/-- A page of the sweep at controller 0, and a delivery of 64 bytes to the subscription. -/
def kvpage (st : KvState) : KvPage := { sweep := 255, pa := 512 * 2 ^ 46, st := st, copy := [], subs := [] }
def delivery : KvDelivery :=
  { sweep := 255, pa := 512 * 2 ^ 46, sub := { core := 0, qs := 0, idx := 0, loff := 65464, last := true, late := false },
    bytes := List.replicate 64 1, catchUp := false, nacked := false }
def delivering (full : List Nat) (sub : List Sub) (fes : List FeReq) : State := { sweeping (sweepCmd 0 false) none sub
  { Cluster.reset with deliveries := [delivery] } .none with full := full, fes := fes }
def resent : FeReq := { feReq 6 2 with core := 0, ctx := 8 }

/-- R419: the only partial of a slot completes it. -/
theorem test_partial : let s := sweeping (sweepCmd 0 false) (some (sweep .opened 1)) [sub .delivered (some 3)] (merged [(0, qslot .bound (some 1))] 2) .none
    let t := after (.partialArrival 0 255 sub0.page) s
    (t.qslot 0).map (fun q => (q.st, q.count)) = some (.complete, 1) ∧ (t.core 0).subs = [] := by decide +kernel

theorem witness_SweepEvents :
    (let W := sweepWord 0xA1 255 true; let q := sweepCmd W false;
      (∀ x ∈ [none, some (sweep .opened 0)], let s := sweeping q x [] (merged [] 2) (.asub 0);
        s.sweep? ref0 = some q ∧ q.registered = false ∧ (s.ctx 0 q.hd.ctx).wait = .asub ref0.seq ∧ q.hd.ctx < 8) ∧
      (sweeping q none [] (merged [] 2) (.asub 0)).slotReason W (sweep .opened 0) 0 = 0 ∧
      (sweeping q none [] Cluster.reset (.asub 0)).slotReason W (sweep .opened 0) 0 ≠ 0 ∧ (sweep .opened 0).st ≠ .closedDone) ∧
    (let W := sweepWord 0xA1 255 true; let q := sweepCmd W true; let ctl := (small.locOfKey (swPa W) 0).clu;
      let s := sweeping q (some (sweep .opened 1)) [] (merged [] 2) .none;
      let u := { s with clusters := [(ctl, { Cluster.reset with pages := [kvpage .fetching] })] };
      s.sweep? ref0 = some q ∧ q.registered = true ∧ tfind (swNum W) s.sweeps = some (sweep .opened 1) ∧
      (s.cluster ctl).waitingSubs = [] ∧ (s.cluster ctl).kvEntries < 1024 ∧ (s.cluster ctl).marks.contains (255, swPa W) = false ∧
      (s.cluster ctl).kvPage 255 (swPa W) = none ∧ (s.cluster ctl).pages.length < 64 ∧
      (u.cluster ctl).waitingSubs = [] ∧ (u.cluster ctl).kvPage 255 (swPa W) = some (kvpage .fetching) ∧ (kvpage .fetching).st ≠ .sending) ∧
    (let s := sweeping (sweepCmd 0 false) (some (sweep .opened 1)) [] { Cluster.reset with pages := [kvpage .fetching] } .none;
      (s.cluster 0).kvPage 255 (512 * 2 ^ 46) = some (kvpage .fetching) ∧ tfind 255 s.sweeps = some (sweep .opened 1) ∧
      s.kvOpen 0 (sweep .opened 1) (512 * 2 ^ 46) = true ∧ s.kvRead (sweep .opened 1) (512 * 2 ^ 46) = .ok (List.replicate 64 0) ∧
      s.kvOpen 132 (sweep .opened 1) (512 * 2 ^ 46) = false) ∧
    (let s := delivering [] [sub .waiting none] []; let w := lmemKey 0 65528;
      s.kvDelivery 0 sub0 = some (0, delivery) ∧ s.fes = [] ∧ s.subWaits 0 sub0 = true ∧ s.pathOpen (s.epOfClu 0) (s.epOfCore 0) = true ∧
      s.coreGone (ownerOf w) = false ∧ w ∉ s.full ∧ delivery.sub.loff + delivery.bytes.length + 8 ≤ 65536 ∧
      w ∈ (delivering [w] [sub .waiting none] []).full ∧ (delivering [] [] []).subWaits 0 sub0 = false) ∧
    (let s := delivering [] [sub .waiting none] [resent];
      s.fes = [resent] ∧ resent.op = 6 ∧ resent.core = 0 ∧ resent.sub = sub0 ∧ resent.st = 2 ∧ resent.ctx = 8 ∧
      resent.remote = true ∧ resent.word ∉ s.full ∧ s.subWaits 0 sub0 = true ∧ s.coreGone (ownerOf resent.word) = false ∧
      s.kvDelivery 0 sub0 = some (0, delivery) ∧ s.feGapOver 0 resent.since = true ∧ s.feGapOver 0 0 = false) ∧
    (∀ x ∈ [sweep .sweeping 1, sweep .closedDone 0, sweep .opened 0], let s := sweeping (sweepCmd 0 false) (some x) [] Cluster.reset .none;
      tfind 255 s.sweeps = some x ∧ (∀ e ∈ s.clusters, ∀ p ∈ e.2.pages, p.sweep ≠ 255) ∧ x.closer = none) ∧
    (let s := sweeping (sweepCmd 0 false) (some (sweep .opened 1)) [sub .delivered (some 3)] (merged [(0, qslot .bound (some 1))] 2) .none;
      s.sub? 0 sub0 = some (sub .delivered (some 3)) ∧ s.sweep? { core := 0, seq := 3 } = none ∧
      s.pathOpen (s.epOfCore 0) (s.epOfClu (qsClu 0)) = true ∧ s.qslot 0 = some (qslot .bound (some 1)) ∧
      tfind 255 s.sweeps = some (sweep .opened 1) ∧ s.partialBytes 0 0 1 = .ok (List.replicate 68 0) ∧ (s.merge 0).entries = [] ∧
      (qslot .bound (some 1)).next = 0 ∧ (s.merge 0).nslots < (s.merge 0).nentries) ∧
    (let s := sweeping (sweepCmd 0 false) none [sub .parked (some 3)] Cluster.reset .none;
      s.sub? 0 sub0 = some (sub .parked (some 3)) ∧ (sub .parked (some 3)).apart ≠ none ∧
      s.feGapOver 0 (sub .parked none).nackAt = true ∧ s.feGapOver 0 0 = false) ∧
    (let q := sweepCmd 0xA5 true; let s := sweeping q none [] (merged [(0, qslot .bound none)] 2) .none;
      s.sweep? ref0 = some q ∧ cOpcode q.hd.word = 0xA5 ∧ q.registered = true ∧ s.qslot (cBits q.hd.word 1 23 0) = some (qslot .bound none) ∧
      s.mbExpired 0 655360000000 q.since = true ∧ s.mbExpired 0 655359999999 q.since = false ∧ (s.ctx 0 0).copyErr = none) := by
  refine ⟨?_, ?_, ⟨?_, ?_, ?_, ?_, ?_⟩, ?_, ?_, ?_, ⟨?_, ?_, ?_, ?_, ?_, ?_, ?_⟩, ?_, ?_⟩
  all_goals first | decide +kernel | exact ok_of (by decide +kernel)

/-! Contexts, the end of a strand, and work queues. -/

/-- A range of core 0's local memory, by its offset. -/
theorem places_own {s : State} {acc : Acc} {va : Word} {off len : Nat} (h : acc ≠ .fetch) (e : va.toNat = off) (n : off + len ≤ 65536)
    (p : s.badParity = []) (c : s.curCore = 0) : s.places s.whoCur acc va len = .ok (own off len) := by
  have w : s.whoCur.core = 0 := c
  rw [places_window s s.whoCur h (e ▸ n) p, w, e]
  rfl

def reaches (s : State) (d : Word) (k n : Nat) : Bool :=
  decide (s.cur.super = true ∧ k = (if d.getLsbD 8 = true ∨ isMgmt s.curCore = true then s.curCore else s.curCore / 17 * 17 + bits d 7 3) ∧
    (d.getLsbD 8 = true ∨ (bits d 7 3 ≤ 16 ∧ (isCompute s.curCore = true → bits d 7 3 = idxOf s.curCore) ∧
      (isMgmt s.curCore = true → bits d 7 3 = 0))) ∧ n = bits d 2 0 ∧ s.coreGone k = false)

theorem may_name {s : State} {d : Word} {k n : Nat} (h : reaches s d k n = true) : s.MayName d k n :=
  let ⟨a, b, c, e, f⟩ := of_decide_eq_true h
  ⟨a, b, c, e, f⟩

theorem names {s : State} {d : Word} {k n : Nat} (h : reaches s d k n = true) (c : d.getLsbD 24 = true → (s.ctx k n).tseq = bits d 23 16) :
    s.Names d k n := { may_name h with chk := c }

/-- Core 0 with a designator and an address in registers, and another context n. -/
def naming (d v : Word) (n : Nat) (x : Ctx) : State :=
  withCore (fun c => { c with ctxs := [(0, { ctx0 with x := [(1, d), (2, v)] }), (n, x)] })
def trapped1 : Ctx := { ctx0 with st := .trapped, pc := 0x20000, epc := 0x20000, ecause := 5, cause := 5 }
def saved1 : Ctx := { trapped1 with st := .saved, ecause := 0, cause := 0 }

/-- The end of an image at the start of the local window: the magic, ictl with the supervisor bit, its class byte. -/
def image (magic ictl cls : Byte) : State :=
  { naming 1 0 1 saved1 with mem := (if ictl = 0 then [] else [(360, ictl)]) ++ (if cls = 0 then [] else [(361, cls)]) ++
      (if magic = 0 then [] else [(504, magic)]) ++ [(505, 0xE1), (507, 2)] }

/-- A kernel of state st, and the core whose slot 0 holds its group 0. -/
def kern (st : KState) : Kernel := { Kernel.fresh 0 0 0 0 with st := st }
def kern1 (st : KState) (gst : GState) : Kernel :=
  { kern st with desc := BitVec.ofNat 512 (2 ^ 64 + 2 ^ 80 + 2 ^ 96), groups := [(0, { Group.none with st := gst })] }
def grouped (s : State) : State := { s with
  kernels := [(5, kern1 .running .running)]
  cores := s.cores.map (fun e => (e.1, ({ e.2 with slots := [(0, { kid := 5, g := some 0, k := 0 })] } : Core))) }

/-- R272: CRESUME lets a TRAPPED context go on at its epc; R271: CKILL frees a strand that is not its group's last. -/
theorem test_cresume : let s := naming 1 0 1 trapped1
    ((after (.cresume 1) s).ctx 0 1).st = .strand ∧ ((after (.cresume 1) s).ctx 0 1).pc = 0x20000 ∧
    ((after (.ckill 1) (naming 1 0 1 { trapped1 with ecause := 0, cause := 0 })).ctx 0 1).st = .free := by decide +kernel

/-- R270: the image holds epc first and the magic last. -/
theorem test_csave : let t := after (.csave 1 2) (naming 1 0 1 trapped1)
    (t.ctx 0 1).st = .saved ∧ Memory.byte 2 t.mem = 2 ∧ Memory.byte 504 t.mem = 0xC0 ∧ Memory.byte 505 t.mem = 0xE1 := by decide +kernel

theorem witness_ContextInstructions :
    (user.cur.super = false ∧ small.cur.super = true) ∧
    ((136 : Word).getLsbD 8 = false ∧ 16 < bits (136 : Word) 7 3 ∧ bits (128 : Word) 7 3 ≤ 16 ∧ isCompute small.curCore = true ∧
      bits (128 : Word) 7 3 ≠ idxOf small.curCore) ∧
    (let d : Word := 0x1010001; let s := naming d 0 1 trapped1; s.MayName d 0 1 ∧ d.getLsbD 24 = true ∧ (s.ctx 0 1).tseq ≠ bits d 23 16 ∧
      bits (0 : Word) 5 0 = 0) ∧
    ((naming 1 32 1 trapped1).MayName 1 0 1 ∧ bits (32 : Word) 5 0 ≠ 0) ∧
    (∀ x ∈ [trapped1, saved1, { ctx0 with pc := 0x20000 }], let s := naming 1 0 1 x; let x := s.ctx 0 1;
      let u := if x.running = true then s.stopCtx 0 1 cSAVE_REQUEST else s;
      s.Names 1 0 1 ∧ s.NotSelf 0 1 ∧ s.here.watch = [] ∧ s.settled ∧ s.cur.wait = .none ∧
      (x.running = true ∨ x.st = .trapped ∨ x.st = .saved) ∧ (x.wait = .none ∨ (x.running = false ∧ x.wait = .stop)) ∧
      u.stopped 0 1 = true ∧ u.places u.whoCur .store 0 512 = .ok (own 0 512)) ∧
    ((∀ l ∈ own 0 512, small.wayOpen 0 l = true ∧ l.kind = .own) ∧ Loc.Apart (own 0 2)) ∧
    (let s := image 0xC0 0x80 0;
      s.Names 1 0 1 ∧ s.NotSelf 0 1 ∧ (s.ctx 0 1).st = .saved ∧ s.places s.whoCur .load 0 512 = .ok (own 0 512) ∧
      s.waysOpen 0 (own 0 512) = true ∧ imgWord ((own 0 512).map (s.seenByte 0 0)) 63 = 0x0200E1C0 ∧
      (imgWord ((own 0 512).map (s.seenByte 0 0)) 45).getLsbD 7 = (s.ctx 0 1).super ∧
      bits (imgWord ((own 0 512).map (s.seenByte 0 0)) 45) 9 8 = 0) ∧
    imgWord ((own 0 512).map ((image 0xC1 0x80 0).seenByte 0 0)) 63 ≠ 0x0200E1C0 ∧
    (imgWord ((own 0 512).map ((image 0xC0 0 0).seenByte 0 0)) 45).getLsbD 7 ≠ ((image 0xC0 0 0).ctx 0 1).super ∧
    bits (imgWord ((own 0 512).map ((image 0xC0 0x80 1).seenByte 0 0)) 45) 9 8 ≠ 0 ∧
    (∀ st ∈ [CtxState.free, .strand], let s := naming 1 0 1 { trapped1 with st := st }; s.Names 1 0 1 ∧ (s.ctx 0 1).st = st) ∧
    (let s := naming 0 0 1 ctx0; s.Names 0 0 0 ∧ ¬s.NotSelf 0 0 ∧ (s.ctx 0 0).running = true ∧ s.strandsOf 0 (s.ctx 0 0).slot ≠ [0] ∧
      (s.ctx 0 0).cause = 0 ∧ s.mutexesOf 0 0 = []) ∧
    (let s := naming 1 0 1 { trapped1 with ecause := 0, cause := 0 }; s.Names 1 0 1 ∧ s.NotSelf 0 1 ∧ (s.ctx 0 1).st = .trapped ∧ (s.ctx 0 1).wait ≠ .stop ∧
      s.strandsOf 0 (s.ctx 0 1).slot ≠ [1]) ∧
    (∀ y ∈ [0, 5], let s := grouped (naming 1 0 1 { trapped1 with ecause := BitVec.ofNat 64 y, cause := y, slot := 0 }); let s := { s with
        cores := s.cores.map (fun (e : Nat × Core) => (e.1, { e.2 with ctxs := e.2.ctxs.map (fun (c : Nat × Ctx) =>
          (c.1, if c.1 = 0 then { c.2 with slot := 1 } else c.2)) })) };
      s.Names 1 0 1 ∧ s.NotSelf 0 1 ∧ (s.ctx 0 1).st = .trapped ∧ s.strandsOf 0 (s.ctx 0 1).slot = [1] ∧
      s.groupAt 0 0 = some (5, 0) ∧ s.kernel? 5 = some (kern1 .running .running) ∧ (kern1 .running .running).st = .running ∧
      ((kern1 .running .running).group 0).bound = true ∧ kdPolicy (kern1 .running .running).desc = 0) ∧
    (let s := naming 6 0 6 { trapped1 with resv := 1, resvChan := 3 }; s.Names 6 0 6 ∧ s.NotSelf 0 6 ∧ (s.ctx 0 6).st = .trapped ∧
      (s.ctx 0 6).resv ≠ 0) ∧
    ¬(small.cur.st = .firing ∧ small.cur.chan = 31) ∧
    (let s := withCore (fun c => { c with ctxs := [(0, { ctx0 with st := .firing, chan := 31, words := [1] }), (1, trapped1)] });
      s.cur.st = .firing ∧ s.cur.chan = 31 ∧ s.cur.copyErr = none ∧ s.Names (s.cur.words.headD 0) 0 1 ∧ s.NotSelf 0 1 ∧
      (s.ctx 0 1).st = .trapped) := by
  refine ⟨?_, ?_, ⟨may_name ?_, ?_, ?_, ?_⟩, ⟨may_name ?_, ?_⟩, ?_, ⟨?_, ?_⟩, ⟨names ?_ ?_, ?_, ?_, places_own ?_ ?_ ?_ rfl ?_, ?_, ?_, ?_, ?_⟩,
    ?_, ?_, ?_, ?_, ⟨names ?_ ?_, ?_, ?_, ?_, ?_, ?_⟩, ⟨names ?_ ?_, ?_, ?_, ?_, ?_⟩, ?_, ⟨names ?_ ?_, ?_, ?_, ?_⟩, ?_,
    ⟨?_, ?_, ?_, names ?_ ?_, ?_, ?_⟩⟩
  case refine_9 =>
    intro x h
    simp only [List.mem_cons, List.not_mem_nil, or_false] at h
    rcases h with h | h | h <;> subst h <;>
      refine ⟨names ?_ ?_, ?_, ?_, ?_, ?_, ?_, ?_, ?_, places_own ?_ ?_ ?_ rfl ?_⟩ <;> first | decide +kernel | (unfold State.NotSelf; decide +kernel) | exact ⟨by decide, by decide⟩
  case refine_41 =>
    intro y h
    simp only [List.mem_cons, List.not_mem_nil, or_false] at h
    rcases h with h | h <;> subst h <;>
      exact ⟨names (by decide +kernel) (by decide +kernel), by unfold State.NotSelf; decide +kernel, by decide +kernel⟩
  case refine_27 =>
    intro st h
    simp only [List.mem_cons, List.not_mem_nil, or_false] at h
    rcases h with h | h <;> subst h <;> exact ⟨names (by decide +kernel) (by decide +kernel), by decide +kernel⟩
  all_goals first | decide +kernel | (unfold State.NotSelf; decide +kernel) | (unfold Loc.Apart; decide +kernel)

/-- Core 0 with another strand, of the group of slot 1, or waiting. -/
def twoGroups (w v : Wait) : State := withCore (fun c => { c with
  ctxs := [(0, { ctx0 with wait := w }), (1, { ctx0 with slot := 1, wait := v })] })
def giving (v : Wait) : State := { twoGroups .none v with
  cores := (twoGroups .none v).cores.map (fun e => (e.1, ({ e.2 with gives := [(0, 0, [1])] } : Core))) }
def lastStrand : State := grouped small

/-- R328: the last strand retires its group, which reports. -/
theorem test_retire : let t := after .retire lastStrand
    (t.ctx 0 0).st = .free ∧ t.reqs.map (fun r => (r.kind, r.src, r.dst)) = [(.token (.groupRetirementReport 5 0), 0, 576)] := by
  decide +kernel

theorem witness_StrandsEnd :
    firing.cur.st ≠ .strand ∧
    (let s := withMutex { holder := some (0, 0), broken := false, waiters := [] }; s.cur.st = .strand ∧ s.mutexesOf 0 0 ≠ []) ∧
    (let s := withCore (fun c => { c with copyQ := [copyCmd 1 [] 0] }); ∃ q ∈ s.here.copyQ, q.hd.ctx = 0) ∧
    (let s := withCore (fun c => { c with collQ := [collCmd 0xC3 false .waiting] }); ∃ q ∈ s.here.collQ, q.hd.ctx = 0) ∧
    (let s := withCore (fun c => { c with window := [msg 0] }); s.cur.st = .strand ∧ s.mutexesOf 0 0 = [] ∧ s.here.copyQ = [] ∧
      s.here.collQ = [] ∧ s.copyWords 0 0 = false ∧ s.messagesOf 0 0 = true) ∧
    (∀ e ∈ [none, some due], let s := withCore (fun c => { c with ctxs := [(0, { ctx0 with copyErr := e }), (1, ctx0)] });
      s.cur.st = .strand ∧ s.mutexesOf 0 0 = [] ∧ s.here.copyQ = [] ∧ s.here.collQ = [] ∧ s.copyWords 0 0 = false ∧
      s.messagesOf 0 0 = false ∧ s.strandsOf 0 s.cur.slot ≠ [0] ∧ s.cur.xportErr = none ∧ s.cur.copyErr = e) ∧
    (let s := lastStrand; let y := kern1 .running .running;
      s.cur.st = .strand ∧ s.mutexesOf 0 0 = [] ∧ s.here.copyQ = [] ∧ s.here.collQ = [] ∧ s.copyWords 0 0 = false ∧
      s.messagesOf 0 0 = false ∧ s.strandsOf 0 s.cur.slot = [0] ∧ s.cur.copyErr = none ∧ s.cur.xportErr = none ∧ s.here.mat.err = none ∧
      s.here.mat.holder = none ∧ s.groupStores 0 0 (s.groupAt 0 s.cur.slot) = false ∧ s.groupAt 0 s.cur.slot = some (5, 0) ∧ s.kernel? 5 = some y ∧ y.st = .running) ∧
    (small.cur.st = .strand ∧ small.otherStrands 0 0 = []) ∧
    ((twoGroups .none .window).otherStrands 0 0 = [1] ∧ ∀ m ∈ [1], (twoGroups .none .window).eligible 0 m = false) ∧
    ((twoGroups .none .none).otherStrands 0 0 = [1] ∧ ∃ m ∈ [1], (twoGroups .none .none).eligible 0 m = true) ∧
    (let s := giving .window; (s.core 0).gives = [(0, 0, [1])] ∧ ∀ p ∈ [1], s.eligible 0 p = false) ∧
    (let s := giving .none; let u := { s with chips := [(0, { Chip.reset with cycle := 1024 })] };
      (∃ p ∈ [1], s.eligible 0 p = true) ∧ s.cycleOf 0 - 0 < 1024 ∧ 1024 ≤ u.cycleOf 0 - 0 ∧ (u.core 0).gives = [(0, 0, [1])]) := by
  refine ⟨?_, ?_, ?_, ?_, ?_, ?_, ?_, ?_, ?_, ?_, ?_, ?_⟩
  all_goals decide +kernel

/-- The executing context names queue 1023 and a buffer; the queue is w. -/
def queued (w : Wq) (buf : Word) : State := { at_ [(1, 1023), (2, buf)] with queues := [(1023, w)], mem := [(0, 2)] }
def wq (st : WqState) (head tail : Nat) (r : Rec) : Wq := { Wq.reset with st := st, head := head, tail := tail, slots := [(head % 64, r)] }
def poppers (n : Nat) (w : Wq) : Wq := { w with waiters := List.replicate n (1, 0) }
/-- A user-level context and a queue that lets it pop and push, or not. -/
def userQueued (allowed : Bool) : State := { withCtx (fun c => { c with super := false, x := [(1, 1023)] }) with
  queues := [(1023, { wq .opened 0 1 2 with userPop := allowed, userPush := allowed })] }

/-- R299: WQPOP takes the head record to the buffer; R302: a LAUNCH answers the kid. -/
theorem test_wqpop : let t := after (.wqpop 5 1 2) (queued (wq .opened 65535 0 0x502) 64)
    t.rx 5 = 0 ∧ (t.wq 1023).head = 0 ∧ Memory.byte 64 t.mem = 2 ∧ Memory.byte 65 t.mem = 5 := by decide +kernel
theorem test_launch : (after (.launch 5 1 2) { queued (wq .opened 0 0 0) 0 with mem := [(0, 1)] }).rx 5 = 0xFFC0000000000000 := by
  decide +kernel

theorem witness_WorkQueues :
    firing.cur.st = .firing ∧ (small.cur.st = .strand ∧ bits (0x400 : Word) 63 10 ≠ 0) ∧
    (let s := queued (wq .opened 65535 0 2) 64; s.rx 1 = BitVec.ofNat 64 1023 ∧ s.here.watch = [] ∧
      s.places s.whoCur .store (s.rx 2) 64 = .ok (own 64 64) ∧ (s.wq 1023).st = .opened ∧ (s.wq 1023).held ≠ 0 ∧
      recKind ((s.wq 1023).nth 0) = 2 ∧ (s.wq 1023).waiters = [] ∧ s.cur.wait = .none ∧
      ∀ l ∈ own 64 64, s.wayOpen 0 l = true ∧ l.kind = .own) ∧
    bits (63 : Word) 5 0 ≠ 0 ∧ ((userQueued false).cur.super = false ∧ ((userQueued false).wq 1023).userPop = false) ∧
    ((userQueued true).cur.super = false ∧ ((userQueued true).wq 1023).userPop = true ∧ ((userQueued true).wq 1023).userPush = true) ∧
    (∀ st ∈ [WqState.closed, .disabled, .error], let w := (queued (wq st 0 0 0) 0).wq 1023;
      ¬(w.st = .opened ∨ w.st = .suspended ∨ w.st = .draining) ∧ w.st ≠ .opened ∧ w.st ≠ .suspended) ∧
    (∀ n ∈ [0, 63, 64], let w := (queued (poppers n (wq .opened 7 7 0)) 0).wq 1023; w.st = .opened ∧ w.held = 0 ∧ w.waiters.length = n) ∧
    (wq .suspended 0 1 0).held ≠ 0 ∧ small.cur.xportErr = none ∧
    (let s := queued (wq .opened 0 63 0) 0; s.places s.whoCur .load 0 64 = .ok (own 0 64) ∧ s.waysOpen 0 (own 0 64) = true ∧
      2 = BitVec.ofNat 512 (leNat ((own 0 64).map (s.seenByte 0 0))) ∧ recKind 2 = 2 ∧ rBytes 2 1 3 = 0 ∧ recKind 1 = 1 ∧
      (s.wq 1023).held < 64 ∧ s.cur.unacked = 0) ∧
    1 = BitVec.ofNat 512 (leNat ((own 0 64).map ({ queued (wq .opened 0 0 0) 0 with mem := [(0, 1)] }.seenByte 0 0))) ∧
    64 ≤ (wq .opened 0 64 0).held ∧
    (let w := wq .opened 65535 0 2; w.userPush = false ∧ 32768 ≤ (32768 % 65536 + 65536 - w.tail) % 65536 ∧
      (65 % 65536 + 65536 - w.tail) % 65536 < 32768 ∧ 64 < (64 % 65536 + 65536 - w.head) % 65536 ∧
      (63 % 65536 + 65536 - w.head) % 65536 ≤ 64) ∧
    ((wq .disabled 0 0 0).st = .disabled ∧ small.trust.safe = false ∧ (wq .suspended 0 0 0).held = 0 ∧ (wq .opened 0 1 2).held ≠ 0 ∧
      recKind ((wq .opened 0 1 2).nth 0) = 2 ∧ (wq .opened 0 1 2).waiters = []) ∧
    (let s := withCtx (fun c => { c with wait := .wqRetry 9 0 }); let u := { s with chips := [(0, { Chip.reset with cycle := 2 ^ 40 })] };
      (s.ctx 0 0).wait = .wqRetry 9 0 ∧ s.wqDue 0 0 = false ∧ u.wqDue 0 0 = true) ∧
    ((withCtx (fun c => { c with wait := .wq 9 5 64 })).ctx 0 0).wait = .wq 9 5 64 ∧
    (let s := userQueued false; s.cur.super = false ∧ (s.wq 1023).userPush = false ∧
      (s.spots s.whoCur .load 64 64).toOption = some (own 64 64)) := by
  refine ⟨?_, ?_, ⟨?_, ?_, places_own ?_ ?_ ?_ rfl ?_, ?_⟩, ?_, ?_, ?_, ?_, ?_, ?_, ?_, ⟨places_own ?_ ?_ ?_ rfl ?_, ?_⟩, ?_, ?_, ?_, ?_, ?_⟩
  all_goals decide +kernel

/-! Kernels and groups. -/

/-- A launch record: kind 1, its descriptor at the start of controller 0, cores of ranks 0 to n − 1, block 1, its save area at
2^20 there; and the descriptor: 2 groups on the x axis, each after the one to its left if dep. -/
def launchRec (n save : Nat) : Rec := BitVec.ofNat 512 (1 + 512 * 2 ^ 46 * 2 ^ 64 + n * 2 ^ 160 + 2 ^ 192 + save * 2 ^ 256)
def saveAt : Nat := 512 * 2 ^ 46 + 2 ^ 20
def descCells (z : Nat) : List Host.Cell :=
  [(512 * 2 ^ 46 + 2, 2), (512 * 2 ^ 46 + 8, 2), (512 * 2 ^ 46 + 10, 1)] ++ (if z = 0 then [] else [(512 * 2 ^ 46 + 12, 1)])
def descRec (deps : Nat) : Rec :=
  BitVec.ofNat 512 (0x20000 + 2 * 2 ^ 64 + 2 ^ 80 + 2 ^ 96 + deps * 2 ^ 131 + (if deps = 0 then 0 else 31 * 2 ^ 192))
def kernel (st : KState) (deps : Nat) (gs : Tbl Group) : Kernel :=
  { Kernel.fresh (launchRec 1 saveAt) 0 0 0 with st := st, desc := descRec deps, groups := gs }
def grp (st : GState) (n : Nat) : Group := { Group.none with st := st, counter := n }
/-- The small state with kernel 7 and register values. -/
def running (x : Kernel) (v : Word) : State := { at_ [(1, 7), (2, v)] with kernels := [(7, x)] }
/-- Queue 1023 with a launch record at its head. -/
def launching (z : Nat) : State := { small with queues := [(1023, wq .opened 65535 0 (launchRec 1 0))], mem := descCells z }

/-- R302, R307, R310: the record is taken and the kernel granted; R317: a READY kernel drains at once; R316: KSTAT names its state. -/
theorem test_kernel : let t := after (.launchRecordTake 1023) (launching 1)
    let kid := 1023 * 2 ^ 22 + 2 ^ 22 - 1
    t.kernels.map (·.2.st) = [.ready] ∧
    ((after (.kpreemptDrain 5 1 2) (running (kernel .ready 0 []) 0)).kernels.map (·.2.st) = [.preempted]) ∧
    (after (.kstat 5 1) (running (kernel .running 0 []) 0)).rx 5 = 3 := by decide +kernel

/-- R307: a descriptor with a zero dimension is LAUNCH_INVALID. -/
theorem test_faulted : let t := after (.launchRecordTake 1023) (launching 0)
    t.kernels = [] ∧ t.ended.map (fun e => (e.2.st, e.2.cause)) = [(.faulted, 0x2F)] := by decide +kernel

def endedKernel : State := { running (kernel .ready 0 []) 0 with kernels := [], ended := [(7, kernel .completed 0 [])] }
/-- Core 0 whose residency slots another kernel holds. -/
def noSlots (x : Kernel) : State := { running x 0 with cores := [(0, { core0 with
  slots := [(0, { kid := 6, g := none, k := 0 }), (1, { kid := 6, g := none, k := 1 })] })] }
/-- A SAVING kernel whose group's strand has a store under way. -/
def savingBusy : State := { withCtx (fun c => { c with unacked := 1 }) with kernels := [(7, kernel .saving 0 [(0, grp .running 0)])] }

theorem witness_Kernels :
    ((small.anyKernel 7 = none) ∧ bits ((running (kernel .ready 0 []) 0).rx 1) 31 0 = 7 ∧
      (running (kernel .ready 0 []) 0).anyKernel 7 = some (kernel .ready 0 []) ∧
      bits (endedKernel.rx 1) 31 0 = 7 ∧ endedKernel.anyKernel 7 = some (kernel .completed 0 [])) ∧
    (user.cur.super = false ∧ small.cur.super = true ∧ bits (4 : Word) 63 2 ≠ 0 ∧ endedKernel.kernel? 7 = none) ∧
    (∀ n ∈ [0, 1, 2, 3], bits (BitVec.ofNat 64 n) 63 2 = 0 ∧ bits (BitVec.ofNat 64 n) 1 0 = n) ∧
    (∀ st ∈ [KState.blocked, .ready, .running, .draining, .preempted, .saving], let x := kernel st 0 [(0, grp .running 0)];
      (running x 0).kernel? 7 = some x ∧ x.st = st ∧ (∀ e ∈ x.boundGroups, ∀ f ∈ x.groups, f.1 = e.1 → f = e)) ∧
    (lrSave (kernel .ready 0 []).rcd ≠ 0 ∧ lrSave (kern .ready).rcd = 0) ∧
    (let v : Word := BitVec.ofNat 64 (1081343 + 2 ^ 21); let x := kernel .preempted 0 []; let s := running x v;
      bits v 63 42 = 0 ∧ bits v 41 21 = 1 ∧ s.kernel? 7 = some x ∧ x.st = .preempted ∧ lrSave x.rcd ≠ 0 ∧ kdPclass x.desc = 0 ∧
      bits v 20 0 + bits v 41 21 ≤ s.grade * 2112 ∧ bits v 41 21 ≤ x.ncores0 ∧ x.saved = false ∧
      bits (BitVec.ofNat 64 (2 ^ 42) : Word) 63 42 ≠ 0 ∧ bits (0 : Word) 41 21 = 0 ∧
      ¬((kernel .ready 0 []).st = .running ∨ (kernel .ready 0 []).st = .draining ∨ (kernel .ready 0 []).st = .preempted)) ∧
    (∀ z ∈ [0, 1], let s := launching z; let w := s.wq 1023; let kid := w.headKid 1023;
      let k := Kernel.fresh (w.nth 0) (s.unitTime 1023) s.clock (w.taken + 1);
      let u := ({ s.setWq 1023 { w.take with taken := w.taken + 1 } with
        ended := s.ended.filter (fun e => !(queueOf e.1 = 1023 && decide (e.2.takeNo + 4096 ≤ w.taken + 1))) }.tick).setKernel kid k;
      w.st = .opened ∧ w.held ≠ 0 ∧ recKind (w.nth 0) = 1 ∧
      (s.kernels.filter (fun e => unitOfQueue (queueOf e.1) = unitOfQueue 1023)).length < 256 ∧
      (match u.checked kid (w.nth 0) with
        | .error c => decide (z = 0 ∧ c = cLAUNCH_INVALID)
        | .ok d => decide (z = 1 ∧ d = descRec 0)) = true ∧ ∀ e ∈ u.edges kid (w.nth 0), e.2 = .satisfied) ∧
    (let x := kernel .ready 1 []; let s := running x 0;
      s.kernel? 7 = some x ∧ x.st = .ready ∧ (∀ c ∈ x.chips, x.entriesOn c ≤ 2097152) ∧ s.firstInLine 7 x = none ∧ s.heldBack 7 x = false ∧
      s.canGrant x = true ∧ s.grantGroups x = some ([(0, grp .ready 0), (1, grp .waiting 1)], []) ∧ x.saved = false ∧ x.groups = [] ∧
      (noSlots x).kernel? 7 = some x ∧ (noSlots x).firstInLine 7 x = none ∧ (noSlots x).heldBack 7 x = false ∧
      (noSlots x).canGrant x = false) ∧
    (let x := kernel .saving 0 [(0, grp .running 0)]; let s := savingBusy;
      let u := x.boundGroups.foldl (fun s e => s.policyGroup 7 e.1)
        (x.boundGroups.foldl (fun s e => (s.strandsOf e.2.core e.2.slot).foldl (fun s n => s.tryStop e.2.core n cPREEMPT) s) s);
      s.kernel? 7 = some x ∧ x.st = .saving ∧ u.kernel? 7 = some x ∧ ∃ e ∈ x.boundGroups, u.atRest e.2 = false) ∧
    (let x := kernel .saving 0 [(0, grp .running 0)]; let c := { trapped1 with policyDue := true };
      let s : State := { small with
        kernels := [(7, x)], cores := [(0, { core0 with ctxs := [(0, c)], slots := [(0, { kid := 7, g := some 0, k := 0 })] })] };
      let u := x.boundGroups.foldl (fun s e => s.policyGroup 7 e.1)
        (x.boundGroups.foldl (fun s e => (s.strandsOf e.2.core e.2.slot).foldl (fun s n => s.tryStop e.2.core n cPREEMPT) s) s);
      s.kernel? 7 = some x ∧ (u.kernel? 7).map (·.st) = some .aborting) ∧
    (∀ at_ ∈ [saveAt, 576 * 2 ^ 46], let x := { kernel .saving 0 [] with rcd := launchRec 1 at_ }; let s := running x 0;
      s.kernel? 7 = some x ∧ x.tokens = [] ∧ x.reports = [] ∧ x.shrink = none ∧ x.boundGroups = [] ∧ s.reqs = [] ∧ x.cause = 0 ∧
      (s.writeSave 7 x).isSome = decide (at_ = saveAt)) := by
  refine ⟨?_, ?_, ?_, ?_, ?_, ?_, ?_, ?_, ?_, ?_, ?_⟩
  all_goals decide +kernel

/-- The small state with kernel 7 running, share of power of its chiplet p, and core 0's residency slot 0 kept for it. -/
def dispatching (x : Kernel) (p : Nat) (l : Tbl Ctx) : State := { small with
  kernels := [(7, x)], chips := [(0, { Chip.reset with share := p })], cores := [(0, { core0 with ctxs := l, slots := [(0, { kid := 7, g := none, k := 0 })] })] }

/-- R326: binding gives a free context the entry, the argument and its index. -/
theorem test_bind : let t := after (.groupBind 7 0) (dispatching (kernel .running 0 [(0, grp .released 0)]) 0 [])
    (t.ctx 0 0).pc = 0x20000 ∧ (t.ctx 0 0).st = .strand ∧ (t.kernels.map (fun e => (e.2.group 0).st)) = [.running] := by decide +kernel

theorem witness_Groups :
    (∀ n ∈ [1, 2], let x := { kernel .running 1 [(1, grp .waiting n)] with tokens := [(1, 0)] };
      (running x 0).kernel? 7 = some x ∧ (1, 0) ∈ x.tokens ∧ ¬(1, 1) ∈ x.tokens ∧ (x.group 1).st = .waiting ∧ (x.group 1).counter = n) ∧
    (∀ n ∈ [0, 1], let x := { kernel .running 0 [(0, grp .retired 0), (1, grp .retired 0)] with reports := [1], reported := n };
      (running x 0).kernel? 7 = some x ∧ 1 ∈ x.reports ∧ x.count = 2 ∧ x.st = .running) ∧
    (let x := kernel .running 0 [(0, grp .ready 0), (1, grp .ready 0)];
      let s := dispatching x ((dispatching x 0 []).drawOf 0 7) [];
      s.kernels = [(7, x)] ∧ x.st = .running ∧ (∀ e ∈ x.groups, e.2.bound = false) ∧
      s.releaseQueue 0 = { kid := 7, g := 0, rank := 0, grp := grp .ready 0 } :: [{ kid := 7, g := 1, rank := 0, grp := grp .ready 0 }] ∧
      s.gateOpen 0 (s.drawOf 0 7) = true) ∧
    (let x := kernel .running 0 [(0, grp .ready 0)]; let s := dispatching x 0 [];
      s.releaseQueue 0 = [{ kid := 7, g := 0, rank := 0, grp := grp .ready 0 }] ∧ s.gateOpen 0 (s.drawOf 0 7) = false) ∧
    (let w := grp .running 0; let x := { kernel .running 0 [(0, w)] with desc := descRec 0 ||| BitVec.ofNat 512 (2 * 2 ^ 141) };
      let s := { dispatching x 0 [(0, { trapped1 with policyDue := true, cause := 5 })] with
        cores := [(0, { core0 with ctxs := [(0, { trapped1 with policyDue := true })], slots := [(0, { kid := 7, g := some 0, k := 0 })] })] };
      s.kernels = [(7, x)] ∧ x.st = .running ∧ x.groups = [(0, w)] ∧ w.st = .running ∧ chipOf w.core = 0 ∧ (s.core w.core).stopped = false ∧
      w.again = false ∧ s.groupHalted w = true ∧ s.groupTrap w = some 5 ∧ kdPolicy x.desc = 2) ∧
    (let x := kernel .running 0 [(0, grp .released 0)]; let s := dispatching x 0 [];
      s.kernel? 7 = some x ∧ (x.group 0).st = .released ∧ s.bindTarget 7 x 0 (x.group 0) = some (0, 0, 0) ∧
      s.coreRuns (coreOfRank (x.home 0)) = true ∧ s.groupOwes 7 0 = false ∧ s.bindTurn 7 0 0 (x.group 0) = true ∧ (x.group 0).replays = 0 ∧ ((s.freeCtxs 0).take (kdStrands x.desc))[0]? = some 0) ∧
    (let x := kernel .running 0 [(0, grp .released 0)];
      (dispatching x 0 ((natsFrom 0 6).map (fun n => (n, ctx0)))).bindTarget 7 x 0 (x.group 0) = none) := by
  refine ⟨?_, ?_, ?_, ?_, ?_, ?_, ?_⟩
  all_goals decide +kernel

/-! Translation entries, pages and pins. -/

/-- Registers 1 and 2 of the executing context, another context, and 16 bytes of an entry at offset 0 of the local window. -/
def entryCells (low : Byte) : List Host.Cell := [(0, low), (1, 0x1D), (2, 1), (14, 0x80)]
def installing (d : Word) (low : Byte) (x : Ctx) : State := { naming d 0 1 x with mem := entryCells low }
def pageNat : Nat := 2 ^ 119 + 0x11DE8
/-- The same with a frame record of the page that is not RESIDENT. -/
def absent : State := { installing 1 0xE8 trapped1 with
  chips := [(0, { Chip.reset with ftab := [(0, BitVec.ofNat 64 (recBase + 1))] })] }

/-- R358, R363: the entry of 16 bytes is installed; R365: and probed; R364: and removed. -/
theorem test_tlb : let t := after (.tlbwResume 1 2) (installing 0x201 0xE8 trapped1)
    (t.core 0).tlb.map (·.2) = [page] ∧ (t.ctx 0 1).st = .strand ∧
    ((after (.tlbprobe 5 1 2) (naming 0x100 0x10000 1 trapped1)).rx 5 = 0) ∧
    ((after (.tlbprobe 5 1 2) { mapped page [(1, 0x100), (2, 0x10000)] with mem := [] }).rx 5 = 0x8080000000000000) ∧
    ((after (.tlbinvGranule 1 2) (mapped page [(1, 0x100), (2, 0x10000)])).core 0).tlb = [] := by decide +kernel

theorem witness_TranslationEntries :
    (user.cur.super = false ∧ small.cur.super = true ∧ (136 : Word).getLsbD 8 = false ∧ 16 < bits (136 : Word) 7 3) ∧
    (let s := installing 0x201 0xE8 trapped1; let d : Word := 0x201;
      s.MayName d 0 1 ∧ bits d 10 9 ≠ 2 ∧ bits (0 : Word) 3 0 = 0 ∧ s.here.watch = [] ∧ s.places s.whoCur .load 0 16 = .ok (own 0 16) ∧
      s.waysOpen 0 (own 0 16) = true ∧ pageNat = leNat ((own 0 16).map (s.seenByte 0 0)) ∧ page = TlbEntry.ofNat pageNat ∧
      s.entryOk 0 pageNat = true ∧ s.fillAllowed 0 page = true ∧ s.NotSelf 0 1 ∧ bits d 10 9 = 1 ∧ d.getLsbD 24 = false ∧
      (s.ctx 0 1).st = .trapped) ∧
    (bits (15 : Word) 3 0 ≠ 0) ∧
    (leNat ((own 0 16).map ((installing 1 0xE9 trapped1).seenByte 0 0)) = pageNat + 1 ∧ small.entryOk 0 (pageNat + 1) = false) ∧
    (absent.MayName 1 0 1 ∧ absent.places absent.whoCur .load 0 16 = .ok (own 0 16) ∧ absent.entryOk 0 pageNat = true ∧
      absent.fillAllowed 0 page = false ∧ pageNat = leNat ((own 0 16).map (absent.seenByte 0 0))) ∧
    (∀ c ∈ [0, 63], let d : Word := BitVec.ofNat 64 (0x401 + c * 2 ^ 58); let s := installing d 0 { trapped1 with onPath := true };
      s.Names d 0 1 ∧ s.NotSelf 0 1 ∧ bits d 10 9 = 2 ∧ (s.ctx 0 1).onFaultPath = true ∧ bits d 63 58 = c) ∧
    (bits (0x10000 : Word) 1 0 = 0 ∧ bits (0x10001 : Word) 1 0 = 1 ∧ bits (2 : Word) 1 0 = 2 ∧ bits (3 : Word) 1 0 = 3) ∧
    (let s := mapped page [(1, 0x100), (2, 0x10000)]; let a : Word := 0x10000; s.MayName 0x100 0 0 ∧
      (s.core 0).tlb.filter (fun p => p.2.covers a && (a.extractLsb' 2 3 = 0 || (p.2.vis &&& a.extractLsb' 2 3) ≠ 0)) = (0, page) :: [] ∧
      page.keyid < 64 ∧ page.size ≠ 3 ∧ (small.core 0).tlb = []) ∧
    (let s := mapped page []; let u := { s with reqs := [{ req (.load [D0] false 5 false) 0 .home with va := 0x10004 }] };
      (∀ hit : Nat → Nat → Bool, s.inFlight (fun c => c = 0) hit = false) ∧
      u.inFlight (fun c => c = 0) (fun x y => (u.core 0).tlb.any (fun e => e.2.overlaps x y)) = true) := by
  refine ⟨?_, ⟨may_name ?_, ?_, ?_, ?_, places_own ?_ ?_ ?_ rfl ?_, ?_, ?_, ?_, ?_, ?_, ?_, ?_, ?_, ?_⟩, ?_, ?_,
    ⟨may_name ?_, places_own ?_ ?_ ?_ rfl ?_, ?_, ?_, ?_⟩, ?_, ?_, ⟨may_name ?_, ?_, ?_, ?_, ?_⟩, ⟨fun _ => rfl, ?_⟩⟩
  case refine_29 =>
    intro c h
    simp only [List.mem_cons, List.not_mem_nil, or_false] at h
    rcases h with h | h <;> subst h <;> exact ⟨names (by decide +kernel) (by decide +kernel), by unfold State.NotSelf; decide +kernel,
      by decide +kernel⟩
  all_goals first | decide +kernel | (unfold State.NotSelf; decide +kernel)

/-- Another core, with a supervisor strand. -/
def onCore (k : Nat) (l : Tbl Word) : State :=
  { small with curCore := k, cores := [(k, { core0 with ctxs := [(0, { ctx0 with x := l })] })] }
/-- A fault word at its routers, its entry in the window of core 16, and the state that holds it, router 0 with a table. -/
def word (down : Bool) (path : List Nat) : FaultWord :=
  { id := 3, word := BitVec.ofNat 64 ((2 ^ 41 - 1) * 2 ^ 16), origin := 16, merged := 0, donated := 0, path := path, port := 2, down := down,
    core := 16 }
def wordMsg (granted : Bool) : Msg :=
  { msg 0 with dst := mgmtKey 607, chan := 27, words := [1, 2, 3], frm := .fault 3, st := .walking, grant := granted }
def rising (f : FaultWord) (table : List (Nat × List Nat)) (granted : Bool) : State := { small with
  clock := 4, faultWords := [f], routers := [(0, table)], cores := [(16, { core0 with window := [wordMsg granted] })] }

/-- R377: a raise that meets its granule in a merge table is merged and leaves the window; past its routers it goes to the pager. -/
theorem test_raise : let t := after (.faultRaiseAtRouter 3) (rising (word false [0]) [(2 ^ 41 - 1, [1])] false)
    let u := after (.faultRaiseAtRouter 3) (rising (word false []) [] false)
    t.faultWords = [] ∧ t.fwPorts 0 (2 ^ 41 - 1) = some [1, 2] ∧ (t.core 16).window = [] ∧ u.pending = [.messageDelivery 16 0] := by
  decide +kernel

theorem witness_FaultWords :
    (let w : Word := BitVec.ofNat 64 ((2 ^ 41 - 1) * 2 ^ 16);
      user.cur.super = false ∧ small.cur.super = true ∧ (bits w 63 57 = 0 ∧ bits w 7 6 = 0 ∧ bits w 3 2 = 0) ∧ bits w 5 4 = 0 ∧
      bits (0x30 : Word) 5 4 = 3 ∧ bits (BitVec.ofNat 64 (2 ^ 57) : Word) 63 57 ≠ 0) ∧
    (isService small.curCore = false ∧ isService (onCore 16 []).curCore = true ∧ (onCore 16 []).settled ∧
      (onCore 16 []).here.windowBusy = false ∧ (onCore 16 []).here.hwWait = []) ∧
    (bits (0x10 : Word) 5 4 = 1 ∧ bits (0x20 : Word) 5 4 = 2 ∧ isMgmt small.curCore = false ∧ isMgmt (onCore (mgmtKey 607) []).curCore = true ∧
      (onCore (mgmtKey 607) []).settled) ∧
    (coreOfIdent small.grade (bits (0x80000000 : Word) 31 0) = some 16 ∧ isService 16 = true ∧
      coreOfIdent small.grade (bits (0 : Word) 31 0) = some 0 ∧ isService 0 = false) ∧
    (∀ b ∈ [false, true], ∀ d ∈ [false, true], ∀ path ∈ [[], [0], [0, 1]], let f := word d path; let s := rising f [] b;
      s.faultWords = [f] ∧ f.id = 3 ∧ 3 < s.clock ∧ s.fwMsg f = some (wordMsg b) ∧ (s.core f.core).window = [wordMsg b]) ∧
    (let s := rising (word false [0]) [(2 ^ 41 - 1, [1])] false; let u := rising (word false [0]) (List.replicate 15 (7, [])) false;
      let v := rising (word false [0]) (List.replicate 16 (7, [])) false;
      (word false [0]).donated = 0 ∧ s.fwPorts 0 (2 ^ 41 - 1) = some [1] ∧ (wordMsg false).grant = false ∧ (s.core 16).hwWait = [] ∧
      u.fwPorts 0 (2 ^ 41 - 1) = none ∧ (tget [] 0 u.routers).length < 16 ∧ v.fwPorts 0 (2 ^ 41 - 1) = none ∧
      16 ≤ (tget [] 0 v.routers).length) ∧
    ((rising (word true [0, 1]) [(2 ^ 41 - 1, [0, 2])] false).fwPorts 0 (2 ^ 41 - 1) = some [0, 2] ∧
      (rising (word true [0, 1]) [(2 ^ 41 - 1, [0, 2])] false).svcAt 0 = some (word true [0, 1]).origin ∧
      [1].head? = some (2 - 1) ∧ (rising (word true [0]) [] false).fwPorts 0 (2 ^ 41 - 1) = none) := by
  refine ⟨?_, ⟨?_, ?_, ⟨?_, ?_⟩, ?_⟩, ⟨?_, ?_, ?_, ?_, ⟨?_, ?_⟩⟩, ?_, ?_, ?_, ?_⟩
  all_goals decide +kernel

/-- The page of controller 0 at 0x10000, with its record (state and low pin byte), and registers 1 and 2. -/
def pinnable (a f : Word) (st pins : Byte) (nest : Nat) : State := { paged [(1, a), (2, f)] 0 with
  mem := (if st = 0 then [] else [(recBase, st)]) ++ (if pins = 0 then [] else [(recBase + 1, pins)]),
  pinNests := if nest = 0 then [] else [(2 ^ 48, nest)] }
/-- The frame and an operation of SHOOT. -/
def frameOp (op : Nat) : Word := BitVec.ofNat 64 (2 ^ 55 + op)

/-- R373, R374: SHOOT unmaps the page, in its record and in the TLB; R375: LPIN counts a pin. -/
theorem test_shoot : let t := after (.shootUnmap 5 1 2) (pinnable 0x10000 (frameOp 4) 1 0 0)
    (t.rx 5 = 0 ∧ (t.core 0).tlb = [] ∧ t.readRecord recBase = 0) ∧
    (after (.lpin 5 1 2) (pinnable 0x10000 128 1 0 0)).readRecord recBase = 0x101 ∧
    (after (.shootUnmap 5 1 2) (pinnable 0x10000 (frameOp 4) 1 1 1)).rx 5 = 1 := by decide +kernel

theorem witness_PagesAndPins :
    (let a : Word := 0x10000; let f := frameOp 4; let shift := 16; let pa := bits f 55 16 * 2 ^ 16; let lo := bits a 56 16 * 2 ^ 16;
      bits a 1 0 ≠ 3 ∧ bits f 2 0 = 4 ∧ bits a 15 2 = 0 ∧ canonical a = true ∧ bits f 15 3 = 0 ∧ bits f 63 56 = 0 ∧
      lo % 2 ^ shift = 0 ∧ pa % 2 ^ shift = 0 ∧ isDramPa pa = true ∧ bits (0x10004 : Word) 15 2 ≠ 0 ∧ bits (frameOp 7) 2 0 = 7) ∧
    (∀ op ∈ [0, 1, 2, 3, 4, 5, 6], bits (frameOp op) 2 0 = op) ∧
    (let s := pinnable 0x10000 (frameOp 4) 1 0 0; user.cur.super = false ∧ s.cur.super = true ∧ s.settled ∧ s.cur.wait = .none ∧
      s.underWay 0x10000 0x20000 = false ∧ s.recordOf s.curCore (2 ^ 55) = some recBase ∧ small.recordOf 0 (2 ^ 55) = none ∧
      shootChange 4 (s.readRecord recBase) = some 0 ∧ shootChange 2 (s.readRecord recBase) = none ∧ s.readRecord recBase = 1 ∧
      { s with reqs := [{ req (.store [(2 ^ 55 + 65535, 0)] false) 0 .home with va := 0x1FFFF }] }.underWay 0x10000 0x20000 = true) ∧
    Loc.Apart (small.recordLocs recBase) ∧
    (shootChange 1 (1 : Word) = some 2 ∧ shootChange 2 (2 : Word) = some 0 ∧ shootChange 3 (1 : Word) = some 3 ∧ shootChange 5 (0xFF01 : Word) = some 0 ∧
      shootChange 6 (2 : Word) = some 1) ∧
    ((65537 : Word).toNat > 65536 ∧ (0x10000 : Word) ≠ 0) ∧
    (let e : Flt := { cause := cLOAD_ACCESS, addr := 0, info := 0 }; small.pinFault 0 1 = some e ∧ e.parks = false) ∧
    (let s := pinnable 0x10000 128 1 0 0; let a : Word := 0x10000; (128 : Word) ≠ 0 ∧ bits a 6 0 + (128 : Word).toNat ≤ 128 ∧
      s.pinFault a 128 = none ∧ s.cur.wait = .none ∧ s.pageOf s.whoCur (a &&& ~~~127) = some (2 ^ 55, 2 ^ 55) ∧
      2 ^ 48 = 2 ^ 55 / 128 ∧ s.recordOf s.curCore (2 ^ 55) = some recBase ∧ s.mayPin (2 ^ 48) = true ∧
      bits (s.readRecord recBase) 2 0 = 1 ∧ bits (s.readRecord recBase) 23 8 < 65535 ∧ tget 0 (2 ^ 48) s.pinNests = 0) ∧
    ((pinnable 0x10000 128 1 255 255).mayPin (2 ^ 48) = false ∧ bits ((pinnable 0x10000 128 2 0 0).readRecord recBase) 2 0 ≠ 1) ∧
    (let s := pinnable 0x10000 128 1 1 1; tget 0 (2 ^ 48) s.pinNests ≠ 0 ∧ 0 < bits (s.readRecord recBase) 23 8) := by
  refine ⟨?_, ?_, ⟨?_, ?_, ⟨?_, ?_⟩, ?_⟩, ?_, ?_, ?_, ?_, ?_, ?_, ?_⟩
  all_goals first | decide +kernel | (unfold Loc.Apart; decide +kernel)

/-- A 2 MiB page of controller 0 at 0x200000 with its record; registers 1 and 2; the carve of cluster 0. -/
def carving (v : Word) (st pins : List Host.Cell) (cv : Carve) : State := { withCore (fun c => { c with
    ctxs := [(0, { ctx0 with x := [(1, v), (2, 0x200000)] })], tlb := [(0, { page with vpn := 32, size := 1 })] }) with
  chips := [(0, { Chip.reset with ftab := [(0, BitVec.ofNat 64 (recBase + 1))] })], mem := st ++ pins,
  clusters := [(0, { Cluster.reset with carve := cv })] }

/-- R376: CARVE of eight ways takes them. -/
theorem test_carve : let t := after (.carve 5 1 2) (carving 8 [(recBase, 1)] [] { state := 0, ways := 0, backing := 0 })
    t.rx 5 = 0 ∧ (t.cluster 0).carve = { state := 1, ways := 8, backing := 2 ^ 55 } ∧
    (after (.uncarve 5 1) (carving 1 [] [] { state := 2, ways := 8, backing := 0 })).rx 5 = 2 := by decide +kernel

theorem witness_Carves :
    (user.cur.super = false ∧ small.cur.super = true ∧ (small.cluster 0).carve.state = 0) ∧
    (let e := { page with vpn := 32, size := 1 }; let v : Word := 8;
      let s := carving v [(recBase, 1)] [] { state := 0, ways := 0, backing := 0 };
      bits v 3 0 ≠ 0 ∧ bits v 3 0 ≤ 8 ∧ bits v 63 5 = 0 ∧ isMgmt s.curCore = false ∧
      (s.xlate s.whoCur .store 0x200000).toOption.map (·.kind) = some .dram ∧ s.tlbMatch s.whoCur 0x200000 = [e] ∧ e.size = 1 ∧
      bits (0x200000 : Word) 20 0 = 0 ∧ s.recordOf s.curCore (e.frame * 4096) = some recBase ∧ bits (s.readRecord recBase) 2 0 = 1 ∧
      (s.readRecord recBase).getLsbD 3 = false ∧ bits (s.readRecord recBase) 23 8 < 65535 ∧ s.pinNests = [] ∧ s.cur.wait = .none) ∧
    (carving 8 [(recBase, 1)] [] { state := 0, ways := 0, backing := 0 }).memOk ∧
    (bits (9 : Word) 3 0 > 8 ∧ bits (32 : Word) 63 5 ≠ 0) ∧
    (let z : Carve := { state := 0, ways := 0, backing := 0 };
      bits ((carving 8 [(recBase, 2)] [] z).readRecord recBase) 2 0 ≠ 1 ∧ ((carving 8 [(recBase, 9)] [] z).readRecord recBase).getLsbD 3 = true ∧
      bits ((carving 8 [(recBase, 1)] [(recBase + 1, 255), (recBase + 2, 255)] z).readRecord recBase) 23 8 = 65535) ∧
    (∀ st ∈ [1, 2], let cv : Carve := { state := st, ways := 8, backing := 0 }; let s := carving 1 [] [] cv;
      (s.cluster (cluKey s.curCore)).carve = cv ∧ s.cur.wait = .none ∧ s.recordOf s.curCore cv.backing = none ∧
      cv.backing + cv.ways * 131072 ≤ carveKey (cluKey s.curCore)) ∧
    (carving 1 [] [] { state := 1, ways := 8, backing := 0 }).memOk ∧
    (let s := { carving 1 [] [] { state := 1, ways := 8, backing := 0 } with reqs := [req (.store [(carveKey 0, 1)] false) 0 .home] };
      (s.cluster 0).carve.state ≠ 0 ∧ ∃ r ∈ s.reqs, ∃ a ∈ r.kind.keys, carveKey 0 ≤ a ∧ a < carveKey 0 + 8 * 131072) := by
  refine ⟨?_, ?_, ?_, ?_, ?_, ?_, ?_, ?_⟩
  all_goals first | decide +kernel | (unfold State.memOk; decide +kernel)

/-! Messages, requests and links. -/

/-- Core 0 with a message to core 1 in its window, and channel 3 of core 1. -/
def sending (m : Msg) (c : Chan) (f : Core → Core) : State := { small with
  cores := [(0, f { core0 with window := [m], credit := false }), (1, { Core.reset with chans := [(3, c)] })] }
/-- A state whose chiplet 0 counts a later cycle. -/
def late (s : State) : State := { s with chips := [(0, { Chip.reset with cycle := 2 ^ 40 })] }
def msgIn (st : MsgState) : Msg := { msg 0 with st := st }
/-- A channel whose request table holds n requests. -/
def asked (n : Nat) : Chan := { Chan.empty with reqs := List.replicate n (0, 0, 1) }

/-- R290: a message that finds no room is refused and sent again; R278: one that does arrives. -/
theorem test_delivery : let t := after (.messageDelivery 0 0) (sending (msgIn .sent) Chan.empty id)
    (t.chan 1 3).words = [9] ∧ t.msg? 0 0 = some (msgIn .delivered) ∧
    (after (.messageDelivery 0 0) (sending (msgIn .sent) fullChan id)).msg? 0 0 = some (msgIn (.nacked false)) := by decide +kernel

theorem witness_MessageEvents :
    (let f (c : Core) : Core := { c with notices := [(1, 16, 5)], window := [], creditNext := false };
      let s := sending (msgIn .sent) Chan.empty f; (s.core 0).notices = (1, 16, 5) :: [] ∧ (s.core 0).windowBusy = false ∧ (s.core 0).hwWait = []) ∧
    (crowded.core 0).windowBusy = true ∧
    (∀ st ∈ [MsgState.sent, .granted], let m := msgIn st; let s := sending m Chan.empty id;
      s.msg? 0 0 = some m ∧ (s.core 0).behindOther m = false ∧ (∀ r ∈ s.reqs, r.id ∉ m.stores) ∧ m.frm = .ctx ∧
      s.pathOpen (s.epOfCore 0) (s.epOfCore m.dst) = true ∧ (s.core 0).followsTransit m = false ∧ isCompute m.dst = true ∧
      s.unreachable m.dst = false ∧ m.grant = false ∧ s.awaited 0 m.dst = none ∧ (s.die (dieOf m.dst)).op < 4 ∧ (s.core 0).credit = false ∧
      m.words.length ≤ (s.chan m.dst m.chan).free ∧ (s.chan m.dst m.chan).reqs = [] ∧ (s.chan m.dst m.chan).poppers = [] ∧
      ((sending m fullChan id).chan m.dst m.chan).free < m.words.length ∧ ((sending m (asked 1) id).chan m.dst m.chan).reqs ≠ []) ∧
    (let m := msgIn .sent; let s := sending { m with uid := 1 } Chan.empty (fun c => { c with window := [m, { m with uid := 1 }] });
      let u : State := { s with cores := s.cores.map (fun (e : Nat × Core) => (e.1, if e.1 = 1 then { e.2 with nackFrom := [(0, 0)] } else e.2)) };
      u.awaited 0 1 = some 0 ∧ 0 ≠ ({ m with uid := 1 } : Msg).uid) ∧
    (let m := { msgIn .granted with grant := true }; let s := sending m { Chan.empty with grantResv := 1 } id;
      s.msg? 0 0 = some m ∧ m.grant = true ∧ m.words.length ≤ (s.chan m.dst m.chan).grantResv ∧ (s.chan m.dst m.chan).poppers = []) ∧
    (∀ d ∈ [false, true], let m := { wordMsg false with st := .sent }; (rising (word d [0]) [] false).walker m = some (word d [0])) ∧
    (let m := { msg 1 with st := .sent }; let s := sending (msgIn .sent) Chan.empty (fun c => { c with window := [msgIn .sent, m] });
      s.msg? 0 1 = some m ∧ (s.core 0).behindOther m = true) ∧
    (let m := { msgIn (.nacked false) with nacks := 14 }; let s := sending m Chan.empty id; s.msg? 0 0 = some m ∧
      m.nacks + 1 < (s.core 0).qretry.toNat) ∧
    (∀ dead ∈ [false, true], let m := { msgIn (.nacked dead) with nacks := 15 }; let s := sending m Chan.empty id;
      s.msg? 0 0 = some m ∧ m.st = .nacked dead ∧ (s.core 0).qretry.toNat ≤ m.nacks + 1 ∧ (s.core 0).window = [m] ∧ (s.core 0).hwWait = [] ∧
      s.coreGone 0 = false ∧ m.frm = .ctx ∧ m.ctx < 8 ∧ (s.ctx 0 m.ctx).gen = m.gen ∧ (s.ctx 0 m.ctx).st = .strand ∧ (s.ctx 0 m.ctx).wait = .none) ∧
    (∀ st ∈ [MsgState.backoff, .delivered, .waitGrant, .sent], (sending (msgIn st) Chan.empty id).msg? 0 0 = some (msgIn st) ∧
      ((sending (msgIn st) Chan.empty id).core 0).credit = false ∧ (sending (msgIn st) Chan.empty id).msgDue 0 (msgIn st) = false ∧
      (msgIn st).st = st) ∧
    (late (sending (msgIn .backoff) Chan.empty id)).msgDue 0 (msgIn .backoff) = true ∧
    (∀ n ∈ [31, 32], let m := msgIn .retryGrant; let s := sending m (asked n) id; s.msg? 0 0 = some m ∧ s.unreachable m.dst = false ∧
      s.msgDue 0 m = false ∧ (late s).msgDue 0 m = true ∧ (s.core m.dst).chans.foldl (fun n e => n + e.2.reqs.length) 0 = n) ∧
    (let m := msgIn .atProxy; let s := { sending m Chan.empty id with
        clusters := [(0, { Cluster.reset with binds := [(1, .proxied)], proxyIn := [(1, 0, 0)] })] };
      s.msg? 0 0 = some m ∧ (idxOf m.dst, 0, 0) ∈ (s.cluster (cluKey m.dst)).proxyIn) ∧
    (∀ ws ∈ [[], [1, 2, 3, 4]], let m := msgIn .waitGrant; let s := sending m { asked 1 with words := ws } id;
      (s.chan 1 3).reqs = (0, 0, 1) :: [] ∧ s.msg? 0 0 = some m ∧ m.st = .waitGrant ∧ (s.chan 1 3).free = 4 - ws.length) ∧
    (let m := msgIn (.refused 5); let s := sending m Chan.empty id; let u := sending m Chan.empty (fun c => { c with chans := [(30, fullChan)] });
      (s.core 0).window = [m] ∧ m.st = .refused 5 ∧ (s.chan 0 30).free ≠ 0 ∧ (s.chan 0 30).poppers = [] ∧ (s.core 0).hwWait = [] ∧
      (u.core 0).window = [m] ∧ (u.chan 0 30).free = 0) := by
  refine ⟨?_, ?_, ?_, ?_, ?_, ?_, ?_, ?_, ?_, ?_, ?_, ?_, ?_, ?_, ?_⟩
  all_goals decide +kernel

/-- One request under way, of core 0 and context 0, and a byte of controller 0. -/
def oneReq (kind : ReqKind) (ph : ReqPhase) (f : Ctx → Ctx) : State := { withCtx f with reqs := [req kind 0 ph] }
def loadOne : ReqKind := .load [D0] false 5 false
def poisoned (s : State) : State := { s with poison := [(2 ^ 48, 2 ^ 128 - 1)] }

/-- R110: an atomic addition at its home gives the old value and leaves the sum. -/
theorem test_home : let t := after (.memoryRequestAtHome 4) { oneReq (.amo .add D0 false 5 7 0) .home id with mem := [(D0, 250)] }
    (t.req? 4).map (·.reply) = some 250 ∧ Memory.byte D0 t.mem = 1 ∧ Memory.byte (D0 + 1) t.mem = 1 := by decide +kernel

theorem witness_RequestsAtHome :
    (∀ kd ∈ [ReqKind.store [(D0, 1), (D0 + 1, 2)] true, loadOne, .amo .add D0 true 5 1 0, .sc [(D0, 1)] 5], let r := req kd 0 .home;
      (oneReq kd .home id).req? 4 = some r ∧ r.phase = .home ∧ r.kind = kd) ∧
    (let s := oneReq loadOne .home id; s.firstDataError 0 ([D0].map (s.locOfKey · 0)) = none ∧
      s.firstDataError 0 ((natsFrom D0 8).map (s.locOfKey · 0)) = none) ∧
    Loc.Apart ([D0, D0 + 1].map (small.locOfKey · 0)) ∧
    ((oneReq (.sc [(D0, 1)] 5) .home id).ctx 0 0).lrRes ≠ some (lineOf (small.locOfKey D0 0).key) ∧
    ((oneReq (.sc [(D0, 1)] 5) .home (fun c => { c with lrRes := some (lineOf D0) })).ctx 0 0).lrRes = some (lineOf (small.locOfKey D0 0).key) ∧
    (let s := poisoned (oneReq loadOne .home (fun c => { c with wait := .reply 4 }));
      (s.firstDataError 0 ([D0].map (s.locOfKey · 0))).isSome = true ∧ (s.ctx 0 0).wait = .reply 4) ∧
    (let s := oneReq loadOne .done (fun c => { c with wait := .reply 4 }); s.req? 4 = some (req loadOne 0 .done) ∧
      ReqKind.target loadOne = some 5 ∧ (s.ctx 0 0).wait = .reply 4) ∧
    (let r := { req (.store [(D0, 1)] false) 0 .done with dst := 0 }; let s := { withCtx (fun c => { c with wait := .acks }) with reqs := [r] };
      s.req? 4 = some r ∧ r.phase = .done ∧ r.src = r.dst ∧ r.ctx < 8 ∧ (s.ctx 0 0).wait = .acks) ∧
    (512 * 2 ^ 46 ≤ 2 ^ 48 * 128 ∧ 2 ^ 48 * 128 < 576 * 2 ^ 46 ∧ tfind (2 ^ 48) small.poison = none) ∧
    (let r := { req (.store [(D0, 1)] false) 0 .home with id := 5 }; let s := { small with reqs := [req (.store [(D0, 2)] false) 0 .home, r] };
      s.req? 5 = some r ∧ s.behind r = true ∧ s.req? 4 = some (req (.store [(D0, 2)] false) 0 .home) ∧
      s.behind (req (.store [(D0, 2)] false) 0 .home) = false) ∧
    (∀ b ∈ [false, true], let r := { req (.store [(D0, 1)] false) 0 .done with again := b }; { small with reqs := [r] }.req? 4 = some r) ∧
    (let r := { req (.store [(D0, 1)] true) 0 .done with dst := 0 }; let s := { withCtx (fun c => { c with wait := .reply 4 }) with reqs := [r] };
      s.req? 4 = some r ∧ r.src = r.dst ∧ (s.ctx r.core r.ctx).wait = .reply 4) := by
  refine ⟨?_, ?_, ?_, ?_, ?_, ?_, ?_, ?_, ?_, ?_, ?_, ?_⟩
  all_goals first | decide +kernel | (unfold Loc.Apart; decide +kernel)

/-- A stream from die 0 to die 1 over module 12 in state l, with requests, and the entry at the ingress. -/
def stream (l : Nat) (st : Stream) (rs : List Req) (g : Tbl Ingress) : State := { small with
  reqs := rs, streams := [(1, st)], ingress := g, chips := [(0, { Chip.reset with links := [(12, { Link.reset with state := l })] })] }
/-- Chiplet 0 changed; its clocks far on. -/
def withChip (s : State) (f : Chip → Chip) : State := { s with chips := [(0, f (s.chip 0))] }
def aged (s : State) : State := withChip s (fun c => { c with cycle := 2 ^ 50, time := 2 ^ 50 })
def sentOne : Stream := { Stream.closed with opened := true, next := 1, unacked := [0] }
def goingOn (b lost : Bool) : Req := { req (.store [(D0, 1)] false) 0 .transit with openBit := b, lost := lost, kind := .store [] false }
def entry (n : Nat) : Tbl Ingress := [(1, { expect := n, replies := [] })]

/-- R386: the request that opens a stream makes the entry at the ingress; R387: its acknowledgement ends it. -/
theorem test_stream : let t := after (.e2eRequestArrival 0 1 0) (stream 1 sentOne [goingOn true false] [])
    t.ingress = entry 1 ∧ (t.req? 4).map (·.phase) = some .home ∧
    ((after (.e2eAck 0 1 0) (stream 1 sentOne [req (.store [] false) 0 .done] (entry 1))).stream 0 1).unacked = [] := by decide +kernel

theorem witness_Transport :
    ((stream 1 sentOne [req loadOne 0 .done] (entry 1)).atRequest 0 1 0 = some (req loadOne 0 .done) ∧ (req loadOne 0 .done).phase = .done) ∧
    (∀ b ∈ [true, false], let r := goingOn b b; (stream 1 sentOne [r] []).atRequest 0 1 0 = some r ∧ r.phase = .transit ∧ r.lost = b) ∧
    (∀ b ∈ [true, false], let r := goingOn b false; r.lost = false ∧ (stream 0 sentOne [r] []).reqWay r = .waits ∧
      (stream 5 sentOne [r] []).reqWay r = .drops 0 12 ∧ (∀ g ∈ [[], entry 0, entry 1], (stream 1 sentOne [r] g).reqWay r = .through) ∧
      r.openBit = b ∧ r.seq = 0) ∧
    (let s := stream 1 sentOne [goingOn true false] []; let u := stream 1 sentOne [goingOn true false] ((natsFrom 1 256).map (fun n => (n * 1024 + 1, { expect := 0, replies := [] })));
      tfind (streamKey 0 1) s.ingress = none ∧ s.entriesAt 1 < 256 ∧ tfind (streamKey 0 1) u.ingress = none ∧ 256 ≤ u.entriesAt 1 ∧
      tfind (streamKey 0 1) (stream 1 sentOne [] (entry 1)).ingress = some { expect := 1, replies := [] }) ∧
    (let s := stream 1 sentOne [req (.store [] false) 0 .done] (entry 1); let u := stream 1 sentOne [goingOn true false] [];
      (s.stream 0 1).unacked = 0 :: [] ∧ s.completed 0 1 0 = true ∧ u.completed 0 1 0 = false ∧ (∀ q ∈ s.reqs, q.phase ≠ .egress) ∧
      (u.stream 0 1).unacked = 0 :: []) ∧
    (let s := stream 1 { sentOne with unacked := [] } [] (entry 1); (s.stream 0 1).opened = true ∧ (s.stream 0 1).unacked = [] ∧
      (∀ r ∈ s.reqs, ¬(r.src = 0 ∧ r.dst = 1)) ∧ tfind 1 (s.chip 0).draining = none) ∧
    (let s := stream 1 sentOne [goingOn true true] []; s.e2eDue 0 1 = false ∧ (aged s).e2eDue 0 1 = true ∧
      (s.stream 0 1).counted < (s.chip 0).e2eLimit ∧ s.heldAt 0 1 = false ∧
      (withChip s (fun c => { c with nsel := [(1, 3)] })).heldAt 0 1 = true) ∧
    (let r := { req loadOne 0 .transit with va := 9 }; let l := Chip.reset.e2eLimit; let s := { withCtx (fun c => { c with wait := .reply 4 }) with
        reqs := [r], streams := [(1, { sentOne with counted := l })] };
      (aged s).e2eDue 0 1 = true ∧ (s.chip 0).e2eLimit ≤ (s.stream 0 1).counted ∧ (∀ q ∈ s.reqs, q.phase ≠ .egress) ∧
      s.reqs = [r] ∧ r.src = 0 ∧ r.dst = 1 ∧ r.seq ∈ (s.stream 0 1).unacked ∧ (s.ctx r.core r.ctx).wait = .reply r.id) ∧
    (let r := goingOn true true; let s := aged { small with reqs := [r], streams := [(1, { sentOne with counted := Chip.reset.e2eLimit })] };
      s.e2eDue 0 1 = true ∧ (s.chip 0).e2eLimit ≤ (s.stream 0 1).counted ∧ s.reqs = [r] ∧ r.ctx < 8 ∧ (s.ctx r.core r.ctx).xportErr = none) ∧
    (∀ b ∈ [false, true], let r := { goingOn true true with kind := .store [] b };
      (aged { withCtx (fun c => { c with wait := .reply 4 }) with reqs := [r], streams := [(1, sentOne)] }).e2eDue 0 1 = true) ∧
    (∀ b ∈ [false, true], let s := stream 1 { sentOne with busy := b } [] []; (s.stream 0 1).busy = b ∧
      passed (s.chip 0).cycle (s.stream 0 1).busyAt (BitVec.ofNat 64 (s.chip 0).e2eBusy) = false ∧
      passed ((aged s).chip 0).cycle (s.stream 0 1).busyAt (BitVec.ofNat 64 (s.chip 0).e2eBusy) = true) ∧
    ((tfind (streamKey 0 1) (stream 1 sentOne [] (entry 1)).ingress).isSome = true ∧ ((stream 1 sentOne [] []).stream 0 1).opened = true ∧
      tfind (streamKey 0 1) (stream 1 sentOne [] []).ingress = none) := by
  refine ⟨?_, ?_, ?_, ?_, ?_, ?_, ?_, ?_, ?_, ?_, ?_, ?_⟩
  all_goals decide +kernel

/-- Module 12 of die 0, whose far end is module 36 of die 1. -/
def linked (l : Link) : State := { small with chips := [(0, { Chip.reset with links := [(12, l)] })] }
def link (st : Nat) : Link := { Link.reset with state := st }
/-- A frame of one beat, a store of no byte but one to controller 0, from die 3 of module 7 to die 576. -/
def beat : List Byte := [0, 0, 2, 1, 0, 0, 0, 0] ++ leBytes 8 D0 ++ (5 : Byte) :: List.replicate 63 0
def frame (kind : Byte) (n : Byte) (bs : List Byte) : List Byte :=
  List.replicate 12 0 ++ [BitVec.ofNat 8 (Chip.reset.etype / 256), BitVec.ofNat 8 Chip.reset.etype, kind, 0, 7, 0,
    BitVec.ofNat 8 Chip.reset.selfModule, BitVec.ofNat 8 (Chip.reset.selfModule / 256), 3, 0, 0x40, 2, 9, 0, n] ++ List.replicate 19 0 ++ bs
def peered : State := { small with ingress := [(peerKey 7 3 576, { expect := 0, replies := [] })] }

/-- R392: training with good lanes makes both ends ACTIVE; R394: more than four bad lanes in one half, DEGRADED. -/
theorem test_training : let t := after (.linkTrainingDone 0 12 0 0) (linked (link 0))
    (t.link 0 12).state = 1 ∧ (t.link 1 36).state = 1 ∧
    ((after (.linkTrainingDone 0 12 0x1F 0) (linked (link 0))).link 1 36).state = 2 := by decide +kernel

/-- R401: a store in a frame of a peer is performed. -/
theorem test_frame : Memory.byte D0 (after (.scaleoutFrameReceive 576 0 true (frame 1 1 beat)) peered).mem = 5 := by decide +kernel

/-- R461, step 2: a link that reaches PAUSED tells its owner with code 1 and state 3; here module 12. -/
theorem test_link_told : let s := linked { link 1 with pausing := true }
    ((after (.linkPauseComplete 0 12) s).core (s.linkOwner 0 12)).window.map (·.words) = [[0x1003000C]] := by decide +kernel

theorem witness_Links :
    (∀ st ∈ [0, 1, 2, 3, 4, 5], (linked (link st)).linkState 0 12 = st ∧ ((linked (link st)).link 0 12).state = st) ∧
    (((linked (link 1)).link 0 12).pausing = false ∧ ((linked { link 2 with pausing := true }).link 0 12).pausing = true) ∧
    (small.linkNotcon 0 12 = false ∧ small.linkNotcon 0 0 = true) ∧
    small.farEnd 0 12 = some (1, 36) ∧
    (trainAs (0 ||| 0xF) false = some (false, false, 4) ∧ trainAs 0x1F false = some (true, true, 0) ∧ trainAs 0x1F0000001F false = none ∧
      (link 0).attempts + 1 < 3 ∧ 3 ≤ ({ link 0 with attempts := 2 } : Link).attempts + 1) ∧
    (4 < badIn 0x1F0000001F 0 ∧ 4 < badIn 0x1F0000001F 1 ∧ badIn 0xF 0 + badIn 0xF 1 ≤ 4) ∧
    (let l := { link 1 with thr := 1, windowCnt := 1 }; let s := linked l; let o := s.linkOwner 0 12;
      l.thr ≠ 0 ∧ l.thr.toNat ≤ l.windowCnt ∧ l.windowSent = false ∧ l.evtEn = true ∧ (s.core o).windowBusy = false ∧ (s.core o).hwWait = [] ∧
      (link 1).thr = 0) ∧
    (let s := linked { link 1 with thr := 1, windowCnt := 1 }; let u := { s with chips := [(0, { Chip.reset with links := [(12, link 1)], time := 2 ^ 50 })] };
      s.windowOver 0 12 = false ∧ u.windowOver 0 12 = true) ∧
    (∀ kind ∈ [(0x11 : Byte).toNat, 0x31, 0x41], let f := frame (BitVec.ofNat 8 kind) 0 []; small.frameOk 576 0 f = true ∧
      7 = frameField f 16 2 % 4096 ∧ 3 = frameField f 20 2 % 1024 ∧ 576 = frameField f 22 2 % 1024 ∧ 9 = frameField f 24 2 ∧
      frameField f 14 1 / 16 = kind / 16) ∧
    small.frameOk 576 0 (frame 2 0 []) = false ∧
    (let f := frame 1 1 beat; let b := (f.drop 46).take 80;
      peered.frameOk 576 0 f = true ∧ frameField f 14 1 / 16 = 0 ∧ frameField f 26 1 = 1 ∧ frameField b 4 4 / 2 ^ 15 = 0 ∧
      frameField b 2 1 = 2 ∧ tfind (peerKey 7 3 576) peered.ingress = some { expect := 0, replies := [] } ∧ frameField b 0 2 = 0 ∧
      peered.peerPlaces (frameField b 8 8) (frameField b 3 1 % 128) ≠ [] ∧
      (peered.peerPlaces (frameField b 8 8) (frameField b 3 1 % 128)).length = 1) ∧
    (let f := frame 1 1 beat; let b := (f.drop 46).take 80; let s := { small with ingress := [(peerKey 7 3 576, { expect := 1, replies := [] })] };
      s.frameOk 576 0 f = true ∧ frameField f 15 1 = 0 ∧ frameField b 2 1 ≠ 0x80 ∧ (frameField b 0 2 + 1) % 65536 = 1 ∧
      tfind (peerKey 7 3 576) s.ingress = some { expect := 1, replies := [] }) ∧
    Loc.Apart (peered.peerPlaces D0 1) := by
  refine ⟨?_, ?_, ?_, ?_, ?_, ?_, ?_, ?_, ?_, ?_, ?_, ?_, ?_⟩
  all_goals first | decide +kernel | (unfold Loc.Apart; decide +kernel)

/-! Registers, power, lost parts, bring-up and management. -/

/-- The module with one die in a state, and with other values of the trust die. -/
def withDie (n : Nat) (d : Die) : State := { small with trust := { Trust.reset with dies := [(n, d)] } }
def dieIn (st : DieState) : Die := { Die.reset with state := st }
def nominal : Die := { dieIn .active with op := 1 }
def trusting (f : Trust → Trust) : State := { small with trust := f small.trust }

/-- R221: the four counts of a semaphore register; R383: a path of the network-select table. -/
theorem test_registers : let t := after (.dispSyncSemWrite 0 0 3 0x0004000300020001) small
    (t.cluster 0).sem 15 = { count := 4, waiters := [] } ∧ ((after (.lnkNselWrite 0 1 3) small).chip 0).nsel = [(1, 3)] := by decide +kernel

theorem witness_RegisterWrites :
    ((131 : Nat) < 132 ∧ Agent.serves (.serviceCore 131) (0 * 132 + 131) = true ∧ Agent.serves .host (0 * 132 + 131) = false) ∧
    (((after (.dispQmodeWrite (.serviceCore 0) 0 0 1) small).core 1).creditNext ≠ (2 : Word).getLsbD 1 ∨ (small.core 1).window = []) ∧
    (∀ j : Fin 16, ((small.cluster (0 * 132 + 131)).sem j).waiters = []) ∧
    (small.nselOk 0 1023 3 = true ∧ small.nselOk 0 1 2 = false ∧ (∀ r ∈ small.reqs, r.phase ≠ .egress) ∧ (small.stream 0 1023).unacked = []) ∧
    (let s := stream 1 sentOne [goingOn true false] []; s.nselOk 0 1 3 = true ∧ (∀ r ∈ s.reqs, r.phase ≠ .egress) ∧ (s.stream 0 1).unacked ≠ [] ∧
      tfind 1 (s.chip 0).draining = none ∧ nselPath (s.nsel 0 1) ≠ nselPath (BitVec.ofNat 64 (bits (3 : Word) 13 4 * 16 + bits (3 : Word) 2 0))) ∧
    (let s := { small with reqs := [{ req loadOne 0 .home with dst := 0 }] };
      s.inDie 0 = true ∧ s.nselOk 0 0 1 = true ∧ tfind 0 (s.chip 0).draining = none ∧
      nselPath (s.nsel 0 0) ≠ nselPath (BitVec.ofNat 64 (bits (1 : Word) 13 4 * 16 + bits (1 : Word) 2 0))) ∧
    ((0x1004 : Nat) % 8 ≠ 0 ∧ (0x1002 : Nat) % 4 ≠ 0) ∧ small.mmioRead 0 (0xFFFFFFFFF8 / 8 * 8) = none ∧ 511 < small.grade := by
  refine ⟨?_, ?_, ?_, ?_, ?_, ?_, ?_, ?_, ?_⟩
  all_goals decide +kernel

/-- Region r in a state. -/
def regional (r : Nat) (g : Region) : State := trusting (fun t => { t with regions := [(r, g)] })

/-- R427: a faster point is reached at the end of its change, a slower one at once. -/
theorem test_points : let s := withDie 0 nominal
    ((after (.opPointChangeDone 0) (after (.pwrOpWrite 0 0) s)).die 0).op = 0 ∧ ((after (.pwrOpWrite 0 0) s).die 0).op = 1 ∧
    ((after (.pwrOpWrite 0 2) s).die 0).op = 2 ∧ ((after (.pwrOpWrite 0 5) s).die 0).state = .gated := by decide +kernel

/-- A region waits for its neighbours or does not, as the free comparison of its limit says (log entry 24): one of the two clauses
that name it applies. -/
theorem witness_Power :
    (∀ b ∈ [true, false], let d := { nominal with change := some 0, raising := b };
      ((withDie 0 d).die 0).change = some 0 ∧ ((withDie 0 d).die 0).want = none) ∧
    (small.grade ≤ 512 ∧ 511 < small.grade ∧ bits (0x55 : Word) 2 0 = 5 ∧ bits (0x55 : Word) 6 4 = 5 ∧ small.inService 511 = false) ∧
    (let d := (withDie 0 nominal).die 0; (withDie 0 nominal).inService 0 = true ∧ d.op < 4 ∧ d.change = none ∧ bits (0 : Word) 2 0 < d.op ∧
      d.op < bits (3 : Word) 2 0 ∧ bits (3 : Word) 2 0 < 4 ∧ 4 ≤ bits (4 : Word) 2 0 ∧ (withDie 0 nominal).hasGroup 0 = false ∧
      (withDie 0 nominal).holdsBoard 0 = false ∧
      { withDie 0 nominal with kernels := [(7, { kernel .preempted 0 [(0, grp .ready 0)] with rcd := launchRec 1 0, ncores := 1 })] }.holdsBoard 0 = true ∧
      lastStrand.hasGroup 0 = true ∧ lastStrand.inService 0 = true ∧ (lastStrand.die 0).op < 4) ∧
    (let s := trusting (fun t => { t with dies := [(0, { dieIn .gated with op := 5 })], regions := [(0, { Region.reset with state := 3 })] });
      s.inService 0 = true ∧ (s.die 0).op = 5 ∧ (s.region (s.regionOf 0)).state = 3) ∧
    (∀ n ∈ [62, 63], let s := regional 63 { Region.reset with state := 2, steps := n, stepAt := -131072000 };
      (s.region 63).steps + 1 = n + 1 ∧ passed s.trustTime (s.region 63).stepAt 131072000 = true ∧
      passed s.trustTime (s.region 63).stepAt 524288000 = false) ∧
    (let s := regional 0 Region.reset; (s.region 0).state = 0 ∧ s.trust.regionChips 0 ≠ [] ∧ (s.crowded 0 = false ∨ s.crowded 0 = true)) ∧
    (∀ q, q ≠ 0 → ((regional 0 Region.reset).region q).state ≠ 1 ∧ ((regional 0 Region.reset).region q).state ≠ 2 ∧
      ((regional 0 Region.reset).region q).wanted = false) ∧
    (let s := regional 0 { Region.reset with state := 1 }; let u := { s with chips := [(608, { Chip.reset with time := 131072000000 })] };
      (s.region 0).state = 1 ∧ s.deferOver 0 = false ∧ u.deferOver 0 = true) ∧
    (let s := { small with chips := [(608, { Chip.reset with time := 65536000000 })] };
      0 ∈ s.sharers 0 ∧ (s.die 0).op < 3 ∧ (s.die 0).change = none ∧ (s.region 0).above < 2 ∧
      passed s.trustTime (s.die 0).stepAt 65536000000 = true ∧ passed s.trustTime s.trust.powerAt 65536000000 = true ∧
      passed small.trustTime small.trust.powerAt 65536000000 = false) ∧
    (let s := { small with trust := { Trust.reset with dies := [(0, { nominal with op := 2, stepAt := -655360000000 })], regions := [(0, { Region.reset with allow := 9 })] } };
      passed s.trustTime (s.die 0).stepAt 655360000000 = true ∧ passed small.trustTime (small.die 0).stepAt 655360000000 = false ∧
      s.regionOf 0 = 0 ∧ s.inService 0 = true ∧ (s.die 0).op < 4 ∧ (s.die 0).target < (s.die 0).op ∧
      (s.region 0).drawMw * 10 < (s.region 0).allow * 9 ∧ (s.die 0).change = none ∧ (small.region 0).allow * 9 ≤ (small.region 0).drawMw * 10) ∧
    (∀ n ∈ [0, 1], let d := { nominal with losses := n }; (withDie 0 d).inService 0 = true ∧ ((withDie 0 d).die 0).losses + 1 < 3) ∧
    (small.slews 0 = true ∧ small.slews 1 = false) ∧
    (let c := { Chip.reset with time := 655360000000, holdover := false }; c.holdover = false ∧ 655360000000 ≤ c.time - c.lastSync ∧
      ¬655360000000 ≤ (655359999999 : Word) - c.lastSync) := by
  refine ⟨?_, ?_, ?_, ?_, ?_, ⟨?_, ?_, ?_⟩, ?_, ?_, ?_, ?_, ?_, ?_, ?_⟩
  case refine_8 => cases State.crowded _ 0 <;> simp
  case refine_9 =>
    intro q h
    have e : (regional 0 Region.reset).region q = Region.reset := by
      simp [regional, trusting, State.region, tget, small, Trust.reset, Ne.symm h]
    rw [e]
    decide
  all_goals decide +kernel

/-- A core whose heartbeat is overdue, and one whose index is PROXIED. -/
def silent : State := { small with chips := [(0, { Chip.reset with cycle := 0x7FFFFFFFFFFFFFFF })] }
def proxied : State := { small with clusters := [(0, { Cluster.reset with binds := [(0, .proxied)] })] }
def updating (l : List Nat) : State := trusting (fun t => { t with updating := l })

/-- R27: a core that is lost is PROXIED; with the spare its index is bound again. -/
theorem test_lost : let t := after (.coreQuarantine 0 5) small
    tget .bound 0 (t.cluster 0).binds = .proxied ∧ (t.ctx 0 0).st = .quarantined ∧
    tget .bound 0 ((after (.rebind 0 true) t).cluster 0).binds = .bound ∧ ((after (.rebind 0 true) t).cluster 0).spareFor = some 0 := by
  decide +kernel

theorem witness_LostParts :
    (isCompute 0 = true ∧ isCompute 16 = false ∧ tget .bound (idxOf 0) (small.cluster (cluKey 0)).binds = .bound ∧
      tget .bound (idxOf 0) (proxied.cluster (cluKey 0)).binds = .proxied) ∧
    (silent.beatMissed 0 = true ∧ tget .bound (idxOf 0) (silent.cluster (cluKey 0)).binds = .bound ∧ small.beatMissed 0 = false) ∧
    (silent.beats 0 = true ∧ (silent.core 0).stopped = false ∧ silent.coreGone 0 = false ∧ passed (silent.cycleOf 0) (silent.beatFrom 0) 65536 = true ∧
      small.beats 2244 = false) ∧
    proxied.spareFree 0 = true ∧ (silent.beatMissed (svcOfClu 0) = true ∧ silent.spareFree (svcOfClu 0) = true ∧ small.beatMissed (svcOfClu 0) = false) ∧
    (∀ p ∈ [Part.site 511, .cluster 511 143, .slot 511 143 17], p ∉ small.trust.deferredRetire ∧ (updating [siteRegion 511]).updatingPart p = true ∧
      small.updatingPart p = false ∧ small.kernels = [] ∧ small.trust.fused p = false) ∧
    ((trusting (fun t => { t with fuseSites := [511] })).trust.fused (.site 511) = true ∧ small.trust.reinst.length < 1024) := by
  refine ⟨?_, ?_, ?_, ?_, ?_, ?_, ?_⟩
  all_goals decide +kernel

/-- Chiplet 0 without a stream for 2 ms. -/
def unfed : State := { small with trust := { Trust.reset with dies := [(0, { dieIn .clocked with triedAt := -131072000000 }),
  (576, { dieIn .configured with configuredAt := -131072000000 })] } }

/-- R434: an edge chiplet whose image has the expected digest is MEASURED; a stream that does not come costs an attempt. -/
theorem test_bringup : let s := { withDie 576 (dieIn .clocked) with trust := { Trust.reset with dies := [(576, dieIn .clocked)], digests := [(2, 99)] } }
    ((after (.dieImageReceived 576 99) s).die 576).state = .measured ∧ ((after (.dieImageReceived 576 98) s).die 576).state = .quarantined ∧
    ((after (.streamTimeout 0) unfed).die 0).attempts = 1 := by decide +kernel

theorem witness_BringUp :
    (∀ st ∈ [DieState.dark, .powered, .clocked, .measured, .configured], ((withDie 608 (dieIn st)).die 608).state = st) ∧
    ((withDie 511 (dieIn .dark)).dieExists 511 = true ∧ ((withDie 511 (dieIn .dark)).die 511).state = .dark) ∧
    ((withDie 576 (dieIn .clocked)).fed 576 0 = true ∧ tfind (classOf 576) (trusting (fun t => { t with digests := [(2, 99)] })).trust.digests = some 99 ∧
      tfind (classOf 576) small.trust.digests ≠ some 98) ∧
    (unfed.streamDue 0 = true ∧ (unfed.die 0).state = .clocked ∧ small.streamDue 0 = false ∧
      ∀ n ∈ [1, 2], ((withDie 575 { dieIn .clocked with tries := n }).die 575).tries = n) ∧
    (∀ b ∈ [true, false], (trusting (fun t => { t with published := b })).trust.published = b ∧ (trusting (fun t => { t with safe := b })).trust.safe = b) ∧
    small.trust.deferredRetire = [] ∧
    (let s := withDie 576 (dieIn .joined); s.trust.published = false ∧ s.trust.safe = false ∧ moves s.trust s.bringupMap = false ∧
      (s.die 576).state = .joined ∧ s.bringupMap.grade ≠ 0 ∧ (small.die 576).state ≠ .joined ∧ moves small.trust small.bringupMap = false) ∧
    ((updating [63, 1]).trust.updating = 63 :: [1] ∧ (63 : Nat) < 64 ∧
      ({ withDie 575 (dieIn .configured) with trust := { Trust.reset with dies := [(575, dieIn .configured)], updating := [63] } }.die 575).state = .configured) := by
  refine ⟨?_, ?_, ?_, ?_, ?_, ?_, ?_, ?_⟩
  all_goals decide +kernel

/-- R445: a requested halt traps the context; R438: an unknown rank is answered 2, and a register write reaches the budget. -/
theorem test_management : let t := after (.halt 9 0 0) small
    t.trust.responses.map (fun r => r.take 4) = [[4, 1, 9, 0]] ∧ (t.ctx 0 0).haltReq = true ∧ (after (.debugHalt 0 0) t).cur.st = .trapped ∧
    ((after (.halt 9 1081344 0) small).trust.responses.map (fun r => r.take 4)) = [[4, 1, 9, 2]] := by decide +kernel

theorem witness_Management :
    (∀ w ∈ [Wait.none, .acks], let s := withCtx (fun c => { c with haltReq := true, wait := w }); (s.ctx 0 0).haltReq = true ∧ (s.ctx 0 0).running = true ∧
      (s.ctx 0 0).wait.inProgress = decide (w = .acks)) ∧
    (small.ctx 0 0).haltReq = false ∧ small.trust.safe = false ∧ (trusting (fun t => { t with safe := true })).trust.safe = true ∧
    (small.grade * 2112 ≤ 1081344 ∧ 1081343 < small.grade * 2112 ∧ 511 < small.grade) ∧
    ((List.replicate 1000 (7 : Byte)).length ≤ 1000 ∧ ([7, 8] : List Byte)[1]? = some 8) ∧
    (small.trust.updating = [] ∧ (updating [63]).trust.updating ≠ [] ∧ tget [] 1 small.trust.images = [] ∧ small.queues = [] ∧
      ∀ n ∈ [1, 2, 3, 4], tget [] n (trusting (fun t => { t with images := [(n, [(0, 7)])] })).trust.images ≠ []) ∧ ((4 : Nat) % 8 ≠ 0) ∧
    ((trusting (fun t => { t with sessions := true })).trust.sessions = true ∧ small.trust.sessions = false) := by
  decide +kernel

end Sys2Proof.Tests
end

section
/-! What CSRRW, CSRRS and CSRRC do (R123, R124): the addresses that hold a CSR, what a write keeps, and where it traps. -/

namespace Sys2Proof.Machine

/-! Masks and fields. -/

/-- A mask of n bits from lo up keeps the field of those bits in its place. -/
theorem toNat_and_field (v : Word) (lo n : Nat) (h : lo + n ≤ 64) :
    (v &&& BitVec.ofNat 64 ((2 ^ n - 1) * 2 ^ lo)).toNat = v.toNat / 2 ^ lo % 2 ^ n * 2 ^ lo := by
  have hm : (2 ^ n - 1) * 2 ^ lo < 2 ^ 64 :=
    calc (2 ^ n - 1) * 2 ^ lo < 2 ^ n * 2 ^ lo := (Nat.mul_lt_mul_right (Nat.two_pow_pos lo)).2 (Nat.sub_lt (Nat.two_pow_pos n) Nat.one_pos)
      _ = 2 ^ (lo + n) := by rw [← Nat.pow_add, Nat.add_comm]
      _ ≤ 2 ^ 64 := Nat.pow_le_pow_right (by omega) h
  rw [BitVec.toNat_and, BitVec.toNat_ofNat, Nat.mod_eq_of_lt hm]
  apply Nat.eq_of_testBit_eq
  intro i
  rw [Nat.testBit_and, Nat.testBit_mul_two_pow, Nat.testBit_mul_two_pow, Nat.testBit_mod_two_pow, Nat.testBit_div_two_pow,
    Nat.testBit_two_pow_sub_one]
  by_cases hi : lo ≤ i
  · simp [hi, Bool.and_comm]
  · simp [hi]

theorem toNat_low (v : Word) (n : Nat) (h : n ≤ 64) : (v &&& BitVec.ofNat 64 (2 ^ n - 1)).toNat = v.toNat % 2 ^ n := by
  simpa using toNat_and_field v 0 n (by omega)

/-- A field that keeps 1 for zero, in its place. -/
theorem atLeastOne_field (v : Word) (lo n : Nat) (h : lo + n ≤ 64) (hn : 0 < n) :
    (if v &&& BitVec.ofNat 64 ((2 ^ n - 1) * 2 ^ lo) = 0 then BitVec.ofNat 64 (2 ^ lo)
      else v &&& BitVec.ofNat 64 ((2 ^ n - 1) * 2 ^ lo)).toNat = atLeastOne (v.toNat / 2 ^ lo % 2 ^ n) * 2 ^ lo ∧
    atLeastOne (v.toNat / 2 ^ lo % 2 ^ n) < 2 ^ n := by
  have hfield := toNat_and_field v lo n h
  have hzero : v &&& BitVec.ofNat 64 ((2 ^ n - 1) * 2 ^ lo) = 0 ↔ v.toNat / 2 ^ lo % 2 ^ n = 0 := by
    rw [← BitVec.toNat_inj, hfield]
    exact ⟨fun h0 => (Nat.mul_eq_zero.1 h0).resolve_right (Nat.ne_of_gt (Nat.two_pow_pos lo)), fun h0 => by rw [h0, Nat.zero_mul]; rfl⟩
  have hone : 1 < 2 ^ n := Nat.one_lt_two_pow (by omega)
  have hlo : 2 ^ lo < 2 ^ 64 := Nat.pow_lt_pow_right (by omega) (by omega)
  unfold atLeastOne
  by_cases h0 : v.toNat / 2 ^ lo % 2 ^ n = 0
  · rw [if_pos (hzero.2 h0), if_pos h0, BitVec.toNat_ofNat, Nat.mod_eq_of_lt hlo, Nat.one_mul]
    exact ⟨rfl, hone⟩
  · rw [if_neg (fun e => h0 (hzero.1 e)), if_neg h0]
    exact ⟨hfield, Nat.mod_lt _ (by omega)⟩

theorem atLeastOne_low (v : Word) (n : Nat) (h : n ≤ 64) (hn : 0 < n) :
    (if v &&& BitVec.ofNat 64 (2 ^ n - 1) = 0 then (1 : Word) else v &&& BitVec.ofNat 64 (2 ^ n - 1)).toNat =
      atLeastOne (v.toNat % 2 ^ n) ∧ atLeastOne (v.toNat % 2 ^ n) < 2 ^ n := by
  simpa using atLeastOne_field v 0 n (by omega) hn

/-- A word made of a high and a low part is their bitwise or. -/
theorem ofNat_add_eq_or {x y : Word} {hi lo n : Nat} (hx : x.toNat = hi * 2 ^ n) (hy : y.toNat = lo) (h : lo < 2 ^ n) :
    BitVec.ofNat 64 (hi * 2 ^ n + lo) = x ||| y := by
  apply BitVec.eq_of_toNat_eq
  have hor : hi * 2 ^ n + lo = x.toNat ||| y.toNat := by
    rw [hx, hy, Nat.mul_comm, Nat.two_pow_add_eq_or_of_lt h]
  rw [hor, ← BitVec.toNat_or, BitVec.toNat_ofNat, Nat.mod_eq_of_lt (x ||| y).isLt]

/-! What each CSR keeps (R51, R246, R294, R336, R341). -/

theorem csrKept_rndseed (v : Word) :
    (if v.setWidth 32 = 0#32 then 1 else v.setWidth 32 : BitVec 32).setWidth 64 = csrKept 0x801 v := by
  have hlow : v &&& 0xFFFFFFFF = (v.setWidth 32).setWidth 64 :=
    BitVec.eq_of_toNat_eq ((toNat_low v 32 (by omega)).trans (by rw [BitVec.toNat_setWidth, BitVec.toNat_setWidth]; omega))
  have h0 : (v.setWidth 32).setWidth 64 = (0 : Word) ↔ v.setWidth 32 = 0#32 := by
    constructor
    · intro h
      have hzero : v.toNat % 2 ^ 32 % 2 ^ 64 = 0 := by
        rw [← BitVec.toNat_setWidth, ← BitVec.toNat_setWidth, h]
        rfl
      apply BitVec.eq_of_toNat_eq
      rw [BitVec.toNat_setWidth]
      change v.toNat % 2 ^ 32 = 0
      omega
    · intro h
      rw [h]
      rfl
  simp only [csrKept, if_true, hlow, h0]
  split <;> simp

theorem csrKept_qbackoff (v : Word) :
    BitVec.ofNat 64 (bits v 19 16 * 2 ^ 16 + atLeastOne (bits v 15 0)) = csrKept 0x5C0 v := by
  have hlow := atLeastOne_low v 16 (by omega) (by omega)
  simp only [bits, Nat.pow_zero, Nat.div_one, Nat.reduceAdd, Nat.reduceSub]
  exact ofNat_add_eq_or (toNat_and_field v 16 4 (by omega)) hlow.1 hlow.2

theorem csrKept_qretry (v : Word) : BitVec.ofNat 64 (atLeastOne (bits v 7 0)) = csrKept 0x5C1 v := by
  have hlow := atLeastOne_low v 8 (by omega) (by omega)
  simp only [bits, Nat.pow_zero, Nat.div_one, Nat.reduceAdd, Nat.reduceSub]
  rw [← hlow.1, BitVec.ofNat_toNat, BitVec.setWidth_eq]
  rfl

theorem csrKept_feretry (v : Word) :
    BitVec.ofNat 64 (atLeastOne (bits v 23 8) * 2 ^ 8 + atLeastOne (bits v 7 0)) = csrKept 0x5C2 v := by
  have hlow := atLeastOne_low v 8 (by omega) (by omega)
  simp only [bits, Nat.pow_zero, Nat.div_one, Nat.reduceAdd, Nat.reduceSub]
  exact ofNat_add_eq_or (atLeastOne_field v 8 16 (by omega) (by omega)).1 hlow.1 hlow.2

theorem csrKept_wfetimeout (v : Word) : BitVec.ofNat 64 (bits v 31 0) = csrKept 0x5C3 v := by
  apply BitVec.eq_of_toNat_eq
  refine Eq.trans ?_ (toNat_low v 32 (by omega)).symm
  rw [BitVec.toNat_ofNat, bits, Nat.pow_zero, Nat.div_one]
  exact Nat.mod_eq_of_lt (Nat.lt_trans (Nat.mod_lt _ (Nat.two_pow_pos _)) (by decide))

/-- The values that R80 accepts for vtype, as the fields of a word. -/
theorem vtypeOk_iff (v : Word) : vtypeOk v = true ↔ v &&& 15 < 13 ∧ v >>> 4 &&& 7 < 5 ∧ v >>> 8 = 0 := by
  have h15 : (v &&& 15).toNat = v.toNat % 2 ^ 4 := toNat_low v 4 (by omega)
  have h7 : (v >>> 4 &&& 7).toNat = v.toNat / 2 ^ 4 % 2 ^ 3 := by
    rw [← Nat.shiftRight_eq_div_pow, ← BitVec.toNat_ushiftRight]
    exact toNat_low (v >>> 4) 3 (by omega)
  have h8 : v >>> 8 = 0 ↔ v.toNat / 2 ^ 8 % 2 ^ 56 = 0 := by
    rw [← BitVec.toNat_inj, BitVec.toNat_ushiftRight, Nat.shiftRight_eq_div_pow]
    change v.toNat / 2 ^ 8 = 0 ↔ v.toNat / 2 ^ 8 % 2 ^ 56 = 0
    have := v.isLt
    omega
  rw [BitVec.lt_def, BitVec.lt_def, h15, h7, h8]
  simp only [vtypeOk, Bool.and_eq_true, decide_eq_true_eq, and_assoc]
  simp only [bits, Nat.pow_zero, Nat.div_one]
  exact Iff.rfl

/-! The addresses (R124). -/

theorem csr_eq_none_iff (s : State) (k n a : Nat) : s.csr k n a = none ↔ a ∉ csrNumbers := by
  unfold State.csr
  split <;> simp_all [csrNumbers]

theorem csrWritable_iff (super : Bool) (a : Nat) :
    csrWritable super a = true ↔ a = 0x800 ∨ a = 0x801 ∨ (super = true ∧ 0x5C0 ≤ a ∧ a ≤ 0x5C7) := by
  simp [csrWritable, and_assoc, or_assoc]

/-- The CSRs that some level writes: those of the context, and those of the core. -/
theorem csrWritable_cases {super : Bool} {a : Nat} (h : csrWritable super a = true) :
    (a = 0x801 ∨ a = 0x800 ∨ a = 0x5C4 ∨ a = 0x5C5 ∨ a = 0x5C6 ∨ a = 0x5C7) ∨
      (a = 0x5C0 ∨ a = 0x5C1 ∨ a = 0x5C2 ∨ a = 0x5C3) := by
  rw [csrWritable_iff] at h
  omega

/-! A write. -/

/-- The word in the field of CSR b, which held w, after a write of v to CSR a. -/
def csrField (a b : Nat) (v w : Word) : Word := if a = b then csrKept b v else w

/-- State t is s after a write of v to CSR a, the registers and the pc of the context aside. -/
structure State.CsrSets (s t : State) (a : Nat) (v : Word) : Prop where
  cur : t.cur = { s.cur with
    x := t.cur.x, pc := t.cur.pc, early := t.cur.early, vtype := csrField a 0x800 v s.cur.vtype,
    rndseed := (csrField a 0x801 v (s.cur.rndseed.setWidth 64)).setWidth 32, ecause := csrField a 0x5C4 v s.cur.ecause,
    eaddr := csrField a 0x5C5 v s.cur.eaddr, epc := csrField a 0x5C6 v s.cur.epc, einfo := csrField a 0x5C7 v s.cur.einfo }
  here : t.here = { s.here with
    ctxs := t.here.ctxs, qbackoff := csrField a 0x5C0 v s.here.qbackoff, qretry := csrField a 0x5C1 v s.here.qretry,
    feretry := csrField a 0x5C2 v s.here.feretry, wfetimeout := csrField a 0x5C3 v s.here.wfetimeout }
  others : s.keepsOthers t
  rest : t = { s with cores := t.cores }

theorem keepsOthers_modCur (s : State) (f : Ctx → Ctx) : s.keepsOthers (s.modCur f) := by
  intro j m hjm
  rw [modCur_eq, ctx_setCore]
  split
  · rename_i hj
    subst hj
    rw [ctx_setCtx, if_neg (fun hm => hjm ⟨rfl, hm⟩)]
    rfl
  · rfl

theorem keepsOthers_modHere (s : State) (f : Core → Core) (h : (f s.here).ctxs = s.here.ctxs) : s.keepsOthers (s.modHere f) := by
  intro j m _
  rw [modHere_eq, ctx_setCore]
  split
  · rename_i hj
    subst hj
    simp only [Core.ctx, h]
    rfl
  · rfl

theorem cur_modHere (s : State) (f : Core → Core) (h : (f s.here).ctxs = s.here.ctxs) : (s.modHere f).cur = s.cur := by
  rw [modHere_eq, cur_setCore, Core.ctx, h]
  rfl

/-- A write of a CSR of the context. -/
theorem csrSets_modCur {s : State} {a : Nat} {v : Word} {f : Ctx → Ctx} (h : ¬(0x5C0 ≤ a ∧ a ≤ 0x5C3))
    (hf : f s.cur = { s.cur with
      vtype := csrField a 0x800 v s.cur.vtype, rndseed := (csrField a 0x801 v (s.cur.rndseed.setWidth 64)).setWidth 32,
      ecause := csrField a 0x5C4 v s.cur.ecause, eaddr := csrField a 0x5C5 v s.cur.eaddr, epc := csrField a 0x5C6 v s.cur.epc,
      einfo := csrField a 0x5C7 v s.cur.einfo }) : s.CsrSets (s.modCur f) a v where
  cur := by simp [hf]
  here := by
    have h0 : a ≠ 0x5C0 ∧ a ≠ 0x5C1 ∧ a ≠ 0x5C2 ∧ a ≠ 0x5C3 := by omega
    simp [csrField, h0, Core.setCtx]
  others := keepsOthers_modCur s f
  rest := rfl

/-- A write of a CSR of the core. -/
theorem csrSets_modHere {s : State} {a : Nat} {v : Word} {f : Core → Core} (h : 0x5C0 ≤ a ∧ a ≤ 0x5C3)
    (hf : f s.here = { s.here with
      qbackoff := csrField a 0x5C0 v s.here.qbackoff, qretry := csrField a 0x5C1 v s.here.qretry,
      feretry := csrField a 0x5C2 v s.here.feretry, wfetimeout := csrField a 0x5C3 v s.here.wfetimeout }) :
    s.CsrSets (s.modHere f) a v where
  cur := by
    have h0 : a ≠ 0x800 ∧ a ≠ 0x801 ∧ a ≠ 0x5C4 ∧ a ≠ 0x5C5 ∧ a ≠ 0x5C6 ∧ a ≠ 0x5C7 := by omega
    rw [cur_modHere s f (by rw [hf])]
    simp [csrField, h0]
  here := by rw [modHere_eq, here_setCore, hf]
  others := keepsOthers_modHere s f (by rw [hf])
  rest := rfl

theorem csrSets_csrWrite (s : State) (a : Nat) (v : Word) (h : csrWritable s.cur.super a = true) : s.CsrSets (s.csrWrite a v) a v := by
  rcases csrWritable_cases h with hctx | hcore
  · rcases hctx with rfl | rfl | rfl | rfl | rfl | rfl
    · exact csrSets_modCur (by omega) (by simp [csrField, ← csrKept_rndseed])
    all_goals exact csrSets_modCur (by omega) (by simp [csrField, csrKept])
  · rcases hcore with rfl | rfl | rfl | rfl
    · exact csrSets_modHere (by omega) (by simp [csrField, ← csrKept_qbackoff])
    · exact csrSets_modHere (by omega) (by simp [csrField, ← csrKept_qretry])
    · exact csrSets_modHere (by omega) (by simp [csrField, ← csrKept_feretry])
    · exact csrSets_modHere (by omega) (by simp [csrField, ← csrKept_wfetimeout])

/-- A write of a CSR moves neither a register nor the pc. -/
theorem registers_csrWrite (s : State) (a : Nat) (v : Word) :
    (∀ r, (s.csrWrite a v).rx r = s.rx r) ∧ (s.csrWrite a v).cur.pc = s.cur.pc := by
  have hcore : ∀ f : Core → Core, (f s.here).ctxs = s.here.ctxs →
      (∀ r, (s.modHere f).rx r = s.rx r) ∧ (s.modHere f).cur.pc = s.cur.pc := fun f h => by
    simp only [State.rx, cur_modHere s f h, implies_true, and_self]
  have hctx : ∀ f : Ctx → Ctx, (∀ r, (f s.cur).rx r = s.cur.rx r) → (f s.cur).pc = s.cur.pc →
      (∀ r, (s.modCur f).rx r = s.rx r) ∧ (s.modCur f).cur.pc = s.cur.pc := fun f hr hp => by
    simp [State.rx, hr, hp]
  unfold State.csrWrite
  split
  case h_11 => exact ⟨fun _ => rfl, rfl⟩
  case h_3 | h_4 | h_5 | h_6 => exact hcore _ rfl
  all_goals exact hctx _ (fun _ => rfl) rfl

/-- What follows the write in the instruction: the old value to rd, and the pc. -/
theorem State.CsrSets.done {s t : State} {a : Nat} {v : Word} (h : s.CsrSets t a v) (rd : Reg) (old : Word) :
    s.CsrSets (t.done rd old) a v := by
  obtain ⟨hcur, hhere, hothers, hrest⟩ := h
  have hk : t.curCore = s.curCore := by rw [hrest]
  have hn : t.curCtx = s.curCtx := by rw [hrest]
  refine ⟨?_, ?_, fun k n hkn => ?_, ?_⟩
  · rw [(puts_done t rd old).rest, hcur]
  · rw [done_eq, here_setCore, hhere]
    rfl
  · rw [← hothers k n hkn]
    exact keepsOthers_modCur t _ k n (by rwa [hk, hn])
  · rw [done_eq, State.setCore, hrest]

/-- A CSR that no level writes reads nothing that a write of a CSR, the registers or the pc change. -/
theorem State.CsrSets.csr_readOnly {s t : State} {a : Nat} {v : Word} (h : s.CsrSets t a v) {b : Nat}
    (hb : csrWritable true b = false) : t.csr s.curCore s.curCtx b = s.csr s.curCore s.curCtx b := by
  obtain ⟨hcur, hhere, -, hrest⟩ := h
  have hctx : ∃ x pc e vt rs ec ea ep ei, t.ctx s.curCore s.curCtx = { s.ctx s.curCore s.curCtx with
      x := x, pc := pc, early := e, vtype := vt, rndseed := rs, ecause := ec, eaddr := ea, epc := ep, einfo := ei } := by
    rw [State.cur, hrest] at hcur
    rw [hrest]
    exact ⟨_, _, _, _, _, _, _, _, _, hcur⟩
  have hcore : ∃ cs qb qr fr wt, t.core s.curCore = { s.core s.curCore with
      ctxs := cs, qbackoff := qb, qretry := qr, feretry := fr, wfetimeout := wt } := by
    rw [State.here, hrest] at hhere
    rw [hrest]
    exact ⟨_, _, _, _, _, hhere⟩
  obtain ⟨x, pc, e, vt, rs, ec, ea, ep, ei, hctx⟩ := hctx
  obtain ⟨cs, qb, qr, fr, wt, hcore⟩ := hcore
  have hdie : ∀ d, t.die d = s.die d := fun d => by rw [hrest]; rfl
  have hchip : ∀ d, t.chip d = s.chip d := fun d => by rw [hrest]; rfl
  have htrust : t.trust = s.trust := by rw [hrest]
  by_cases hn : b ∈ csrNumbers
  · simp only [csrNumbers, List.mem_cons, List.not_mem_nil, or_false] at hn
    rcases hn with rfl | rfl | rfl | rfl | rfl | rfl | rfl | rfl | rfl | rfl | rfl | rfl | rfl | rfl | hwritten
    rotate_right
    · have hplace : b = 0x800 ∨ b = 0x801 ∨ (0x5C0 ≤ b ∧ b ≤ 0x5C7) := by omega
      rw [(csrWritable_iff true b).2 (hplace.imp_right (Or.imp_right (And.intro rfl)))] at hb
      exact Bool.noConfusion hb
    all_goals simp only [State.csr, State.elvcoordWord, State.elvgradeWord, State.grade, State.cycleOf, State.timeOf, State.pstate,
      State.vwin, State.qstat, State.qwindow, hctx, hcore, hdie, hchip, htrust]
    all_goals rfl
  · rw [(csr_eq_none_iff _ _ _ _).2 hn, (csr_eq_none_iff _ _ _ _).2 hn]

/-- A CSR that some level writes reads the field that holds it. -/
theorem State.CsrSets.csr_writable {s t : State} {a : Nat} {v : Word} (h : s.CsrSets t a v) {b : Nat}
    (hb : csrWritable true b = true) :
    t.csr s.curCore s.curCtx b = (s.csr s.curCore s.curCtx b).map (csrField a b v) := by
  obtain ⟨hcur, hhere, -, hrest⟩ := h
  have hctx : t.ctx s.curCore s.curCtx = t.cur := by rw [hrest]; rfl
  have hcore : t.core s.curCore = t.here := by rw [hrest]; rfl
  have hseed : ((csrField a 0x801 v (s.cur.rndseed.setWidth 64)).setWidth 32).setWidth 64 =
      csrField a 0x801 v (s.cur.rndseed.setWidth 64) := by
    unfold csrField
    split
    · simp [← csrKept_rndseed]
    · simp
  rcases csrWritable_cases hb with hown | hshared
  · rcases hown with rfl | rfl | rfl | rfl | rfl | rfl
    all_goals
      simp only [State.csr, hctx]
      rw [hcur]
    · exact congrArg some hseed
    all_goals rfl
  · rcases hshared with rfl | rfl | rfl | rfl
    all_goals
      simp only [State.csr, hcore]
      rw [hhere]
      rfl

/-- Every CSR but the one written reads as before, and that one reads what it keeps. -/
theorem State.CsrSets.csr {s t : State} {a : Nat} {v : Word} (h : s.CsrSets t a v) (hw : csrWritable true a = true) (b : Nat) :
    t.csr s.curCore s.curCtx b = (s.csr s.curCore s.curCtx b).map (csrField a b v) := by
  cases hb : csrWritable true b
  · have hab : a ≠ b := fun e => by simp [← e, hw] at hb
    rw [h.csr_readOnly hb]
    have hid : csrField a b v = id := funext fun w => if_neg hab
    simp [hid]
  · exact h.csr_writable hb

/-! The instruction (R123). -/

theorem exec_csrrw (s : State) (rd : Reg) (src : CsrSrc) (csr : BitVec 12) :
    exec (.csrrw rd src csr) s = .next (s.csrOp rd csr.toNat (some (fun _ => s.csrSrc src))) := rfl

theorem exec_csrrs (s : State) (rd : Reg) (src : CsrSrc) (csr : BitVec 12) : exec (.csrrs rd src csr) s =
    .next (s.csrOp rd csr.toNat (if CsrSrc.writes src then some (fun old => old ||| s.csrSrc src) else none)) := rfl

theorem exec_csrrc (s : State) (rd : Reg) (src : CsrSrc) (csr : BitVec 12) : exec (.csrrc rd src csr) s =
    .next (s.csrOp rd csr.toNat (if CsrSrc.writes src then some (fun old => old &&& ~~~(s.csrSrc src)) else none)) := rfl

theorem csrOp_noCsr {s : State} {rd : Reg} {a : Nat} (h : a ∉ csrNumbers) (new : Option (Word → Word)) :
    s.csrOp rd a new = s.trap cILLEGAL_INSTR 0 := by
  simp [State.csrOp, (csr_eq_none_iff _ _ _ _).2 h]

theorem csrOp_denied {s : State} {rd : Reg} {a : Nat} (h : a ∈ csrNumbers) (hw : csrWritable s.cur.super a = false)
    (f : Word → Word) : s.csrOp rd a (some f) = s.trap cCSR_ACCESS 0 := by
  obtain ⟨old, hold⟩ := Option.ne_none_iff_exists'.1 (fun e => (csr_eq_none_iff s s.curCore s.curCtx a).1 e h)
  simp [State.csrOp, hold, hw]

theorem csrOp_badVtype {s : State} {rd : Reg} {f : Word → Word} (h : vtypeOk (f s.cur.vtype) = false) :
    s.csrOp rd 0x800 (some f) = s.trap cILLEGAL_INSTR 0 := by
  have hold : s.csr s.curCore s.curCtx 0x800 = some s.cur.vtype := rfl
  simp [State.csrOp, hold, h, csrWritable]

theorem csrOp_write {s : State} {rd : Reg} {a : Nat} {old : Word} {f : Word → Word} (hold : s.csr s.curCore s.curCtx a = some old)
    (hw : csrWritable s.cur.super a = true) (hv : a = 0x800 → vtypeOk (f old) = true) :
    s.csrOp rd a (some f) = (s.csrWrite a (f old)).done rd old := by
  have hbad : (decide (a = 0x800) && !vtypeOk (f old)) = false := by
    by_cases ha : a = 0x800 <;> simp [ha, hv]
  simp [State.csrOp, hold, hw, hbad]

theorem csrWritable_mono {super : Bool} {a : Nat} (h : csrWritable super a = true) : csrWritable true a = true := by
  rw [csrWritable_iff] at h ⊢
  exact h.imp_right (Or.imp_right fun hlevel => ⟨rfl, hlevel.2⟩)

/-- The write and the completion of the instruction. -/
theorem csrWrite_done (s : State) (rd : Reg) {a : Nat} {old : Word} (v : Word) (hold : s.csr s.curCore s.curCtx a = some old)
    (hw : csrWritable s.cur.super a = true) :
    let t := (s.csrWrite a v).done rd old
    (∀ r, t.rx r = if r = 0 then 0 else if r = rd then old else s.rx r) ∧ t.cur.pc = s.cur.pc + 4 ∧
      t.csr s.curCore s.curCtx a = some (csrKept a v) ∧
      (∀ b, b ≠ a → t.csr s.curCore s.curCtx b = s.csr s.curCore s.curCtx b) ∧
      t.cur.st = s.cur.st ∧ t.cur.wait = s.cur.wait ∧ s.keepsOthers t ∧ s.keepsMem t := by
  intro t
  have hdone := puts_done (s.csrWrite a v) rd old
  obtain ⟨hregs, hpc⟩ := registers_csrWrite s a v
  have hsets : s.CsrSets t a v := (csrSets_csrWrite s a v hw).done rd old
  have hcsr := hsets.csr (csrWritable_mono hw)
  refine ⟨fun r => by rw [hdone.regs, hregs], ?_, ?_, fun b hb => ?_, ?_, ?_, hsets.others, fun b => ?_⟩
  · rw [hdone.rest, hpc]
  · rw [hcsr, hold, Option.map_some, csrField, if_pos rfl]
  · have hid : csrField a b v = id := funext fun w => if_neg (Ne.symm hb)
    rw [hcsr, hid, Option.map_id_apply]
  · rw [hsets.cur]
  · rw [hsets.cur]
  · rw [hsets.rest]

/-- Each instruction on a CSR is one operation on it. -/
theorem exec_csr {s : State} {rd : Reg} {src : CsrSrc} {csr : BitVec 12} {i : Instr}
    (hi : i = .csrrw rd src csr ∨ i = .csrrs rd src csr ∨ i = .csrrc rd src csr) :
    ∃ new, exec i s = .next (s.csrOp rd csr.toNat new) := by
  rcases hi with rfl | rfl | rfl
  · exact ⟨_, exec_csrrw ..⟩
  · exact ⟨_, exec_csrrs ..⟩
  · exact ⟨_, exec_csrrc ..⟩

/-- CSRRW writes, and CSRRS and CSRRC do so with a source that is not empty. -/
theorem exec_csr_writes {s : State} {rd : Reg} {src : CsrSrc} {csr : BitVec 12} {i : Instr}
    (hi : i = .csrrw rd src csr ∨ i = .csrrs rd src csr ∨ i = .csrrc rd src csr)
    (hw : i = .csrrw rd src csr ∨ CsrSrc.writes src = true) : ∃ f, exec i s = .next (s.csrOp rd csr.toNat (some f)) := by
  rcases hi with rfl | rfl | rfl
  · exact ⟨_, exec_csrrw ..⟩
  · exact ⟨_, by rw [exec_csrrs, if_pos (hw.resolve_left Instr.noConfusion)]⟩
  · exact ⟨_, by rw [exec_csrrc, if_pos (hw.resolve_left Instr.noConfusion)]⟩

/-- Settles O8: a write changes the one field that its CSR reads, and each trap is one outcome of `csrOp`. -/
theorem csrWrites : Obligations.CsrWrites := by
  unfold Obligations.CsrWrites
  refine ⟨fun s rd src csr old i new hold hi hw hv => ?_, fun s rd src csr i hi =>
    ⟨fun hno => ?_, fun hyes hwrites hvtype hseed hlevel => ?_, fun hvtype hrw hbad => ?_⟩⟩
  · obtain ⟨f, hexec, rfl⟩ : ∃ f, exec i s = .next (s.csrOp rd csr.toNat (some f)) ∧ f old = new := by
      rcases hi with ⟨rfl, rfl⟩ | ⟨rfl, hsrc, rfl⟩ | ⟨rfl, hsrc, rfl⟩
      · exact ⟨_, exec_csrrw .., rfl⟩
      · exact ⟨_, by rw [exec_csrrs, if_pos hsrc], rfl⟩
      · exact ⟨_, by rw [exec_csrrc, if_pos hsrc], rfl⟩
    have hwritable := (csrWritable_iff s.cur.super csr.toNat).2 hw
    refine ⟨_, ?_, csrWrite_done s rd (f old) hold hwritable⟩
    rw [hexec, csrOp_write hold hwritable (fun h => (vtypeOk_iff _).2 (hv h))]
  · obtain ⟨new, hexec⟩ := exec_csr (s := s) hi
    exact ⟨_, by rw [hexec, csrOp_noCsr hno], takesTrap_trap s cILLEGAL_INSTR 0⟩
  · obtain ⟨f, hexec⟩ := exec_csr_writes (s := s) hi hwrites
    have hdenied : csrWritable s.cur.super csr.toNat = false := by
      rw [Bool.eq_false_iff, Ne, csrWritable_iff]
      rintro (h | h | ⟨hsuper, hlow, hhigh⟩)
      · exact hvtype h
      · exact hseed h
      · rcases hlevel with h | h | h
        · simp [hsuper] at h
        · omega
        · omega
    exact ⟨_, by rw [hexec, csrOp_denied hyes hdenied], takesTrap_trap s cCSR_ACCESS 0⟩
  · subst hrw
    have hillegal : vtypeOk (s.csrSrc src) = false := by
      rw [Bool.eq_false_iff, Ne, vtypeOk_iff]
      rintro ⟨hty, hmode, hzero⟩
      rcases hbad with h | h | h
      · exact BitVec.not_lt.2 h hty
      · exact BitVec.not_lt.2 h hmode
      · exact h hzero
    exact ⟨_, by rw [exec_csrrw, hvtype, csrOp_badVtype (f := fun _ => s.csrSrc src) hillegal], takesTrap_trap s cILLEGAL_INSTR 0⟩

end Sys2Proof.Machine
end

section
/-! Reductions and the running sum of the vector engine (R146, R147): the elements of a packed register, what an instruction of
the window that may run does, and the elements that the reductions put. -/

namespace Sys2Proof.Machine

/-! Elements of a register (R132). -/

/-- The number whose digits of w bits are the elements of a list. -/
theorem foldr_digits_div (w : Nat) (l : List Nat) (i : Nat) :
    l.foldr (fun e r => e % 2 ^ w + 2 ^ w * r) 0 / 2 ^ (w * i) % 2 ^ w = l.getD i 0 % 2 ^ w := by
  induction l generalizing i with
  | nil => simp
  | cons e r ih =>
    have hpos : 0 < 2 ^ w := Nat.two_pow_pos w
    cases i with
    | zero => simp
    | succ i =>
      rw [Nat.mul_succ, Nat.add_comm, Nat.pow_add, ← Nat.div_div_eq_div_mul, List.foldr_cons, Nat.add_mul_div_left _ _ hpos,
        Nat.div_eq_of_lt (Nat.mod_lt _ hpos), Nat.zero_add, ih]
      rfl

/-- A field that lies in the low n bits is that of the number cut to them. -/
theorem field_of_low (x : Nat) {k w n : Nat} (h : k + w ≤ n) : x % 2 ^ n / 2 ^ k % 2 ^ w = x / 2 ^ k % 2 ^ w := by
  have hsplit : 2 ^ n = 2 ^ k * 2 ^ (n - k) := by rw [← Nat.pow_add, Nat.add_sub_cancel' (by omega)]
  rw [hsplit, Nat.mod_mul_right_div_self, Nat.mod_mod_of_dvd _ (Nat.pow_dvd_pow 2 (by omega))]

/-- An element of a packed register is the one listed. -/
theorem velem_vpack {w i : Nat} (l : List Nat) (h : w * i + w ≤ 512) : velem w (vpack w l) i = l.getD i 0 % 2 ^ w := by
  rw [velem, vpack, BitVec.toNat_ofNat, field_of_low _ h, foldr_digits_div]

theorem velem_lt (w : Nat) (v : VWord) (i : Nat) : velem w v i < 2 ^ w := Nat.mod_lt _ (Nat.two_pow_pos w)

theorem width_pos (ty : ElemTy) : 0 < ty.width := by cases ty <;> decide

theorem lanes_pos (ty : ElemTy) : 0 < 512 / ty.width := by cases ty <;> decide

/-- Every element of a register lies in it. -/
theorem lane_fits {w j : Nat} (hj : j < 512 / w) : w * j + w ≤ 512 :=
  Nat.le_trans (Nat.mul_le_mul_left w hj) (Nat.mul_div_le 512 w)

/-! Contexts and windows. -/

theorem tget_foldl_natsFrom {α : Type} (d : Nat → α) (f : Nat → α → α) (lo n i : Nat) (t : Tbl α) :
    tget (d i) i ((natsFrom lo n).foldl (fun t k => tset k (f k (tget (d k) k t)) t) t) =
      if lo ≤ i ∧ i < lo + n then f i (tget (d i) i t) else tget (d i) i t := by
  induction n generalizing lo t with
  | zero =>
    rw [if_neg (by omega)]
    rfl
  | succ n ih =>
    rw [natsFrom, List.foldl_cons, ih, tget_tset]
    by_cases h : i = lo
    · rw [if_neg (show ¬(lo + 1 ≤ i ∧ i < lo + 1 + n) by omega), if_pos h, if_pos (by omega), h]
    · by_cases h2 : lo + 1 ≤ i ∧ i < lo + 1 + n
      · rw [if_pos h2, if_neg h, if_pos (by omega)]
      · rw [if_neg h2, if_neg h, if_neg (by omega)]

/-- The same change to each of the eight contexts of a core. -/
theorem ctx_mapCtxs (c : Core) (f : Nat → Ctx → Ctx) (n : Nat) :
    (c.mapCtxs f).ctx n = if n < 8 then f n (c.ctx n) else c.ctx n := by
  exact (tget_foldl_natsFrom Ctx.reset f 0 8 n c.ctxs).trans (by simp [Core.ctx])

/-- Every context of t is that of s but for its wait and its hold buffer, and t has the memory of s: what the vector engine does beside
its windows. -/
structure State.VKeeps (s t : State) : Prop where
  core : t.curCore = s.curCore
  ctx : t.curCtx = s.curCtx
  ctxs : ∀ k n, t.ctx k n = { s.ctx k n with wait := (t.ctx k n).wait, hold := (t.ctx k n).hold }
  mem : t.mem = s.mem

theorem State.VKeeps.refl (s : State) : s.VKeeps s := ⟨rfl, rfl, fun _ _ => rfl, rfl⟩

theorem State.VKeeps.trans {s t u : State} (h : s.VKeeps t) (g : t.VKeeps u) : s.VKeeps u := by
  refine ⟨g.core.trans h.core, g.ctx.trans h.ctx, fun k n => ?_, g.mem.trans h.mem⟩
  rw [g.ctxs k n, h.ctxs k n]

/-- A change of one core that keeps its contexts but for their waits and hold buffers. -/
theorem vkeeps_modCore (s : State) (k : Nat) (f : Core → Core)
    (h : ∀ n, (f (s.core k)).ctx n =
      { (s.core k).ctx n with wait := ((f (s.core k)).ctx n).wait, hold := ((f (s.core k)).ctx n).hold }) :
    s.VKeeps (s.modCore k f) := by
  refine ⟨rfl, rfl, fun j n => ?_, rfl⟩
  rw [modCore_eq, ctx_setCore]
  split
  · rename_i hj
    subst hj
    exact h n
  · rfl

theorem vkeeps_modCur (s : State) (f : Ctx → Ctx)
    (h : f s.cur = { s.cur with wait := (f s.cur).wait, hold := (f s.cur).hold }) : s.VKeeps (s.modCur f) := by
  refine vkeeps_modCore s s.curCore (fun c => c.setCtx s.curCtx (f (c.ctx s.curCtx))) fun n => ?_
  rw [ctx_setCtx]
  split
  · rename_i hn
    rw [hn]
    exact h
  · rfl

theorem win_modCur (s : State) (f : Ctx → Ctx) (j : Nat) : (s.modCur f).here.win j = s.here.win j := by
  rw [modCur_eq, here_setCore]
  rfl

theorem vkeeps_wakeUnits (s : State) (k : Nat) : s.VKeeps (s.wakeUnits k) := by
  refine vkeeps_modCore s k _ fun n => ?_
  rw [ctx_mapCtxs]
  split
  · split <;> rfl
  · rfl

theorem ctx_unhold (c : Core) (slot r n : Nat) :
    (c.unhold slot r).ctx n = { c.ctx n with hold := ((c.unhold slot r).ctx n).hold } := by
  unfold Core.unhold
  split
  · rfl
  · rw [ctx_mapCtxs]
    split
    · split <;> rfl
    · rfl

theorem win_modWin (c : Core) (w j : Nat) (f : Win → Win) : (c.modWin w f).win j = if j = w then f (c.win w) else c.win j :=
  tget_tset _ _ _ _ _

theorem win_unhold (c : Core) (slot r j : Nat) : (c.unhold slot r).win j = c.win j := by
  unfold Core.unhold
  split <;> rfl

theorem here_wakeUnits_win (s : State) (j : Nat) : (s.wakeUnits s.curCore).here.win j = s.here.win j := by
  rw [State.wakeUnits, State.wakeWhere, modCore_eq, here_setCore]
  rfl

/-! The steps at the end of a vector instruction. -/

theorem vkeeps_popRows (s : State) (w : Nat) (srcs : List VReg) : s.VKeeps (s.popRows w srcs) := by
  unfold State.popRows
  split
  · exact .refl s
  · exact (vkeeps_modCore s _ _ fun _ => rfl).trans (vkeeps_wakeUnits _ _)

theorem win_popRows (s : State) (w : Nat) (srcs : List VReg) (j : Nat) : (s.popRows w srcs).here.win j =
    if j = w then { s.here.win w with vin := (s.here.win w).vin.drop (portReads srcs) } else s.here.win j := by
  unfold State.popRows
  split
  · rename_i h
    rw [h]
    split
    · rename_i hj
      rw [hj]
      rfl
    · rfl
  · have hcore : s.curCore = (s.modHere fun c => c.modWin w fun x => { x with vin := x.vin.drop (portReads srcs) }).curCore := rfl
    rw [hcore, here_wakeUnits_win, modHere_eq, here_setCore, win_modWin]

theorem vkeeps_holds (s : State) (hs : List VReg) : s.VKeeps (s.holds hs) := by
  unfold State.holds
  split
  · exact .refl s
  · exact vkeeps_modCur s _ rfl

theorem win_holds (s : State) (hs : List VReg) (j : Nat) : (s.holds hs).here.win j = s.here.win j := by
  unfold State.holds
  split
  · rfl
  · exact win_modCur s _ j

theorem vkeeps_writeV (s : State) (w : Nat) (vd : VReg) (v : VWord) : s.VKeeps (s.writeV w vd v) := by
  unfold State.writeV
  split
  · exact (vkeeps_modCore s _ _ fun _ => rfl).trans (vkeeps_wakeUnits _ _)
  · refine vkeeps_modCore s _ _ fun n => ?_
    rw [ctx_unhold]
    rfl

/-- A window after a write of its register vd, or of a row of vout. -/
def Win.put (x : Win) (vd : VReg) (v : VWord) : Win :=
  if vd = 31 then { x with vout := x.vout ++ [v] } else { x with regs := tset vd.toNat v x.regs }

theorem win_writeV (s : State) (w : Nat) (vd : VReg) (v : VWord) (j : Nat) :
    (s.writeV w vd v).here.win j = if j = w then (s.here.win w).put vd v else s.here.win j := by
  unfold State.writeV Win.put
  split
  · have hcore : s.curCore = (s.modHere fun c => c.modWin w fun x => { x with vout := x.vout ++ [v] }).curCore := rfl
    rw [hcore, here_wakeUnits_win, modHere_eq, here_setCore, win_modWin]
  · rw [modHere_eq, here_setCore, win_unhold, win_modWin]

theorem regs_put (x : Win) (vd : VReg) (v : VWord) (r : Nat) :
    tget 0 r (x.put vd v).regs = if vd ≠ 31 ∧ r = vd.toNat then v else tget 0 r x.regs := by
  unfold Win.put
  split
  · rename_i h
    simp [h]
  · rename_i h
    simp only [tget_tset, ne_eq, h, not_false_eq_true, true_and]

theorem vin_put (x : Win) (vd : VReg) (v : VWord) : (x.put vd v).vin = x.vin := by
  unfold Win.put
  split <;> rfl

theorem vout_put (x : Win) (vd : VReg) (v : VWord) : (x.put vd v).vout = x.vout ++ if vd = 31 then [v] else [] := by
  unfold Win.put
  split
  · rfl
  · exact (List.append_nil _).symm

/-- The window of an instruction that ends. -/
theorem win_vdone (s : State) (w : Nat) (srcs hs : List VReg) (vd : VReg) (v : VWord) (j : Nat) :
    (s.vdone w srcs hs vd v).here.win j =
      if j = w then Win.put { s.here.win w with vin := (s.here.win w).vin.drop (portReads srcs) } vd v else s.here.win j := by
  rw [State.vdone, State.complete, win_modCur, win_writeV, win_holds, win_holds, win_popRows, win_popRows, if_pos rfl]
  split <;> rfl

/-- The end of an instruction that writes a vector register or a port, which may have moved the generator. -/
theorem vputs_vdone (s : State) (seed : BitVec 32) (w : Nat) (srcs hs : List VReg) (vd : VReg) (v : VWord) :
    s.VPuts ((s.modCur fun c => { c with rndseed := seed }).vdone w srcs hs vd v) w srcs vd v := by
  have hseed : (s.modCur fun c => { c with rndseed := seed }).cur = { s.cur with rndseed := seed } := by simp
  have hothers := keepsOthers_modCur s fun c => { c with rndseed := seed }
  have hwin := win_vdone (s.modCur fun c => { c with rndseed := seed }) w srcs hs vd v
  simp only [win_modCur] at hwin
  have hkeeps : (s.modCur fun c => { c with rndseed := seed }).VKeeps
      ((((s.modCur fun c => { c with rndseed := seed }).popRows w srcs).holds hs).writeV w vd v) :=
    ((vkeeps_popRows _ w srcs).trans (vkeeps_holds _ hs)).trans (vkeeps_writeV _ w vd v)
  unfold State.vdone at hwin ⊢
  generalize (((s.modCur fun c => { c with rndseed := seed }).popRows w srcs).holds hs).writeV w vd v = u at hkeeps hwin ⊢
  refine ⟨fun r => ?_, ?_, ?_, fun j hj => ?_, ?_, fun k n hkn => ?_, fun a => ?_⟩
  · rw [hwin, if_pos rfl, regs_put]
  · rw [hwin, if_pos rfl, vin_put]
  · rw [hwin, if_pos rfl, vout_put]
  · rw [hwin, if_neg hj]
  · have hcur : u.cur = { s.cur with rndseed := seed, wait := u.cur.wait, hold := u.cur.hold } := by
      rw [State.cur, hkeeps.core, hkeeps.ctx, hkeeps.ctxs]
      show ({ (s.modCur fun c => { c with rndseed := seed }).cur with wait := _, hold := _ } : Ctx) = _
      rw [hseed]
    rw [complete_eq, cur_setCore, ctx_setCtx_same, hcur]
  · have hother : u.complete.ctx k n = u.ctx k n :=
      keepsOthers_modCur u _ k n (by rw [hkeeps.core, hkeeps.ctx]; exact hkn)
    rw [hother, hkeeps.ctxs, hothers k n hkn]
  · rw [complete_eq, setCore_mem, hkeeps.mem]
    rfl

/-- An instruction of the window that may run acts on the values of its sources. -/
theorem onWindow_ready {s : State} {w : Nat} {ok : Bool} {srcs : List VReg} {vd : VReg} (h : s.VReady w ok srcs vd)
    (act : Nat → List VWord → State → State) :
    s.onWindow ok srcs (vd = 31) act = act w (sources (s.here.win w).regs srcs (s.here.win w).vin) s := by
  obtain ⟨hwindow, hvtype, hlegal, hnoErr, hrows, hroom⟩ := h
  have hreads : portReads srcs ≠ 0 → 30 ∈ srcs := by
    simp [portReads]
  have hpend : ∀ go, s.orPending (if decide (vd = 31) || portReads srcs ≠ 0 then [.copy] else []) go = go s := by
    intro go
    split
    · rename_i hport
      have herr : s.cur.copyErr = none := by
        rw [Bool.or_eq_true, decide_eq_true_eq, decide_eq_true_eq] at hport
        exact hnoErr (hport.imp_right hreads)
      simp [State.orPending, State.firstPend, State.pend, herr]
    · rfl
  have hfits : (decide ((s.here.win w).vin.length < portReads srcs) || (decide (vd = 31) && decide (4 ≤ (s.here.win w).vout.length))) =
      false := by
    rw [Bool.eq_false_iff, Ne, Bool.or_eq_true, Bool.and_eq_true, decide_eq_true_eq, decide_eq_true_eq, decide_eq_true_eq]
    rintro (h | ⟨h, hfull⟩)
    · omega
    · have := hroom h
      omega
  simp only [State.onWindow, State.onWindowDue, hwindow, hlegal, hvtype, hpend, hfits, Bool.not_true, Bool.or_self,
    Bool.false_eq_true, if_false]

/-! A reduction (R146). -/

/-- Element j of the source of a reduction, none where it is disabled. -/
def State.laneOf (s : State) (w : Nat) (o : VUn) (j : Nat) : Option Nat :=
  if s.cur.enabled o.msel j then some (velem s.cur.vt.ty.width (s.vsrc w [o.vs1] 0) j) else none

theorem vreduce_ready {s : State} {w : Nat} {o : VUn} {legal : ElemTy → Bool}
    (h : s.VReady w (okArith s.cur.vt.ty && legal s.cur.vt.ty) [o.vs1] o.vd) (rounds : Bool)
    (f : VT → List (BitVec 32) → List (Option Nat) → List Nat) :
    let n := 512 / s.cur.vt.ty.width
    s.VPuts (s.vreduce legal rounds o f) w [o.vs1] o.vd (vpack s.cur.vt.ty.width
      (f s.cur.vt (s.cur.draws (rounds && s.cur.vt.ty.isFloat) n).1 ((natsFrom 0 n).map (s.laneOf w o)))) := by
  intro n
  rw [State.vreduce, onWindow_ready h]
  exact vputs_vdone ..

/-! Groups of elements. -/

theorem natsFrom_eq_range' (lo n : Nat) : natsFrom lo n = List.range' lo n := by
  induction n generalizing lo with
  | zero => rfl
  | succ n ih => rw [natsFrom, ih, List.range'_succ]

/-- A run of g elements from place k. -/
theorem take_drop_map_natsFrom {α : Type} (e : Nat → α) {n g k : Nat} (h : k + g ≤ n) :
    (((natsFrom 0 n).map e).drop k).take g = (List.range g).map fun q => e (k + q) := by
  rw [natsFrom_eq_range', ← List.map_drop, ← List.map_take, List.drop_range', List.take_range'_of_length_ge (by omega),
    List.range'_eq_map_range, List.map_map]
  simp [Function.comp_def]

theorem getD_map_chunksOf {α : Type} (f : List α → Nat) (g m : Nat) (l : List α) (j : Nat) :
    ((chunksOf g m l).map f).getD j 0 = if j < m then f ((l.drop (g * j)).take g) else 0 := by
  induction m generalizing l j with
  | zero => rfl
  | succ m ih =>
    rw [chunksOf, List.map_cons]
    cases j with
    | zero => simp
    | succ j =>
      rw [List.getD_cons_succ, ih, List.drop_drop, Nat.mul_succ, Nat.add_comm g]
      simp

/-- The results of a reduction in groups of g are those of the groups in order. -/
def InGroups (n g : Nat) (F : List (Option Nat) → List Nat) (f : List (Option Nat) → Nat) : Prop :=
  ∀ (e : Nat → Option Nat) (j : Nat),
    (F ((natsFrom 0 n).map e)).getD j 0 = if j < n / g then f ((List.range g).map fun q => e (g * j + q)) else 0

theorem inGroups_whole {n : Nat} (hn : 0 < n) (f : List (Option Nat) → Nat) : InGroups n n (fun l => [f l]) f := by
  intro e j
  rw [Nat.div_self hn]
  cases j with
  | zero => simp [natsFrom_eq_range', List.range_eq_range']
  | succ j => rfl

theorem inGroups_chunksOf (n g : Nat) (f : List (Option Nat) → Nat) :
    InGroups n g (fun l => (chunksOf g (l.length / g) l).map f) f := by
  intro e j
  rw [getD_map_chunksOf, List.length_map, length_natsFrom]
  split
  · rename_i hj
    have hend : g * j + g ≤ n := Nat.le_trans (Nat.mul_le_mul_left g hj) (Nat.mul_div_le n g)
    rw [take_drop_map_natsFrom e hend]
  · rfl

/-- A reduction in groups puts the results of the groups, and zeros behind them. -/
theorem vreduce_inGroups {s : State} {w : Nat} {o : VUn} {legal : ElemTy → Bool}
    (h : s.VReady w (okArith s.cur.vt.ty && legal s.cur.vt.ty) [o.vs1] o.vd) {rounds : Bool}
    {F : VT → List (BitVec 32) → List (Option Nat) → List Nat} {f : List (BitVec 32) → List (Option Nat) → Nat} {g : Nat}
    (hF : ∀ rs, InGroups (512 / s.cur.vt.ty.width) g (F s.cur.vt rs) (f rs)) :
    let W := s.cur.vt.ty.width
    ∃ v, s.VPuts (s.vreduce legal rounds o F) w [o.vs1] o.vd v ∧ ∀ j, j < 512 / W → velem W v j =
      if j < 512 / W / g then f (s.cur.draws (rounds && s.cur.vt.ty.isFloat) (512 / W)).1
        ((List.range g).map fun q => s.laneOf w o (g * j + q)) % 2 ^ W else 0 := by
  intro W
  refine ⟨_, vreduce_ready h rounds F, fun j hj => ?_⟩
  rw [velem_vpack _ (lane_fits hj), hF]
  split
  · rfl
  · exact Nat.zero_mod _

/-! The running sum (R147). -/

/-- A source element of the running sum, with what stands for a disabled one. -/
def laneValue (t : VT) (x : Option Nat) : Nat := x.getD (if t.ty.isFloat then 2 ^ (t.ty.width - 1) else 0)

theorem getD_scanFrom_zero (t : VT) (ht : t.ty.isFloat = false) (rs : List (BitVec 32)) (xs : List (Option Nat)) (h : 0 < xs.length) :
    (scanFrom t none rs xs).getD 0 0 = laneValue t (xs.getD 0 none) := by
  cases xs with
  | nil => simp at h
  | cons x xs => simp [scanFrom, laneValue, ht]

/-- Each further sum adds one element to the sum before it. -/
theorem getD_scanFrom_succ (t : VT) (acc : Option Nat) (rs : List (BitVec 32)) (xs : List (Option Nat)) (j : Nat)
    (h : j + 1 < xs.length) : (scanFrom t acc rs xs).getD (j + 1) 0 =
      arith2 (· + ·) FV.add t (rs.getD (j + 1) 0) 0 ((scanFrom t acc rs xs).getD j 0) (laneValue t (xs.getD (j + 1) none)) := by
  induction xs generalizing acc rs j with
  | nil => simp at h
  | cons x xs ih =>
    have htail : ∀ k, rs.getD (k + 1) 0 = rs.tail.getD k 0 := fun k => by cases rs <;> rfl
    rw [htail, scanFrom.eq_def, List.getD_cons_succ]
    cases j with
    | zero =>
      cases xs with
      | nil => simp at h
      | cons y ys =>
        have hhead : rs.tail.headD 0 = rs.tail.getD 0 0 := by cases rs.tail <;> rfl
        rw [← hhead]
        rfl
    | succ j => exact ih _ rs.tail j (by simpa using h)

theorem intCode_lt (t : ElemTy) (sat : Bool) (n : Int) : intCode t sat n < 2 ^ t.width := by
  have hpos : (0 : Int) < 2 ^ t.width := Int.pow_pos (by decide)
  rw [intCode, wrapCode, Int.toNat_lt (Int.emod_nonneg _ (Int.ne_of_gt hpos))]
  exact_mod_cast Int.emod_lt_of_pos _ hpos

/-- A code of a signed format is read modulo its width. -/
theorem fval_mod {t : ElemTy} (h : t.fmt.signed = true) (a : Nat) : fval t (a % 2 ^ t.width) = fval t a := by
  have hw := width_pos t
  have hsign : (a % 2 ^ t.width).testBit (t.width - 1) = a.testBit (t.width - 1) := by
    rw [Nat.testBit_mod_two_pow, decide_eq_true (by omega), Bool.true_and]
  have hmag : a % 2 ^ t.width % 2 ^ (t.width - 1) = a % 2 ^ (t.width - 1) :=
    Nat.mod_mod_of_dvd a (Nat.pow_dvd_pow 2 (by omega))
  simp only [fval, h, hsign, hmag, if_true]

theorem signed_of_okArith {t : ElemTy} (h : okArith t = true) (hf : t.isFloat = true) : t.fmt.signed = true := by
  revert h hf
  cases t <;> decide

theorem laneValue_laneOf (s : State) (w : Nat) (o : VUn) (j : Nat) : laneValue s.cur.vt (s.laneOf w o j) =
    if s.cur.enabled o.msel j then velem s.cur.vt.ty.width (s.vsrc w [o.vs1] 0) j
    else if s.cur.vt.ty.isFloat then 2 ^ (s.cur.vt.ty.width - 1) else 0 := by
  unfold laneValue State.laneOf
  split <;> rfl

theorem laneValue_lt (s : State) (w : Nat) (o : VUn) (j : Nat) : laneValue s.cur.vt (s.laneOf w o j) < 2 ^ s.cur.vt.ty.width := by
  have hw := width_pos s.cur.vt.ty
  unfold laneValue State.laneOf
  split
  · exact velem_lt _ _ _
  · show (if _ then _ else _) < _
    split
    · exact Nat.pow_lt_pow_right (by omega) (by omega)
    · exact Nat.two_pow_pos _

/-- An integer sum is a code of its type. -/
theorem getD_scanFrom_lt (t : VT) (ht : t.ty.isFloat = false) (rs : List (BitVec 32)) (xs : List (Option Nat)) (j : Nat)
    (hj : j < xs.length) (h : laneValue t (xs.getD 0 none) < 2 ^ t.ty.width) :
    (scanFrom t none rs xs).getD j 0 < 2 ^ t.ty.width := by
  cases j with
  | zero => rwa [getD_scanFrom_zero t ht rs xs hj]
  | succ j =>
    rw [getD_scanFrom_succ t none rs xs j hj, arith2, ht]
    exact intCode_lt _ _ _

theorem getD_map_natsFrom {α : Type} (e : Nat → α) (d : α) {n j : Nat} (h : j < n) : ((natsFrom 0 n).map e).getD j d = e j := by
  simp [natsFrom_eq_range', h]

/-- VSCAN: each element is the sum before it and one element more; the random values count for floats only. -/
theorem vscan_elements {s : State} (w : Nat) (o : VUn) (h : okArith s.cur.vt.ty = true) {rs rs' : List (BitVec 32)}
    (hrs : s.cur.vt.ty.isFloat = true → rs = rs') :
    let T := s.cur.vt
    let W := T.ty.width
    let n := 512 / W
    let v := vpack W (scanFrom T none rs ((natsFrom 0 n).map (s.laneOf w o)))
    let x (j : Nat) : Nat := if s.cur.enabled o.msel j then velem W (s.vsrc w [o.vs1] 0) j
      else if T.ty.isFloat then 2 ^ (W - 1) else 0
    (T.ty.isFloat = false → velem W v 0 = x 0) ∧
      ∀ j, j + 1 < n → velem W v (j + 1) =
        if T.ty.isFloat then roundF T.ty T.mode T.sat (rs'.getD (j + 1) 0)
          (FV.add T.mode (fval T.ty (velem W v j)) (fval T.ty (x (j + 1)))) % 2 ^ W
        else intCode T.ty T.sat (ival T.ty (velem W v j) + ival T.ty (x (j + 1))) := by
  intro T W n v x
  have hn : 0 < n := lanes_pos T.ty
  have hlen : ((natsFrom 0 n).map (s.laneOf w o)).length = n := by rw [List.length_map, length_natsFrom]
  have helem : ∀ j, j < n → velem W v j = (scanFrom T none rs ((natsFrom 0 n).map (s.laneOf w o))).getD j 0 % 2 ^ W :=
    fun j hj => velem_vpack _ (lane_fits hj)
  have hx : ∀ j, j < n → laneValue T (((natsFrom 0 n).map (s.laneOf w o)).getD j none) = x j := fun j hj => by
    rw [getD_map_natsFrom _ _ hj, laneValue_laneOf]
  have hx0 : x 0 < 2 ^ W := Nat.lt_of_le_of_lt (Nat.le_of_eq (laneValue_laneOf s w o 0).symm) (laneValue_lt s w o 0)
  refine ⟨fun hint => ?_, fun j hj => ?_⟩
  · rw [helem 0 hn, getD_scanFrom_zero T hint _ _ (by rwa [hlen]), hx 0 hn, Nat.mod_eq_of_lt hx0]
  · rw [helem (j + 1) hj, getD_scanFrom_succ T none rs _ j (by rwa [hlen]), hx (j + 1) hj, helem j (by omega)]
    unfold arith2
    split
    · rename_i hfloat
      rw [fval_mod (signed_of_okArith h hfloat), hrs hfloat]
      rfl
    · rename_i hint
      have hlt := getD_scanFrom_lt T (by simpa using hint) rs _ j (by rw [hlen]; omega) (by rwa [hx 0 hn])
      rw [Nat.mod_eq_of_lt hlt]
      exact Nat.mod_eq_of_lt (intCode_lt _ _ _)

/-! The instructions as reductions. -/

theorem exec_vredsum (o : VUn) (s : State) :
    exec (.vredsum o) s = .next (s.vreduce (fun _ => true) true o fun t rs xs => [redSum t (rs.headD 0) xs]) := rfl

theorem exec_vredmax (o : VUn) (s : State) :
    exec (.vredmax o) s = .next (s.vreduce (fun _ => true) false o fun t _ xs => [redPick true t xs]) := rfl

theorem exec_vredmin (o : VUn) (s : State) :
    exec (.vredmin o) s = .next (s.vreduce (fun _ => true) false o fun t _ xs => [redPick false t xs]) := rfl

theorem exec_vredmaxG (z : GroupSize) (o : VUn) (s : State) : exec (.vredmaxG z o) s =
    .next (s.vreduce (fun t => decide (GroupSize.num z ≤ 512 / t.width)) false o fun t _ xs =>
      (chunksOf (GroupSize.num z) (xs.length / GroupSize.num z) xs).map (redPick true t)) := rfl

theorem exec_vredminG (z : GroupSize) (o : VUn) (s : State) : exec (.vredminG z o) s =
    .next (s.vreduce (fun t => decide (GroupSize.num z ≤ 512 / t.width)) false o fun t _ xs =>
      (chunksOf (GroupSize.num z) (xs.length / GroupSize.num z) xs).map (redPick false t)) := rfl

theorem exec_vscan (o : VUn) (s : State) :
    exec (.vscan o) s = .next (s.vreduce (fun _ => true) true o fun t rs xs => scanFrom t none rs xs) := rfl

/-- Settles O33: each reduction puts the results of its groups in order, and VSCAN the sums that grow by one element. -/
theorem vectorReductions : Obligations.VectorReductions := by
  unfold Obligations.VectorReductions
  intro s w T W n
  have hn : 0 < n := lanes_pos T.ty
  refine ⟨fun o i g rounds f hi hready => ?_, fun o hready => ?_⟩
  · obtain ⟨legal, F, hexec, hok, hF⟩ : ∃ (legal : ElemTy → Bool) (F : VT → List (BitVec 32) → List (Option Nat) → List Nat),
        exec i s = .next (s.vreduce legal rounds o F) ∧ legal T.ty = decide (g ≤ n) ∧ ∀ rs, InGroups n g (F T rs) (f rs) := by
      have hwhole : true = decide (n ≤ n) := by simp
      rcases hi with ⟨rfl, rfl, rfl, rfl⟩ | ⟨rfl, rfl, rfl, rfl⟩ | ⟨rfl, rfl, rfl, rfl⟩ | ⟨z, rfl, rfl, rfl, rfl⟩ | ⟨z, rfl, rfl, rfl, rfl⟩
      · exact ⟨_, _, exec_vredsum o s, hwhole, fun _ => inGroups_whole hn _⟩
      · exact ⟨_, _, exec_vredmax o s, hwhole, fun _ => inGroups_whole hn _⟩
      · exact ⟨_, _, exec_vredmin o s, hwhole, fun _ => inGroups_whole hn _⟩
      · exact ⟨_, _, exec_vredmaxG z o s, rfl, fun _ => inGroups_chunksOf n _ _⟩
      · exact ⟨_, _, exec_vredminG z o s, rfl, fun _ => inGroups_chunksOf n _ _⟩
    rw [← hok] at hready
    obtain ⟨v, hputs, helems⟩ := vreduce_inGroups hready hF
    exact ⟨_, v, hexec, hputs, helems⟩
  · have hok : okArith T.ty = true := hready.legal
    have hlegal : s.VReady w (okArith T.ty && true) [o.vs1] o.vd := by rwa [Bool.and_true]
    have hdraws : T.ty.isFloat = true → (s.cur.draws (true && T.ty.isFloat) n).1 = (s.cur.draws true n).1 := fun hfloat => by
      rw [hfloat, Bool.and_true]
    exact ⟨_, _, exec_vscan o s, vreduce_ready (legal := fun _ => true) hlegal true _, vscan_elements w o hok hdraws⟩

end Sys2Proof.Machine
end

section
/-! The copy engine at work (R188-R205): what becomes of a command that is ready at the end of its row, how the work of CPYN, RINGPUT,
STREAMIN, STREAMOUT, MCAST and L2PINFILL ends, and what sending a word of hardware changes. -/

namespace Sys2Proof.Machine

/-! A command that is ready (R188, R190). -/

/-- What the end of its work on a row, begun in state s, makes of a command. -/
def RowEnd.after (e : RowEnd) (s : State) (r : CmdRef) (q : CopyCmd) : State :=
  match e with
  | .go u => (u.modCopy r.core r.seq (fun q => { q with row := q.row + 1, st := .waiting })).planCmd r.core q.hd
  | .fin u => u.copyFinish r 0
  | .err x => s.copyStop r q x
  | .bad u c a => u.copyFail r q c a
  | .wait u => u.planCmd r.core q.hd

theorem copyRun_ready {s : State} {r : CmdRef} {q : CopyCmd} (h : s.CopyReady r q) (work : CopyCmd → State → RowEnd) :
    s.copyRun r work = (work q s).after s r q := by
  obtain ⟨hfound, hwaits, hruns, hfirst, hreleased⟩ := h
  have hgo : (!((s.core r.core).copyFirst q && s.released q.hd)) = false := by rw [hfirst, hreleased]; rfl
  unfold State.copyRun
  rw [hfound]
  rcases hwaits with hst | hst <;> simp only [hst, hruns, hgo, Bool.false_eq_true, if_false] <;> rfl

theorem rowTo_after_rowNext (s u : State) (r : CmdRef) (q : CopyCmd) (rows : Nat) :
    u.RowTo ((rowNext q.row rows u).after s r q) r q rows := by
  unfold State.RowTo rowNext
  split <;> rfl

/-! What the end of a row leaves alone. -/

theorem planCmd_cases (s : State) (k : Nat) (h : CmdHead) : s.planCmd k h = s ∨ ∃ i, s.planCmd k h = s.plan i := by
  unfold State.planCmd
  split
  · exact .inr ⟨_, rfl⟩
  · exact .inl rfl

theorem mem_planCmd (s : State) (k : Nat) (h : CmdHead) : (s.planCmd k h).mem = s.mem := by
  rcases planCmd_cases s k h with heq | ⟨i, heq⟩ <;> rw [heq]
  rfl

theorem core_planCmd (s : State) (k : Nat) (h : CmdHead) (j : Nat) : (s.planCmd k h).core j = s.core j := by
  rcases planCmd_cases s k h with heq | ⟨i, heq⟩ <;> rw [heq]
  rfl

theorem win_modCopy (s : State) (k seq : Nat) (f : CopyCmd → CopyCmd) (w : Nat) :
    ((s.modCopy k seq f).core k).win w = (s.core k).win w := by
  rw [State.modCopy, modCore_eq, core_setCore_same]
  rfl

theorem mem_after_rowNext (s u : State) (r : CmdRef) (q : CopyCmd) (rows : Nat) :
    ((rowNext q.row rows u).after s r q).mem = u.mem := by
  unfold rowNext
  split
  · exact mem_planCmd _ _ _
  · rfl

theorem win_after_rowNext (s u : State) (r : CmdRef) (q : CopyCmd) (rows w : Nat) :
    (((rowNext q.row rows u).after s r q).core r.core).win w = (u.core r.core).win w := by
  unfold rowNext
  split
  · exact (congrArg (Core.win · w) (core_planCmd _ _ _ _)).trans (win_modCopy u r.core r.seq _ w)
  · exact win_modCopy u r.core r.seq _ w

/-- Waking the units changes no core but in its contexts. -/
theorem core_wakeUnits (s : State) (k j : Nat) : ∃ xs, (s.wakeUnits k).core j = { s.core j with ctxs := xs } := by
  rw [State.wakeUnits, State.wakeWhere, modCore_eq, core_setCore]
  split
  · rename_i hj
    subst hj
    exact ⟨_, rfl⟩
  · exact ⟨_, rfl⟩

/-- A window that a stream has changed, once the waiting units have been woken. -/
theorem win_wakeUnits_modWin (s : State) (k w : Nat) (f : Win → Win) :
    (((s.modCore k fun c => c.modWin w f).wakeUnits k).core k).win w = f ((s.core k).win w) := by
  obtain ⟨xs, hwake⟩ := core_wakeUnits (s.modCore k fun c => c.modWin w f) k k
  rw [hwake, modCore_eq, core_setCore_same]
  exact (win_modWin ..).trans (if_pos rfl)

section
variable {s : State} {k : Nat} {q : CopyCmd}

/-! CPYN (R195, R199). -/

theorem cpynNotify_away (h : s.engHome k = false) : s.cpynNotify k q = .wait s := by
  simp [State.cpynNotify, h]

theorem cpynNotify_message {d : Nat} (h : s.engHome k = true) (hf : cFlag q.hd.word 0 = true)
    (hd : coreOfIdent s.grade (cOp q.hd.word 5) = some d) :
    s.cpynNotify k q = .fin (s.sendNotify k q d (cBits q.hd.word 6 4 0)) := by
  simp [State.cpynNotify, h, hf, hd]

theorem cpynNotify_word {l : Loc} {ls : List Loc} (h : s.engHome k = true)
    (hf : cFlag q.hd.word 0 = false) (hl : s.engPlaces k q.hd .store (cAddr q.hd.word 5) 8 = .ok (l :: ls)) (hown : l.kind = .own) :
    s.cpynNotify k q = .fin (s.sendFeNotify k q l.key) := by
  simp [State.cpynNotify, h, hf, hl, hown]

/-! RINGPUT (R168, R203). -/

/-- The bytes that a RINGPUT puts into its slot: the tile, and the scales on a ring that has them. -/
def CopyCmd.slotBytes (q : CopyCmd) (vs sd : List Nat) : List Byte :=
  ringBytes (cBits q.hd.word 3 7 4) (q.conv.elems q.seed 0 vs) ++ packBytes 8 sd.length sd

theorem ringPut_slot {g : Ring} {vs sd : List Nat}
    (hg : (s.core k).mat.ring (cBits q.hd.word 3 2 0) = g) (hfits : g.fits (decide (q.recs.length = 2)) = true)
    (hkept : g.revoked = false) (hroom : g.count < g.slots)
    (hvs : s.engElems k q.hd (q.recs.getD 0 0) 0 (shCount (q.recs.getD 0 0)) = .ok vs)
    (hsd : (if g.side then s.engElems k q.hd (q.recs.getD 1 0) 0 512 else .ok []) = .ok sd) :
    s.ringPut k q = .fin ((s.perform k 8 ((s.keyLocs (g.slotKey k g.tail) (q.slotBytes vs sd).length).zip (q.slotBytes vs sd))).modRing k
      (cBits q.hd.word 3 2 0) Ring.push) := by
  have hnotFull : ¬g.slots ≤ g.count := by omega
  simp only [State.ringPut, hg, hfits, hkept, hnotFull, hvs, hsd, Bool.not_true, Bool.false_eq_true, if_false]
  rfl

theorem ringPut_full {g : Ring} (hg : (s.core k).mat.ring (cBits q.hd.word 3 2 0) = g)
    (hfits : g.fits (decide (q.recs.length = 2)) = true) (hkept : g.revoked = false) (hfull : g.slots ≤ g.count) :
    s.ringPut k q = .wait s := by
  simp [State.ringPut, hg, hfits, hkept, hfull]

/-! STREAMIN and STREAMOUT (R204). -/

/-- How many elements of the streamed type a row of a window holds. -/
def CopyCmd.lanes (q : CopyCmd) : Nat := 512 / (typeOf (cBits q.hd.word 3 3 0)).width

/-- How many elements the next row of a stream of n takes. -/
def CopyCmd.rowLen (q : CopyCmd) (n : Nat) : Nat := min q.lanes (n - q.row * q.lanes)

theorem rowLen_eq (q : CopyCmd) (n : Nat) :
    (if n - q.row * q.lanes < q.lanes then n - q.row * q.lanes else q.lanes) = q.rowLen n := by
  unfold CopyCmd.rowLen
  split <;> omega

theorem streamIn_released (h : q.released = true) : s.streamIn k q = .fin s := by
  simp [State.streamIn, h]

theorem streamOut_released (h : q.released = true) : s.streamOut k q = .fin s := by
  simp [State.streamOut, h]

theorem streamIn_full {w : Nat} (hw : (s.core k).heldBy q.hd.slot = some w)
    (hheld : q.released = false) (hfull : 4 ≤ ((s.core k).win w).vin.length) : s.streamIn k q = .wait s := by
  simp [State.streamIn, hw, hheld, hfull]

theorem streamOut_empty {w : Nat} (hw : (s.core k).heldBy q.hd.slot = some w)
    (hheld : q.released = false) (hempty : ((s.core k).win w).vout = []) : s.streamOut k q = .wait s := by
  simp [State.streamOut, hw, hheld, hempty]

theorem streamIn_row {w : Nat} {vs : List Nat} (hw : (s.core k).heldBy q.hd.slot = some w)
    (hheld : q.released = false) (hroom : ((s.core k).win w).vin.length < 4)
    (hvs : s.engElems k q.hd (q.recs.getD 0 0) (q.row * q.lanes) (q.rowLen (shCount (q.recs.getD 0 0))) = .ok vs) :
    s.streamIn k q = rowNext q.row ((shCount (q.recs.getD 0 0) + q.lanes - 1) / q.lanes)
      ((s.modCore k fun c => c.modWin w fun x => { x with vin := x.vin ++ [BitVec.ofNat 512 (leNat (packBytes
        (typeOf (cBits q.hd.word 3 3 0)).width 64 (q.conv.elems q.seed (q.row * q.lanes) vs)))] }).wakeUnits k) := by
  have hnotFull : ¬4 ≤ ((s.core k).win w).vin.length := by omega
  rw [← rowLen_eq] at hvs
  unfold CopyCmd.lanes at hvs ⊢
  simp only [State.streamIn, hheld, hw, hnotFull, hvs, Bool.false_eq_true, if_false]

theorem streamOut_row {u : State} {w : Nat} {row : VWord} {rest : List VWord}
    (hw : (s.core k).heldBy q.hd.slot = some w) (hheld : q.released = false) (hrow : ((s.core k).win w).vout = row :: rest)
    (hu : s.engPuts k q.hd (q.recs.getD 0 0) ((natsFrom (q.row * q.lanes) (q.rowLen (shCount (q.recs.getD 0 0)))).zip
      (q.conv.elems q.seed (q.row * q.lanes) ((natsFrom 0 (q.rowLen (shCount (q.recs.getD 0 0)))).map
        (velem (typeOf (cBits q.hd.word 3 3 0)).width row)))) = .ok u) :
    s.streamOut k q = rowNext q.row ((shCount (q.recs.getD 0 0) + q.lanes - 1) / q.lanes)
      ((u.modCore k fun c => c.modWin w fun x => { x with vout := rest }).wakeUnits k) := by
  rw [← rowLen_eq] at hu
  unfold CopyCmd.lanes at hu ⊢
  simp only [State.streamOut, hheld, hw, hrow, hu, Bool.false_eq_true, if_false]

/-! MCAST (R201). -/

/-- The payload reaches the destinations one after the other. -/
def State.castTo (s : State) (k : Nat) (q : CopyCmd) (vs : List Nat) (ranks : List Nat) : State :=
  ranks.foldl (fun x rank => x.storeFrom k 8 (some q.hd.name) (BitVec.ofNat 64 (cBits q.hd.word 3 15 0))
    ((x.keyLocs (lmemKey (coreOfRank rank) (cBits q.hd.word 3 15 0)) (packedLen (q.recs.getD 0 0))).zip
      (packBytes (shType (q.recs.getD 0 0)).width (packedLen (q.recs.getD 0 0)) vs))) s

theorem mcast_payload {vs es : List Nat} (hrow : q.row = 0)
    (hvs : s.engElems k q.hd (q.recs.getD 0 0) 0 (shCount (q.recs.getD 0 0)) = .ok vs) (hes : s.castList k q = .ok es) :
    s.mcast k q = .go ((s.castTo k q vs (castDests s.grade q.hd.word es).1).modCopy k q.hd.seq fun x =>
      { x with marks := (castDests s.grade q.hd.word es).1, badAt := (castDests s.grade q.hd.word es).2 }) := by
  simp only [State.mcast, hrow, hvs, hes, if_true]
  rfl

theorem mcast_away (hrow : q.row ≠ 0) (h : s.engHome k = false) : s.mcast k q = .wait s := by
  simp [State.mcast, hrow, h]

theorem mcast_noDest (hrow : q.row ≠ 0) (h : s.engHome k = true) (hgood : q.badAt = none)
    (hnone : q.marks = []) : s.mcast k q = .fin s := by
  simp [State.mcast, hrow, h, hgood, hnone]

theorem mcast_notify {rank : Nat} (hrow : q.row ≠ 0) (h : s.engHome k = true)
    (hgood : q.badAt = none) (hone : q.marks = [rank]) (hmsg : cFlag q.hd.word 0 = true) (hword : cFlag q.hd.word 1 = false) :
    s.mcast k q = .fin (s.sendNotify k q (coreOfRank rank) (cBits q.hd.word 3 20 16)) := by
  simp [State.mcast, hrow, h, hgood, hone, hmsg, hword]

/-! L2PINFILL (R205). -/

theorem pinFill_row {u : State} {bs : List (Word × Loc)}
    (hbs : s.rowBytes k q.hd (q.recs.getD 0 0) (natsFrom (rowOf (q.recs.getD 0 0) q.row).1 (rowOf (q.recs.getD 0 0) q.row).2) = .ok bs)
    (hpins : s.pinBytes k q bs = .go u) : s.pinFill k q = rowNext q.row (rowsOf (q.recs.getD 0 0)) u := by
  simp only [State.pinFill, hbs, hpins]

end

/-! A word of hardware on its way (R287, R292, R469). -/

/-- What a message says and where to, whatever becomes of it in the window. -/
def Msg.letter (m : Msg) : Nat × Nat × Nat × List Word := (m.uid, m.dst, m.chan, m.words)

/-- From s to t only the agenda, channels and the replay windows change, and every message of a window stays in it. -/
structure State.Posts (s t : State) : Prop where
  mem : SameMem s t
  core : ∀ j, ∃ ch w, t.core j = { s.core j with chans := ch, window := w } ∧
    ∀ m ∈ (s.core j).window, ∃ x ∈ w, x.letter = m.letter

theorem State.Posts.refl (s : State) : s.Posts s := ⟨.refl s, fun _ => ⟨_, _, rfl, fun m hm => ⟨m, hm, rfl⟩⟩⟩

theorem State.Posts.trans {s t u : State} (h : s.Posts t) (g : t.Posts u) : s.Posts u := by
  refine ⟨h.mem.trans g.mem, fun j => ?_⟩
  obtain ⟨ch, w, ht, hw⟩ := h.core j
  obtain ⟨ch', w', hu, hw'⟩ := g.core j
  rw [ht] at hu hw'
  refine ⟨ch', w', hu, fun m hm => ?_⟩
  obtain ⟨x, hx, hxm⟩ := hw m hm
  obtain ⟨y, hy, hyx⟩ := hw' x hx
  exact ⟨y, hy, hyx.trans hxm⟩

theorem State.Posts.plan {s t : State} (h : s.Posts t) (i : Instr) : s.Posts (t.plan i) :=
  h.trans ⟨⟨rfl, rfl, rfl⟩, fun _ => ⟨_, _, rfl, fun m hm => ⟨m, hm, rfl⟩⟩⟩

theorem posts_modCore {s : State} {k : Nat} {f : Core → Core} {ch : Tbl Chan} {w : List Msg}
    (hf : f (s.core k) = { s.core k with chans := ch, window := w })
    (hw : ∀ m ∈ (s.core k).window, ∃ x ∈ w, x.letter = m.letter) : s.Posts (s.modCore k f) := by
  refine ⟨sameMem_setCore _ _ _, fun j => ?_⟩
  rw [modCore_eq, core_setCore, hf]
  split
  · rename_i hj
    subst hj
    exact ⟨ch, w, rfl, hw⟩
  · exact ⟨_, _, rfl, fun m hm => ⟨m, hm, rfl⟩⟩

theorem posts_modChan (s : State) (k n : Nat) (f : Chan → Chan) : s.Posts (s.modChan k n f) :=
  posts_modCore rfl fun m hm => ⟨m, hm, rfl⟩

theorem exists_mem_updFirst {α : Type} (p : α → Bool) (f : α → α) {l : List α} {x : α} (h : x ∈ l) :
    x ∈ updFirst p f l ∨ f x ∈ updFirst p f l := by
  induction l with
  | nil => cases h
  | cons y l ih =>
    rw [updFirst]
    split
    · rcases List.mem_cons.1 h with rfl | h
      · exact .inr List.mem_cons_self
      · exact .inl (List.mem_cons_of_mem _ h)
    · rcases List.mem_cons.1 h with rfl | h
      · exact .inl List.mem_cons_self
      · exact (ih h).imp (List.mem_cons_of_mem _) (List.mem_cons_of_mem _)

theorem State.Posts.modMsg {s t : State} (h : s.Posts t) (k uid : Nat) {f : Msg → Msg} (hf : ∀ m, (f m).letter = m.letter) :
    s.Posts (t.modMsg k uid f) :=
  h.trans (posts_modCore rfl fun m hm => (exists_mem_updFirst _ f hm).elim (fun hx => ⟨m, hx, rfl⟩) fun hx => ⟨f m, hx, hf m⟩)

theorem posts_requestGrant (s : State) (k : Nat) (m : Msg) : s.Posts (s.requestGrant k m) := by
  unfold State.requestGrant
  split
  · exact .plan (.modMsg (.refl s) _ _ fun _ => by rfl) _
  · dsimp only
    split
    · exact .plan (.modMsg (posts_modChan s _ _ _) _ _ fun _ => by rfl) _
    · exact .modMsg (.refl s) _ _ fun _ => by rfl

theorem posts_startMsg (s : State) (k : Nat) (m : Msg) : s.Posts (s.startMsg k m) := by
  have hgrant : s.Posts (if m.grant then s.modMsg k m.uid (fun m => { m with grant := false }) else s) := by
    split
    · exact .modMsg (.refl s) _ _ fun _ => by rfl
    · exact .refl s
  unfold State.startMsg
  dsimp only
  generalize (if m.grant then _ else s) = u at hgrant ⊢
  split
  · exact hgrant.trans (posts_requestGrant u k m)
  · exact .plan (.modMsg hgrant _ _ fun _ => by rfl) _

/-- What the entry of a message into a window, or its wait for room there, may change of the cores. -/
structure State.SendsOnly (s t : State) : Prop where
  mem : SameMem s t
  core : ∀ j, ∃ ch w n hw, t.core j = { s.core j with chans := ch, window := w, nextUid := n, hwWait := hw }

theorem State.Posts.sendsOnly {s t u : State} (h : s.SendsOnly t) (g : t.Posts u) : s.SendsOnly u := by
  refine ⟨h.mem.trans g.mem, fun j => ?_⟩
  obtain ⟨ch, w, n, hw, ht⟩ := h.core j
  obtain ⟨ch', w', hu, -⟩ := g.core j
  exact ⟨ch', w', n, hw, by rw [hu, ht]⟩

theorem sendsOnly_modCore {s : State} {k : Nat} {f : Core → Core} {w hw : List Msg} {n : Nat}
    (hf : f (s.core k) = { s.core k with window := w, nextUid := n, hwWait := hw }) : s.SendsOnly (s.modCore k f) := by
  refine ⟨sameMem_setCore _ _ _, fun j => ?_⟩
  rw [modCore_eq, core_setCore, hf]
  split
  · rename_i hj
    subst hj
    exact ⟨_, _, _, _, rfl⟩
  · exact ⟨_, _, _, _, rfl⟩

theorem sendsOnly_enterWith (s : State) (k n dst chan : Nat) (ws : List Word) (frm : MsgFrom) (lines : List Nat) :
    s.SendsOnly (s.enterWith k n dst chan ws frm lines) :=
  (posts_startMsg _ _ _).sendsOnly (sendsOnly_modCore rfl)

theorem sendsOnly_sendHwWith (s : State) (k n dst chan : Nat) (ws : List Word) (frm : MsgFrom) (lines : List Nat) :
    s.SendsOnly (s.sendHwWith k n dst chan ws frm lines) := by
  unfold State.sendHwWith
  dsimp only
  split
  · exact sendsOnly_modCore rfl
  · exact sendsOnly_enterWith s k n dst chan ws frm lines

theorem sendsOnly_sendCompletion (s : State) (k : Nat) (h : CmdHead) (payload status acc : Nat) (lines : List Nat) :
    s.SendsOnly (s.sendCompletion k h payload status acc lines) := by
  unfold State.sendCompletion
  split
  · exact sendsOnly_sendHwWith ..
  · exact ⟨.refl s, fun _ => ⟨_, _, _, _, rfl⟩⟩

/-- A message that enters stands in the window, under the next number of its core. -/
theorem exists_window_enterWith (s : State) (k n dst chan : Nat) (ws : List Word) (frm : MsgFrom) (lines : List Nat) :
    ∃ m ∈ ((s.enterWith k n dst chan ws frm lines).core k).window, m.letter = ((s.core k).nextUid, dst, chan, ws) := by
  unfold State.enterWith
  dsimp only
  generalize hm : Msg.mk _ _ _ _ _ _ _ _ _ _ _ _ _ = m
  have hletter : m.letter = ((s.core k).nextUid, dst, chan, ws) := by
    rw [← hm]
    rfl
  have hposts := posts_startMsg (s.modCore k fun c => { c with window := c.window ++ [m], nextUid := c.nextUid + 1 }) k m
  obtain ⟨ch, w, hcore, hw⟩ := hposts.core k
  have hin : m ∈ ((s.modCore k fun c => { c with window := c.window ++ [m], nextUid := c.nextUid + 1 }).core k).window := by
    rw [modCore_eq, core_setCore_same]
    exact List.mem_append_right _ List.mem_cons_self
  obtain ⟨x, hx, hxm⟩ := hw m hin
  rw [hcore]
  exact ⟨x, hx, hxm.trans hletter⟩

theorem sendHwWith_room {s : State} {k : Nat} (hroom : (s.core k).windowBusy = false) (hnone : (s.core k).hwWait = [])
    (n dst chan : Nat) (ws : List Word) (frm : MsgFrom) (lines : List Nat) :
    s.sendHwWith k n dst chan ws frm lines = s.enterWith k n dst chan ws frm lines := by
  simp [State.sendHwWith, hroom, hnone]

/-- The completion word of a command that notifies stands in the window, when it has room (R194). -/
theorem exists_window_sendCompletion {s : State} {k : Nat} {h : CmdHead} (hnotify : cNotify h.word = true)
    (hroom : (s.core k).windowBusy = false) (hnone : (s.core k).hwWait = []) (payload status acc : Nat) (lines : List Nat) :
    ∃ m ∈ ((s.sendCompletion k h payload status acc lines).core k).window, m.letter =
      ((s.core k).nextUid, k, cChan h.word, [completionWord payload h.seq status acc (cOpcode h.word)]) := by
  rw [State.sendCompletion, if_pos hnotify, sendHwWith_room hroom hnone]
  exact exists_window_enterWith ..

/-! Retirement (R188, R194). -/

section
variable {s : State} {r : CmdRef} {q : CopyCmd} {n : Nat}
  (hfound : (s.core r.core).copyQ.find? (fun q => q.hd.seq = r.seq) = some q) (hdone : q.st = .done n)
include hfound hdone

theorem copyRetire_notifying (h : q.notifies ≠ 0) : s.copyRetire r = s := by
  simp [State.copyRetire, hfound, hdone, h]

theorem copyRetire_away (h : q.notifies = 0) (hruns : (s.core r.core).stopped = false) (haway : s.engHome r.core = false) :
    s.copyRetire r = s.plan (.copyCommandRetire r) := by
  simp [State.copyRetire, hfound, hdone, h, hruns, haway]

theorem copyRetire_home (h : q.notifies = 0) (hruns : (s.core r.core).stopped = false) (hhome : s.engHome r.core = true) :
    s.copyRetire r = ((s.modCore r.core fun c => { c with copyQ := dropFirst (fun (x : CopyCmd) => x.hd.seq = r.seq) c.copyQ
      }).sendCompletion r.core q.hd (cOp q.hd.word 7) n 0 q.lines).wakeUnits r.core := by
  simp [State.copyRetire, hfound, hdone, h, hruns, hhome]

end

/-- A command that leaves the queue, with its completion word on its way. -/
theorem copyRetire_leaves (s : State) (k : Nat) (f : List CopyCmd → List CopyCmd) (h : CmdHead) (payload status acc : Nat)
    (lines : List Nat) :
    let t := ((s.modCore k fun c => { c with copyQ := f c.copyQ }).sendCompletion k h payload status acc lines).wakeUnits k
    s.keepsMem t ∧ (t.core k).copyQ = f (s.core k).copyQ ∧
      (cNotify h.word = true → (s.core k).windowBusy = false → (s.core k).hwWait = [] →
        ∃ m ∈ (t.core k).window, m.uid = (s.core k).nextUid ∧ m.dst = k ∧ m.chan = cChan h.word ∧
          m.words = [completionWord payload h.seq status acc (cOpcode h.word)]) := by
  dsimp only
  generalize hu : (s.modCore k fun c => { c with copyQ := f c.copyQ }) = u
  have hcore : u.core k = { s.core k with copyQ := f (s.core k).copyQ } := by rw [← hu, modCore_eq, core_setCore_same]
  have hsent := sendsOnly_sendCompletion u k h payload status acc lines
  obtain ⟨xs, hwake⟩ := core_wakeUnits (u.sendCompletion k h payload status acc lines) k k
  refine ⟨fun a => ?_, ?_, fun hnotify hroom hnone => ?_⟩
  · show Memory.byte a (u.sendCompletion k h payload status acc lines).mem = _
    rw [hsent.mem.1, ← hu]
    rfl
  · obtain ⟨ch, w, uid, hw, hthere⟩ := hsent.core k
    rw [hwake, hthere, hcore]
  · obtain ⟨m, hm, hletter⟩ := exists_window_sendCompletion (s := u) hnotify (by rw [hcore]; exact hroom) (by rw [hcore]; exact hnone)
      payload status acc lines
    rw [hcore] at hletter
    obtain ⟨huid, hdst, hchan, hwords⟩ : _ ∧ _ ∧ _ ∧ _ := by simpa only [Msg.letter, Prod.mk.injEq] using hletter
    refine ⟨m, ?_, huid, hdst, hchan, hwords⟩
    rw [hwake]
    exact hm

/-- Settles O38: the work of each command ends as its lemma says, and the end of a row moves the command on. -/
theorem copyTransfers : Obligations.CopyTransfers := by
  unfold Obligations.CopyTransfers
  intro s r q k W A
  refine ⟨fun h => ⟨fun hrows => ?cpyn, ?ringput, ?ringputFull, ?stream, ?streamReleased, ?mcast, ?l2pinfill⟩, ?retire, ?notifying⟩
  case cpyn =>
    have hexec : exec (.cpyn r) s = .next ((s.cpynNotify k q).after s r q) := by
      show Host.Outcome.next (s.copyRun r _) = _
      rw [copyRun_ready h, if_neg (Nat.not_lt.2 hrows)]
    refine ⟨fun haway => ⟨_, hexec, ?_⟩, fun d hhome hmsg hd => ⟨_, hexec, ?_⟩, fun l ls hhome hword hl hown => ⟨_, hexec, ?_⟩⟩
    · rw [cpynNotify_away haway]
      rfl
    · rw [cpynNotify_message hhome hmsg hd]
      rfl
    · rw [cpynNotify_word hhome hword hl hown]
      rfl
  case ringput =>
    intro vs sd g hfits hkept hroom hvs hsd data
    refine ⟨_, s.perform k 8 ((s.keyLocs (g.slotKey k g.tail) data.length).zip data), rfl, writes_perform _ _ _ _, ?_⟩
    rw [copyRun_ready h, ringPut_slot rfl hfits hkept hroom hvs hsd]
    rfl
  case ringputFull =>
    intro g hg hfits hkept hfull
    refine ⟨_, rfl, ?_⟩
    rw [copyRun_ready h, ringPut_full hg.symm hfits hkept hfull]
    rfl
  case stream =>
    intro w vs e lo n hw hheld
    have hin : exec (.streamin r) s = .next ((s.streamIn k q).after s r q) := congrArg _ (copyRun_ready h _)
    have hout : exec (.streamout r) s = .next ((s.streamOut k q).after s r q) := congrArg _ (copyRun_ready h _)
    refine ⟨fun hroom hvs => ?_, fun hfull => ⟨_, hin, ?_⟩, fun row rest u hrow hu => ?_, fun hempty => ⟨_, hout, ?_⟩⟩
    · rw [streamIn_row hw hheld hroom hvs] at hin
      refine ⟨_, _, hin, rowTo_after_rowNext .., fun a => ?_, ?_⟩
      · rw [mem_after_rowNext]
        rfl
      · rw [win_after_rowNext, win_wakeUnits_modWin]
        rfl
    · rw [streamIn_full hw hheld hfull]
      rfl
    · rw [streamOut_row hw hheld hrow hu] at hout
      refine ⟨_, hout, fun a => ?_, ?_⟩
      · rw [mem_after_rowNext]
        rfl
      · rw [win_after_rowNext, win_wakeUnits_modWin]
    · rw [streamOut_empty hw hheld hempty]
      rfl
  case streamReleased =>
    rintro i (rfl | rfl) hreleased
    · show Host.Outcome.next (s.copyRun r _) = _
      rw [copyRun_ready h, streamIn_released hreleased]
      rfl
    · show Host.Outcome.next (s.copyRun r _) = _
      rw [copyRun_ready h, streamOut_released hreleased]
      rfl
  case mcast =>
    intro i hi
    have hexec : exec i s = .next ((s.mcast k q).after s r q) := by
      rcases hi with rfl | rfl <;> exact congrArg _ (copyRun_ready h _)
    refine ⟨fun vs es hrow hvs hes => ⟨_, _, hexec, ?_, rfl⟩, fun hrow haway => ⟨_, hexec, ?_⟩,
      fun hrow hhome hgood hnone => ⟨_, hexec, ?_⟩, fun rank hrow hhome hgood hone hmsg hword => ⟨_, hexec, ?_⟩⟩
    · rw [mcast_payload hrow hvs hes, State.RowTo, if_pos (by omega)]
      rfl
    · rw [mcast_away hrow haway]
      rfl
    · rw [mcast_noDest hrow hhome hgood hnone]
      rfl
    · rw [mcast_notify hrow hhome hgood hone hmsg hword]
      rfl
  case l2pinfill =>
    intro bs u p hbs hpins
    refine ⟨_, rfl, ?_⟩
    rw [copyRun_ready h, pinFill_row hbs hpins]
    exact rowTo_after_rowNext s u r q _
  case retire =>
    intro hfound n hdone hzero hruns
    refine ⟨fun haway => ⟨_, rfl, copyRetire_away hfound hdone hzero hruns haway⟩, fun hhome => ⟨_, rfl, ?_⟩⟩
    rw [copyRetire_home hfound hdone hzero hruns hhome]
    exact copyRetire_leaves s k _ q.hd _ n 0 q.lines
  case notifying =>
    intro hnotifies hfound n hdone
    exact congrArg _ (copyRetire_notifying hfound hdone hnotifies)

end Sys2Proof.Machine
end
